-- ==== Sys2Proof/Word.lean ====
section
/-! DEFINITION. The byte type and the little-endian reading and writing of unsigned fields (R11, R12). -/

namespace Sys2Proof

/-- One byte. -/
abbrev Byte := BitVec 8

/-- A byte from a natural number, its low eight bits. -/
def byte (n : Nat) : Byte := BitVec.ofNat 8 n

/-- The `k` little-endian bytes of `n` (R12): the byte at the lowest offset holds the least significant bits. -/
def leBytes : Nat → Nat → List Byte
  | 0, _ => []
  | k + 1, n => byte n :: leBytes k (n / 256)

/-- The unsigned value of a little-endian byte string (R12). -/
def leVal : List Byte → Nat
  | [] => 0
  | b :: bs => b.toNat + 256 * leVal bs

/-- The `k` big-endian bytes of `n` (R13: keys and signatures). -/
def beBytes (k n : Nat) : List Byte := (leBytes k n).reverse

/-- `k` zero bytes. -/
def zeros (k : Nat) : List Byte := List.replicate k 0

/-- Bits `hi` down to `lo` of `n` (R11). -/
def bits (n lo width : Nat) : Nat := n / 2 ^ lo % 2 ^ width

/-- Bit `i` of `n` (R11). -/
def bit (n i : Nat) : Bool := n / 2 ^ i % 2 == 1

/-- 1 for true, 0 for false. -/
def flag (b : Bool) : Nat := if b then 1 else 0

/-- A saturating sum: counts that stop at `2 ^ w - 1`. -/
def satAdd (w a b : Nat) : Nat := min (a + b) (2 ^ w - 1)

/-- The quotient rounded up. -/
def ceilDiv (a b : Nat) : Nat := (a + b - 1) / b

/-- `k` bytes of `bs` from offset `o`; bytes beyond the end read as zero. -/
def slice (bs : List Byte) (o k : Nat) : List Byte :=
  let r := (bs.drop o).take k
  r ++ zeros (k - r.length)

/-- The little-endian field of `k` bytes at offset `o`. -/
def field (bs : List Byte) (o k : Nat) : Nat := leVal (slice bs o k)

/-- `bs` with the bytes from offset `o` replaced by `v`, kept at its length. -/
def splice (bs : List Byte) (o : Nat) (v : List Byte) : List Byte :=
  (bs.take o ++ v ++ bs.drop (o + v.length)).take bs.length

/-- `bs` cut or filled with zeros to exactly `k` bytes. -/
def fit (k : Nat) (bs : List Byte) : List Byte := slice bs 0 k

end Sys2Proof
end

