-- ==== Sys2Proof/Packet.lean ====
section
/-! DEFINITION. Command packets as the host writes them: the header fields of Table 4.2 and, one constructor for
each opcode of Table 6.1, the parameters of its entry. Reserved bytes are not fields: a packet that sets one is
written through the ring window. -/

namespace Sys2Proof

/-- A slot reference, 8 bytes (R157). All zero names no slot (R184). -/
structure SlotRef where
  region : Nat := 0
  slot : Nat := 0
  gen : Nat := 0
  /-- 0 input, 1 output. -/
  dir : Nat := 0
  deriving DecidableEq, Repr

/-- What a packet's sender chooses besides the parameters (Tables 4.2, 4.3) and the ring it writes to. -/
structure PacketHeader where
  /-- 0: the PF; p + 1: VF(p+1), the owner of partition p (R81). -/
  fn : Nat
  /-- The Bulk ring when true, the Urgent ring otherwise. -/
  bulk : Bool
  flags : Nat
  seq : Nat
  tag : Nat
  /-- Packet byte 8. -/
  part : Nat
  /-- Packet byte 9. -/
  plen : Nat
  /-- The CRC field; none: the CRC-16 that R135 computes. -/
  crc : Option Nat
  /-- Host stores, in the sender's DMA space, made globally visible before the doorbell (R163). -/
  stores : List Host.Cell
  deriving DecidableEq, Repr

/-- The commands of Table 6.1 with their parameter fields. -/
inductive Command where
  | nop
  | devQuery
  | timeSet (target breath : Nat)
  | shutdown (limit : Nat)
  | breathSet (n5 floor : Nat)
  | partGroup (block blockSize newSize step n5 limit : Nat)
  | partQos (share : Nat)
  | partPower (step : Nat)
  | bellowsRegister (kind slotLog2 countM1 options headerBase payloadBase : Nat)
  | bellowsDeregister (region mode : Nat)
  | bellowsRead (source : SlotRef) (dest : Nat)
  | bellowsWrite (dest : SlotRef) (source length : Nat)
  | memFill (addr length pattern : Nat)
  | retirePage (addr : Nat)
  | modelLoad (digest : List Byte) (addr length format : Nat)
  | stopPin (model firstCore cores : Nat)
  | stopRelease (residency : Nat)
  | modelRelease (model : Nat)
  | progRegister (addr count : Nat)
  | progRelease (program : Nat)
  | shapeSet (first count : Nat) (values : List Nat)
  | progRun (program seed : Nat) (slots : List SlotRef)
  | histPool (base pages pageSize : Nat)
  | histOpen (pool policy region key : Nat)
  | histPrefill (program sequence : Nat) (tokens : SlotRef)
  | histClose (handle : Nat)
  | score (program sequence seed steps : Nat) (input output : SlotRef)
  | jobSubmit (program seed steps : Nat) (input output : SlotRef)
  | jobCancel (tag : Nat)
  | vidOpen (codec width height buffers desc : Nat)
  | vidDecode (session : Nat) (bitstream statistics : SlotRef)
  | setConditioning (session generation gain offset x y w h gamma : Nat)
  | vidClose (session : Nat)
  | snapshotShadow (freeze region firstSlot rate : Nat)
  | snapshotStop (stop region firstSlot : Nat)
  | restore (region firstSlot : Nat)
  | consortForm (card members topology ports : Nat) (digest : List Byte) (timeout : Nat)
  | consortLeave (breath : Nat)
  | auditPolicy (policy : Nat)
  | cartRetire (bay : Nat)
  | ledgerFlush
  | ledgerNote (data : List Byte)
  | bayEject (bay : Nat)
  | fwUpdate (image : SlotRef) (target activate : Nat)
  | ownerKeyInstall (key : SlotRef)
  | sealClear
  | presenceSet (length : Nat)
  | attest (nonce : List Byte) (output : SlotRef)
  | diagRun (set : Nat)
  | droneCfg (envelopes : SlotRef) (mode : Nat)
  deriving DecidableEq, Repr

/-- The 8 bytes of a slot reference (R157). -/
def SlotRef.toBytes (r : SlotRef) : List Byte :=
  leBytes 2 r.region ++ leBytes 2 r.slot ++ leBytes 1 r.gen ++ leBytes 1 r.dir ++ zeros 2

/-- The slot reference in 8 bytes (R157). -/
def SlotRef.ofBytes (bs : List Byte) : SlotRef :=
  { region := field bs 0 2, slot := field bs 2 2, gen := field bs 4 1, dir := field bs 5 1 }

/-- The opcode of Table 6.1. -/
def Command.opcode : Command → Nat
  | .nop => 0x00 | .devQuery => 0x01 | .timeSet .. => 0x02 | .shutdown .. => 0x03
  | .breathSet .. => 0x10 | .partGroup .. => 0x11 | .partQos .. => 0x12 | .partPower .. => 0x13
  | .bellowsRegister .. => 0x20 | .bellowsDeregister .. => 0x21 | .bellowsRead .. => 0x22
  | .bellowsWrite .. => 0x23 | .memFill .. => 0x24 | .retirePage .. => 0x25
  | .modelLoad .. => 0x30 | .stopPin .. => 0x31 | .stopRelease .. => 0x32 | .modelRelease .. => 0x33
  | .progRegister .. => 0x40 | .progRelease .. => 0x41 | .shapeSet .. => 0x42 | .progRun .. => 0x43
  | .histPool .. => 0x50 | .histOpen .. => 0x51 | .histPrefill .. => 0x52 | .histClose .. => 0x53
  | .score .. => 0x60 | .jobSubmit .. => 0x61 | .jobCancel .. => 0x62
  | .vidOpen .. => 0x70 | .vidDecode .. => 0x71 | .setConditioning .. => 0x72 | .vidClose .. => 0x73
  | .snapshotShadow .. => 0x80 | .snapshotStop .. => 0x81 | .restore .. => 0x82
  | .consortForm .. => 0x90 | .consortLeave .. => 0x91
  | .auditPolicy .. => 0xA0 | .cartRetire .. => 0xA1 | .ledgerFlush => 0xA2 | .ledgerNote .. => 0xA3
  | .bayEject .. => 0xA4
  | .fwUpdate .. => 0xB0 | .ownerKeyInstall .. => 0xB1 | .sealClear => 0xB2 | .presenceSet .. => 0xB3
  | .attest .. => 0xB4
  | .diagRun .. => 0xC0 | .droneCfg .. => 0xC1

/-- The parameter bytes of a command, in the order of its entry's table, reserved bytes zero (R16). -/
def Command.params : Command → List Byte
  | .nop | .devQuery | .ledgerFlush | .sealClear => []
  | .timeSet t b => leBytes 8 t ++ leBytes 6 b
  | .shutdown l => leBytes 4 l
  | .breathSet n f => leBytes 2 n ++ leBytes 1 f ++ zeros 1
  | .partGroup b bs ns st n l =>
      leBytes 1 b ++ leBytes 1 bs ++ leBytes 1 ns ++ leBytes 1 st ++ leBytes 2 n ++ leBytes 2 l
  | .partQos x => leBytes 1 x
  | .partPower x => leBytes 1 x
  | .bellowsRegister k s c o hb pb =>
      leBytes 1 k ++ leBytes 1 s ++ leBytes 2 c ++ leBytes 1 o ++ zeros 3 ++ leBytes 8 hb ++ leBytes 8 pb
  | .bellowsDeregister r m => leBytes 2 r ++ leBytes 1 m ++ zeros 1
  | .bellowsRead s d => s.toBytes ++ leBytes 8 d
  | .bellowsWrite d s l => d.toBytes ++ leBytes 8 s ++ leBytes 4 l
  | .memFill a l p => leBytes 8 a ++ leBytes 8 l ++ leBytes 4 p
  | .retirePage a => leBytes 8 a
  | .modelLoad d a l f => fit 32 d ++ leBytes 8 a ++ leBytes 8 l ++ leBytes 1 f ++ zeros 3
  | .stopPin m f c => leBytes 4 m ++ leBytes 2 f ++ leBytes 2 c
  | .stopRelease h => leBytes 4 h
  | .modelRelease h => leBytes 4 h
  | .progRegister a c => leBytes 8 a ++ leBytes 2 c ++ zeros 2
  | .progRelease h => leBytes 4 h
  | .shapeSet f c v => leBytes 1 f ++ leBytes 1 c ++ zeros 2 ++ fit 48 (v.flatMap (leBytes 4))
  | .progRun p sd sl => leBytes 8 p ++ leBytes 8 sd ++ fit 32 (sl.flatMap SlotRef.toBytes)
  | .histPool b p z => leBytes 8 b ++ leBytes 4 p ++ leBytes 1 z ++ zeros 3
  | .histOpen p y r k => leBytes 4 p ++ leBytes 1 y ++ zeros 1 ++ leBytes 2 r ++ leBytes 8 k
  | .histPrefill p q t => leBytes 8 p ++ leBytes 4 q ++ zeros 4 ++ t.toBytes
  | .histClose h => leBytes 4 h
  | .score p q sd st i o =>
      leBytes 8 p ++ leBytes 4 q ++ leBytes 8 sd ++ leBytes 1 st ++ zeros 3 ++ i.toBytes ++ o.toBytes
  | .jobSubmit p sd st i o => leBytes 8 p ++ leBytes 8 sd ++ leBytes 2 st ++ zeros 6 ++ i.toBytes ++ o.toBytes
  | .jobCancel t => leBytes 4 t
  | .vidOpen c w h b d => leBytes 1 c ++ zeros 1 ++ leBytes 2 w ++ leBytes 2 h ++ leBytes 2 b ++ leBytes 8 d
  | .vidDecode s b t => leBytes 4 s ++ b.toBytes ++ t.toBytes
  | .setConditioning s g a o x y w h t =>
      leBytes 4 s ++ leBytes 2 g ++ leBytes 2 a ++ leBytes 2 o ++ leBytes 2 x ++ leBytes 2 y ++ leBytes 2 w
        ++ leBytes 2 h ++ leBytes 8 t ++ zeros 2
  | .vidClose s => leBytes 4 s
  | .snapshotShadow f r s d => leBytes 6 f ++ leBytes 2 r ++ leBytes 2 s ++ leBytes 2 d ++ zeros 4
  | .snapshotStop b r s => leBytes 6 b ++ leBytes 2 r ++ leBytes 2 s ++ zeros 2
  | .restore r s => leBytes 2 r ++ leBytes 2 s
  | .consortForm c m t p d o =>
      leBytes 1 c ++ leBytes 1 m ++ leBytes 1 t ++ leBytes 1 p ++ fit 32 d ++ leBytes 2 o ++ zeros 2
  | .consortLeave b => leBytes 6 b ++ zeros 2
  | .auditPolicy p => leBytes 1 p
  | .cartRetire b => leBytes 1 b
  | .ledgerNote d => fit 32 d
  | .bayEject b => leBytes 1 b
  | .fwUpdate i t a => i.toBytes ++ leBytes 1 t ++ leBytes 1 a ++ zeros 2
  | .ownerKeyInstall k => k.toBytes
  | .presenceSet l => leBytes 2 l
  | .attest n o => fit 32 n ++ o.toBytes
  | .diagRun x => leBytes 1 x ++ zeros 3
  | .droneCfg e m => e.toBytes ++ leBytes 1 m ++ zeros 3

end Sys2Proof
end

