-- ==== Sys2Proof/Syntax.lean ====
section
/-! DEFINITION. The commands the block takes, one constructor for each row of the command table: writes and reads of
its registers, packets of the fifty opcodes as the host submits them, and the happenings on its clocks, links,
memories, switches and pins. A function is 0 for the PF and p + 1 for VF(p+1); a block is 0 to 15 for a partition
block and 16 for the device block; a train is 0 to 15 for the group led by that partition and 16 for the
administrative train. -/

namespace Sys2Proof

/-- A cartridge as it is put into a bay: what its three CMD56 pages report (Tables 19.1 to 19.3). -/
structure CartridgePages where
  /-- The identity page is valid and names an LC-8T (R643). -/
  genuine : Bool
  id : List Byte
  insertions : Nat
  spare : Nat
  temperature : Nat
  remapped : Nat
  /-- 0xFFFF_FFFF: no block is written. -/
  openSlot : Nat
  /-- The written map of the open slot. -/
  writtenMap : Nat
  /-- Bit 0 bound, bit 1 retired, bit 2 faulted. -/
  life : Nat
  boundCard : List Byte
  bindTime : Nat
  retireTime : Nat
  lastSlot : Nat
  faultCode : Nat
  /-- Committed folio images on the cartridge, by slot: the 512 bytes of block 0. -/
  headers : List (Nat × List Byte)
  deriving DecidableEq, Repr

/-- The link fields every Ligature frame carries (R559): the receiving port, the 16-bit link sequence, whether the
CRC-32C is good. -/
structure FrameLink where
  port : Nat
  linkSeq : Nat
  crcGood : Bool
  deriving DecidableEq, Repr

/-- One step of the leader's admitted set as an ADMIT frame carries it (Table 16.3). -/
structure AdmitStep where
  work : Nat
  step : Nat
  cycles : Nat
  deriving DecidableEq, Repr

/-- The commands of the block. -/
inductive Instr where
  /-- A host write into a submission ring window stores packet bytes in the addressed slot, or is discarded beyond the ring depth. (R109) -/
  | ringSlotWrite (fn blk : Nat) (bulk : Bool) (off : Nat) (data : List Byte)
  /-- A 4-byte write of a new tail to an Urgent, Bulk or administrative doorbell makes packets available, or is discarded and counted as a violation. (R116) -/
  | doorbell (fn blk : Nat) (bulk : Bool) (value size : Nat) (stores : List Host.Cell)
  /-- The host advances a reply queue head; a write past the tail is discarded and counted, and held replies may then be posted. (R121) -/
  | replyHeadWrite (fn blk value : Nat)
  /-- The host advances an event queue head; a write past the tail is discarded and counted, and waiting EVENTS_LOST records may then be written. (R719) -/
  | evqHeadWrite (fn blk value : Nat)
  /-- A write to URG_CFG, BULK_CFG or an ADMIN_ counterpart sets depth and enable, resetting head, tail and expected sequence on enabling. (R779) -/
  | ringCfgWrite (fn blk : Nat) (bulk : Bool) (value : Nat)
  /-- A write to REPLY_CFG sets the reply queue depth and enable, setting tail 0 and phase 1 on enabling. (R780) -/
  | replyCfgWrite (fn blk value : Nat)
  /-- A write to EVQ_CFG or DEV_EVQ_CFG sets depth, enable, moderation and mirror bits; enabling writes and numbers the held events. (R783) -/
  | evqCfgWrite (fn blk value : Nat)
  /-- A PF write of 1 to ADMIN_RING_CTRL.UNFREEZE unfreezes and reinitialises both administrative rings. (R149) -/
  | unfreeze (fn value : Nat)
  /-- A PF write of 1 to DEV_CTRL.CHANTER_RESTART stops admission and, once every train has stopped, reloads the Chanter; discarded while in a consort. (R710) -/
  | chanterRestart (fn value : Nat)
  /-- A write of 1 to PART_PERF_CTRL.SNAP copies all partition and core counters, CYC_SNAP and the timebase into shadow registers in one cycle. (R736) -/
  | snap (fn blk value : Nat)
  /-- A write of 1 to PART_PERF_CTRL.CLEAR clears the partition's performance counters in one core cycle. (R735) -/
  | clear (fn blk value : Nat)
  /-- A PF write of 1 to RECOVERY_CTRL.GO in FAILED inside a presence window makes the ROM read, check and write a recovery image to both banks. (R700) -/
  | go (fn value : Nat) (image : List Byte)
  /-- A write to BAR2_WIN moves the function's HBM debug aperture; a PF write to a partition block's window is discarded. (R765) -/
  | bar2WinWrite (fn blk value : Nat)
  /-- A write to EVENT_STATUS or DEV_EVENT_STATUS clears the bits written as 1, with a same-cycle set winning. (R784) -/
  | eventStatusWrite (fn blk value : Nat)
  /-- A read of LAST_VIOLATION returns the last counted violation and clears the register. (R782) -/
  | lastViolationRead (fn blk : Nat)
  /-- A read beginning at LEDGER_NEXT latches LEDGER_COMMITTED, FOLIO_CLOSED and LEDGER_CHAIN for the reading function. (R770) -/
  | ledgerNextRead (fn size : Nat)
  /-- A read beginning at the first byte of a 16-byte or 32-byte register latches its remaining bytes for the reading function. (R750) -/
  | wideRegisterRead (fn off size : Nat)
  /-- A 4-byte read of the low half of a 64-bit register latches its high half for the reading function. (R738) -/
  | halfRegisterRead (fn off : Nat)
  /-- A write to any other register sets its fields, or is discarded whole if out of range, reserved or RWP without presence. (R753) -/
  | registerWrite (fn bar off size value : Nat)
  /-- A BAR2 read returns HBM bytes while the loop is intact, or zeros with a BAR2_REFUSED event otherwise. (R683) -/
  | bar2Read (fn off size : Nat)
  /-- A BAR2 write inside a window with the loop intact is held and applied after the next passed seal; otherwise it is discarded. (R683) -/
  | bar2Write (fn off : Nat) (data : List Byte)
  /-- A VF function-level reset resets the whole group if the VF owns its leader, or only that VF's function state and event queue otherwise. (R91) -/
  | functionLevelReset (vf : Nat)
  /-- A PF function-level reset, hot or link-down reset, or PERST# with power on starts a device reset and the start-up phases. (R706) -/
  | deviceReset (linkDown : Bool)
  /-- Power-good after all rails are in tolerance begins a cold reset and phase 1 of start-up. (R794) -/
  | powerGood
  /-- Deassertion of PERST# after power-good lets phase 1 train the link and start-up timing proceed. (R795) -/
  | perstDeassert (gen width : Nat)
  /-- A poisoned completion on a slot read ends the command with BAD_PARAM 0x0508 and writes RETIRED to the slot. (R168) -/
  | bellowsPoisonedCompletion (fn region slot : Nat)
  /-- A slot read that times out ends the command with BAD_PARAM 0x0508 and writes RETIRED to the slot. (R168) -/
  | bellowsCompletionTimeout (fn region slot : Nat)
  /-- Unsupported Request or Completer Abort on a region access withdraws the region and ends its commands with 0x0509. (R169) -/
  | bellowsUnsupportedRequest (fn region : Nat) (completerAbort : Bool)
  /-- Does nothing and replies with the ring's expected sequence. (R192) -/
  | nop (h : PacketHeader)
  /-- Returns firmware release, stepping, device state, device time and link parameters. (R194) -/
  | devQuery (h : PacketHeader)
  /-- Sets device time to a target at a named administrative Breath, stepping forward or slewing back by at most 1 ms. (R196) -/
  | timeSet (h : PacketHeader) (target breath : Nat)
  /-- Stops admission, drains sliced work up to a limit, commits staged records and leads to HALTED. (R198) -/
  | shutdown (h : PacketHeader) (limit : Nat)
  /-- Changes the Breath period and Bulk floor of an idle partition or group. (R46) -/
  | breathSet (h : PacketHeader) (n5 floor : Nat)
  /-- Privileged regroup of an aligned block: drains, clears on-chip state and applies the new grouping, period and power step. (R92) -/
  | partGroup (h : PacketHeader) (block blockSize newSize step n5 limit : Nat)
  /-- PF sets a partition's energy share, effective at its next admission point. (R103) -/
  | partQos (h : PacketHeader) (share : Nat)
  /-- Changes an idle group's core clock within a quiet Breath. (R106) -/
  | partPower (h : PacketHeader) (step : Nat)
  /-- Registers a data or spill region of host memory and returns its handle. (R152) -/
  | bellowsRegister (h : PacketHeader) (kind slotLog2 countM1 options headerBase payloadBase : Nat)
  /-- Withdraws a region, refusing in mode 0 if slots are in use or ending holding commands in mode 1. (R170) -/
  | bellowsDeregister (h : PacketHeader) (region mode : Nat)
  /-- Copies the valid payload of an input slot into HBM. (R212) -/
  | bellowsRead (h : PacketHeader) (source : SlotRef) (dest : Nat)
  /-- Copies an HBM range into an output slot. (R214) -/
  | bellowsWrite (h : PacketHeader) (dest : SlotRef) (source length : Nat)
  /-- Fills an HBM range with a 32-bit pattern in sliced steps, skipping retired pages. (R216) -/
  | memFill (h : PacketHeader) (addr length pattern : Nat)
  /-- Enters a 64 KiB HBM page in the persistent retirement table. (R218) -/
  | retirePage (h : PacketHeader) (addr : Nat)
  /-- Declares an HBM range as a model after checking its SHA-256 digest. (R220) -/
  | modelLoad (h : PacketHeader) (digest : List Byte) (addr length format : Nat)
  /-- Copies a model's Stop image into Stop banks in sliced steps and tests every pinned macro. (R356) -/
  | stopPin (h : PacketHeader) (model firstCore cores : Nat)
  /-- Frees the Stop banks of a residency. (R224) -/
  | stopRelease (h : PacketHeader) (residency : Nat)
  /-- Releases a model and frees its HBM range. (R224) -/
  | modelRelease (h : PacketHeader) (model : Nat)
  /-- Checks and registers a program of descriptors in HBM and returns its handle. (R226) -/
  | progRegister (h : PacketHeader) (addr count : Nat)
  /-- Releases a registered program. (R228) -/
  | progRelease (h : PacketHeader) (program : Nat)
  /-- Writes shape registers of the group leader. (R230) -/
  | shapeSet (h : PacketHeader) (first count : Nat) (values : List Nat)
  /-- Runs a program once as one compute step. (R232) -/
  | progRun (h : PacketHeader) (program seed : Nat) (slots : List SlotRef)
  /-- Creates a history pool from a pool descriptor in HBM and clears its control area. (R450) -/
  | histPool (h : PacketHeader) (base pages pageSize : Nat)
  /-- Opens a sequence in a pool with a fixed overflow policy. (R454) -/
  | histOpen (h : PacketHeader) (pool policy region key : Nat)
  /-- Builds a cold sequence from stored tokens, one page per step. (R461) -/
  | histPrefill (h : PacketHeader) (program sequence : Nat) (tokens : SlotRef)
  /-- Closes a sequence or an empty pool and frees its pages. (R240) -/
  | histClose (h : PacketHeader) (handle : Nat)
  /-- Appends one token to a sequence and runs a refinement program for the given number of steps as one Urgent step. (R242) -/
  | score (h : PacketHeader) (program sequence seed steps : Nat) (input output : SlotRef)
  /-- Submits a sliced Bulk refinement job, refused STEP_TOO_LONG if one step exceeds an empty Breath. (R245) -/
  | jobSubmit (h : PacketHeader) (program seed steps : Nat) (input output : SlotRef)
  /-- Stops further steps of the oldest job of the function carrying the named tag. (R247) -/
  | jobCancel (h : PacketHeader) (tag : Nat)
  /-- Opens a video session on a decoder engine with a reserved decode rate. (R504) -/
  | vidOpen (h : PacketHeader) (codec width height buffers desc : Nat)
  /-- Decodes access units, conditions output frames, writes statistics and presents one frame per tick. (R516) -/
  | vidDecode (h : PacketHeader) (session : Nat) (bitstream statistics : SlotRef)
  /-- Writes the session's shadow conditioning set, active from the next Breath. (R253) -/
  | setConditioning (h : PacketHeader) (session generation gain offset x y w hgt gamma : Nat)
  /-- Closes a video session and frees its engine reservation. (R255) -/
  | vidClose (h : PacketHeader) (session : Nat)
  /-- Freezes a group's state at a Breath and drains a checkpoint image at a paced rate. (R590) -/
  | snapshotShadow (h : PacketHeader) (freeze region firstSlot rate : Nat)
  /-- Stops every train of the card or consort at an agreed Breath and drains all images unpaced. (R595) -/
  | snapshotStop (h : PacketHeader) (stop region firstSlot : Nat)
  /-- Rebuilds an idle group from a checkpoint image in Bellows slots. (R600) -/
  | restore (h : PacketHeader) (region firstSlot : Nat)
  /-- Starts formation of a consort: digest check, port training, HELLO exchange and timebase alignment. (R563) -/
  | consortForm (h : PacketHeader) (card members topology ports : Nat) (digest : List Byte) (timeout : Nat)
  /-- Makes the card leave the consort after a named administrative Breath. (R582) -/
  | consortLeave (h : PacketHeader) (breath : Nat)
  /-- Privileged selection of FAIL_CLOSED or FAIL_OPEN from the next admission point. (R267) -/
  | auditPolicy (h : PacketHeader) (policy : Nat)
  /-- Privileged retirement of a cartridge: stages its record, commits a closing folio and sets life-page bit 1. (R269) -/
  | cartRetire (h : PacketHeader) (bay : Nat)
  /-- Commits every record staged before its Breath to a cartridge as whole folios. (R271) -/
  | ledgerFlush (h : PacketHeader)
  /-- Stores 32 bytes of host data as a NOTE record. (R273) -/
  | ledgerNote (h : PacketHeader) (data : List Byte)
  /-- Commits the open folio, stops writing to a bay and releases its latch. (R275) -/
  | bayEject (h : PacketHeader) (bay : Nat)
  /-- Privileged write of a checked, signed firmware image to the inactive bank. (R687) -/
  | fwUpdate (h : PacketHeader) (image : SlotRef) (target activate : Nat)
  /-- Privileged install or replacement of the owner key. (R690) -/
  | ownerKeyInstall (h : PacketHeader) (key : SlotRef)
  /-- Privileged clear of the seal latch inside a window with the loop continuous. (R281) -/
  | sealClear (h : PacketHeader)
  /-- Privileged change of the presence window length for later windows. (R283) -/
  | presenceSet (h : PacketHeader) (length : Nat)
  /-- Writes a signed attestation quote with certificate to an output slot. (R692) -/
  | attest (h : PacketHeader) (nonce : List Byte) (output : SlotRef)
  /-- Runs the quick or full diagnostic set on every core of an idle group and faults failing partitions. (R552) -/
  | diagRun (h : PacketHeader) (set : Nat)
  /-- Loads range monitors replacing every monitor of the group. (R375) -/
  | droneCfg (h : PacketHeader) (envelopes : SlotRef) (mode : Nat)
  /-- At a timebase grid point a train's Breath starts: Drone slot, restore of a re-run, then issue of the admitted set. (R52) -/
  | breathStart (train : Nat)
  /-- At P − 2 the work window ends, overrun is handled and the admitted set of the next Breath is formed. (R60) -/
  | admissionPoint (train : Nat)
  /-- By P − 0.5 the partition's seal is decided; on a pass replies, slot flags and commits are released, on a failure the next Breath re-runs. (R535) -/
  | sealDecision (train : Nat)
  /-- Admitted work finishes within the work window and its outputs await the seal. (R66) -/
  | workComplete (train cycles : Nat)
  /-- A residue, duplicate, parity or other check fires during work and is latched to fail the seal. (R534) -/
  | checkFailure (train cause core unit : Nat)
  /-- An HBM read returns a severity: used, corrected, retried on parity, or poisoned. (R485) -/
  | hbmReadOutcome (part channel page outcome : Nat) (work : Option Nat)
  /-- The scrub reads a CLM line in idle cycles and writes back a corrected single-bit error. (R551) -/
  | clmScrub (core off : Nat) (corrected : Bool) (strikes : Option Nat)
  /-- The regroup drain limit elapses and every unfinished job of the block is ended with NO_RESOURCE. (R96) -/
  | drainLimit
  /-- Once every affected train has stopped, state is cleared, rings emptied and the new grouping applied. (R97) -/
  | regroupApply
  /-- The SHUTDOWN drain limit elapses and unfinished work ends with NO_RESOURCE 0x0018. (R198) -/
  | shutdownDrainLimit
  /-- Every train is idle and staged records are committed, so the device enters HALTED. (R713) -/
  | shutdownCommitDone
  /-- The flash write of a retirement table entry completes and the page is retired. (R491) -/
  | retireFlashWriteDone
  /-- The inactive bank is written and read back; checks are repeated and the selector is set if activate was given. (R687) -/
  | fwImageWritten (readBackGood : Bool)
  /-- Every access to a deregistered region has completed or timed out, so the deregistration replies. (R170) -/
  | deregisterAccessesDone (fn region : Nat)
  /-- The unpaced drain of a stop completes and every stopped train restarts. (R596) -/
  | stopDrainComplete
  /-- RESTORE finishes reading the image, zeroes unheld pages, re-pins residencies and compares the digest. (R600) -/
  | restoreComplete (train : Nat)
  /-- The key switch enters OFF, ON or PRESENT after a 50 ms hold; OFF closes any window. (R670) -/
  | keySwitch (position : Nat)
  /-- PRESENT held for 0.5 s opens or restarts the presence window. (R671) -/
  | presentHold
  /-- The presence window reaches its end and closes. (R673) -/
  | presenceWindowEnd
  /-- An interruption of the seal loop of 1 µs or longer sets the latch and closes any window. (R675) -/
  | sealLoopInterruption (microsecond : Bool) (staysOpen : Bool)
  /-- The monitor loses both auxiliary power and a cell above 2.0 V and sets the latch as latched while unpowered. (R810) -/
  | backupCellLow
  /-- One second after its first record, an open folio closes if a tier can take it. (R622) -/
  | folioCloseTimeout
  /-- A cartridge folio commit ends with the header read-back, committing the folio or tearing the slot. (R647) -/
  | folioCommitComplete (bay outcome : Nat)
  /-- A folio commit to holding flash completes and MRAM releases the folio. (R656) -/
  | holdingFlashCommit (good : Bool)
  /-- A cartridge is detected, debounced 100 ms, and mounting begins. (R643) -/
  | cardDetect (bay : Nat) (cart : CartridgePages)
  /-- Mounting ends with the bay in its resulting state after page reads, binding and torn-slot examination. (R643) -/
  | mountComplete (bay : Nat) (ddr50 protocolError : Bool)
  /-- A cartridge is removed, with or without request, and the bay becomes EMPTY. (R653) -/
  | cardRemoved (bay : Nat)
  /-- An eject button press of 50 ms makes an eject request for its bay. (R808) -/
  | ejectButton (bay : Nat)
  /-- After the eject commits finish, writing to the bay stops, it becomes RELEASED and the latch opens. (R641) -/
  | bayRelease (bay : Nat)
  /-- A RELEASED cartridge still present after 60 s is latched again and mounted. (R641) -/
  | releaseTimeout (bay : Nat)
  /-- Low input voltage, a sense-pin change, overpower or a thermal trip raises the warning; the card stops as at a power loss. (R797) -/
  | powerFailWarning (cause : Nat)
  /-- The hold-up time ends and every rail except auxiliary is off. (R798) -/
  | holdUpEnd
  /-- Every 100 ms sensors are read and a reading at its threshold raises THERMAL_WARNING. (R748) -/
  | sensorReading (sensor : Nat) (value : Int)
  /-- Three consecutive readings at or above a trip threshold latch the cause and raise the power-fail warning. (R800) -/
  | thermalTrip (sensor : Nat)
  /-- Phase 2 verifies the selected image and loads the Chanter and I/O die. (R689) -/
  | imageCheckComplete
  /-- Phase 3 recovers the ledger writer state from MRAM and closes a folio left open. (R703) -/
  | stagingRecoveryComplete (flashMapGood : Bool)
  /-- Phase 4 trains all eight HBM stacks. (R695) -/
  | hbmTrainingComplete
  /-- Phase 5 self-test ends, faulting partitions or devices units as Table 21.3 states. (R701) -/
  | selfTestComplete (parts units : Nat) (channels : List (Nat × Nat))
  /-- Phase 6 zeroes CLM and Stop banks and initialises engines and ports. (R695) -/
  | coreInitialisationComplete
  /-- Phase 7 mounts bays and stages the start-up records, after which the device is READY. (R704) -/
  | ledgerMountComplete
  /-- The ROM watchdog goes unanswered for 5 s or READY is missing after 150 s, failing the boot attempt. (R699) -/
  | bootAttemptTimeout
  /-- The Chanter fails to answer for 5 ms; trains stop, the current seal fails and the Chanter restarts. (R711) -/
  | chanterWatchdog
  /-- The Chanter reload is verified and every train restarts with its counter continued. (R710) -/
  | chanterReloadComplete
  /-- The partition self-test after a partition reset ends, clearing or keeping faults, and the train restarts. (R709) -/
  | partitionSelfTestComplete (leader failing : Nat)
  /-- The ROM finishes writing a recovery image to both banks and starts a device reset. (R700) -/
  | recoveryComplete (bank0Good bank1Good : Bool)
  /-- A HELLO frame during formation is checked for wiring and configuration block. (R563) -/
  | hello (link : FrameLink) (card members topology port : Nat) (block : List Byte)
  /-- A TIME frame lets a follower measure its phase error and trim its timebase. (R573) -/
  | time (link : FrameLink) (leaderTimebase delay : Nat) (phaseError : Int)
  /-- An ADMIT frame gives a follower the leader's admitted set for a consort group Breath. (R571) -/
  | admitFrame (link : FrameLink) (group breath : Nat) (steps : List AdmitStep)
  /-- A DATA frame delivers provisional bytes of a Breath, checked by CRC and link sequence. (R559) -/
  | data (link : FrameLink) (breath part addr : Nat) (bytes : List Byte)
  /-- A SEAL frame carries a member verdict to the leader or the consort verdict to followers, with state digests every 64th Breath. (R575) -/
  | sealFrame (link : FrameLink) (card group breath : Nat) (pass : Bool) (causes : Nat) (digest : List Byte)
  /-- A CONTROL frame carries leave, eject, quarantine, stop-Breath or retraining notices. (R559) -/
  | control (link : FrameLink) (kind card cause value : Nat)
  /-- A link retraining completes within 20 ms, trained or failed. (R560) -/
  | linkRetrain (port : Nat) (trained : Bool)
  /-- All members agree and phase error has settled; the leader announces T0 and consort Breaths restart. (R563) -/
  | formationComplete (start adminBreath : Nat) (groupBreaths : List Nat)
  /-- A card's CONSORT_FORM timeout expires before formation, ending with CONSORT_MISMATCH 0x1006. (R563) -/
  | formationTimeout (heard : Nat)
  /-- A seal verdict missing at its deadline ejects the follower or makes it eject itself. (R577) -/
  | verdictDeadline (group : Nat)
  /-- An OSFP module is inserted and its management memory read to decide whether the port may train. (R804) -/
  | moduleInserted (port : Nat) (passive active : Bool) (lanes metres : Nat)
  /-- A picture exceeds its engine time; the command ends INTERNAL 0x0E30 and the decoded-picture buffer is flushed. (R521) -/
  | engineTimeout (train session : Nat)
  /-- MCTP control message setting the endpoint ID. (R812) -/
  | setEndpointId (eid : Nat)
  /-- MCTP control message returning the endpoint ID. (R812) -/
  | getEndpointId
  /-- MCTP control message returning the endpoint UUID. (R812) -/
  | getEndpointUuid
  /-- MCTP control message returning supported versions. (R812) -/
  | getMctpVersionSupport (msgType : Nat)
  /-- MCTP control message returning supported message types. (R812) -/
  | getMessageTypeSupport
  /-- PLDM base message returning the terminus ID. (R812) -/
  | getTid
  /-- PLDM base message returning the PLDM version. (R812) -/
  | getPldmVersion (pldmType : Nat)
  /-- PLDM base message returning supported types. (R812) -/
  | getPldmTypes
  /-- PLDM base message returning supported commands. (R812) -/
  | getPldmCommands (pldmType : Nat)
  /-- PLDM platform message returning PDR repository information. (R812) -/
  | getPdrRepositoryInfo
  /-- PLDM platform message returning a PDR. (R812) -/
  | getPdr (record : Nat)
  /-- PLDM platform message returning a telemetry sensor value. (R743) -/
  | getSensorReading (sensor : Nat)
  /-- Vendor-defined sideband message returning one last-gasp file entry. (R812) -/
  | readLastGasp (entry : Nat)
  /-- Any other MCTP or PLDM message receives the unsupported completion code and changes nothing. (R812) -/
  | unsupportedSidebandMessage (msgType pldmType cmd : Nat)
  /-- Phase 1 ends once rails, fuses, loop monitor state, link training and bank selection are done, and phase 2 begins. (R695) -/
  | powerAndRomComplete
  /-- A backward TIME_SET slew removes the last of its difference, so device time advances by 10 ns per unit again and SLEWING clears. (R77) -/
  | timeSlewComplete
  /-- The seal loop becomes continuous again, so LOOP_STATUS bit 0 sets and windows and SEAL_CLEAR become possible. (R675) -/
  | sealLoopRestored
  /-- Loss of 3.3 V auxiliary moves the loop monitor to the backup cell, clears the latched trip cause, turns the STATUS LED off and releases ALERT#. (R810) -/
  | auxPowerLoss
  /-- 3.3 V auxiliary returns, powering the power controller, the sideband endpoint and the loop monitor from the card again. (R794) -/
  | auxPowerReturn
  /-- The host link retrains to another speed or width without a reset, changing DEV_STATUS and the Bellows share for later commands. (R179) -/
  | pcieLinkRetrain (gen width : Nat)
  /-- Clearing a vector mask or the function mask sends the pending MSI-X message of that vector. (R732) -/
  | msixVectorUnmask (fn : Nat) (vector : Option Nat)
  /-- The moderation interval of an event queue vector ends and the held message covering records written meanwhile is sent. (R732) -/
  | msixModerationExpiry (fn : Nat)
  /-- At the end of a whole timebase second the EVENTS_LOST record for drops made only under the rate limit is written. (R722) -/
  | eventSecondEnd
  /-- The flash write of an installed owner key completes, so OWNER_KEY_INSTALL's Waits effect ends and its reply follows the next seal. (R690) -/
  | ownerKeyStored
  /-- The attestation quote is signed and written to its output slot, ending ATTEST's Waits effect. (R692) -/
  | attestQuoteSigned
  deriving DecidableEq, Repr

end Sys2Proof
end

