-- ==== Sys2Proof/Config.lean ====
section
/-! DEFINITION. What an implementation or an external standard fixes and the manual does not state: constants without
a body, of which nothing can be computed, and the free values. -/

namespace Sys2Proof

/-- One picture as a decoder of the H.264 or HEVC standard produces it from a byte stream (R500, R511): what the
manual leaves to the standard. The model draws the manual's conclusions from it: what is unsupported, concealed or
tainted, and why. -/
structure DecodedPicture where
  /-- What the stream says of itself: profile code of Table 14.1 (0 none of them), ten times the level, High tier, chroma
  format (0 to 3), and whether it is a frame of progressive or interlaced frame coding that the table lists. -/
  profile : Nat
  level : Nat
  highTier : Bool
  chromaFormat : Nat
  framePicture : Bool
  /-- A parameter set or slice header that it needs cannot be decoded. -/
  headerError : Bool
  /-- The slice that covers each 16x16 area, in raster order; none where no slice arrived. -/
  slices : List (Option Nat)
  /-- Areas with a syntax error, areas that a lost reference made predict from a substitute, areas with a motion vector
  outside the padded reference. -/
  syntaxErrors : List Nat
  substituted : List Nat
  outside : List Nat
  /-- The bins of the largest coding block that meets each area. -/
  blockBins : List Nat
  /-- Indices of the session's pictures that it predicts from, and the frame buffers that hold them. -/
  predicts : List Nat
  sources : List Nat
  /-- Picture order count, two's complement in 32 bits. -/
  poc : Nat
  /-- 0 IDR or IRAP, 1 other intra, 2 P, 3 B. -/
  kind : Nat
  /-- Samples: luma rows, then Cb and Cr interleaved, one value each. -/
  luma : List Nat
  chroma : List Nat
  codedWidth : Nat
  codedHeight : Nat
  /-- Displayed window: x, y, width, height. -/
  displayX : Nat
  displayY : Nat
  displayW : Nat
  displayH : Nat
  bitDepth : Nat
  fullRange : Bool
  /-- Matrix coefficients value. -/
  matrix : Nat
  /-- Bins consumed in the picture before the coding block of each 16x16 area, in raster order. -/
  bins : List Nat
  /-- Bins of the whole picture. -/
  binTotal : Nat
  /-- Starts a new coded video sequence. -/
  fresh : Bool
  /-- Frame buffer index. -/
  buffer : Nat
  /-- The frame buffer of entry 0 of reference list 0 of the first slice of a P or B picture; none for another picture, or
  where that entry is not in the decoded-picture buffer (R518). -/
  list0 : Option Nat
  deriving DecidableEq, Repr

/-- The decode result of the access units of a stream after the streams before it: the pictures decoded and the
order in which frames are output. -/
structure DecodeResult where
  /-- Access units of the stream; those beyond the session's limit are not decoded. -/
  units : Nat
  pictures : List DecodedPicture
  /-- Indices of output frames among all pictures of the session, oldest first. -/
  output : List Nat
  deriving DecidableEq, Repr, Inhabited

namespace Config

/-- Free values: one byte for each index of the stream that the state's counter names. -/
opaque freeByte : Nat → Byte
/-- A free value of 64 bits. -/
opaque freeValue : Nat → Nat
/-- The contents of each image bank when the card comes to its host: header and payload bytes, which the manual does
not state (R698; assumption 5). -/
opaque factoryImage : Nat → List Byte
/-- Fast special-function results (R391): firmware release, function code and FP32 input. -/
opaque fastSfu : Nat → Nat → Nat → Nat
/-- What the vector registers of a core hold after a descriptor run: the run's number, register and lane (R378, R379). -/
opaque vectorFill : Nat → Nat → Nat → Nat
/-- What the Bore's cells hold after a descriptor run: the run's number, plane (0 cells, 1 shadow plane), row and column. -/
opaque boreFill : Nat → Nat → Nat → Nat → Nat
/-- A decoder of the external standards (R500, R511): the session's parameters (codec, width, height, storage, buffers,
bin allowance, pictures per command), the streams decoded before (an empty one: a flush of the picture buffer, R521), this
stream. -/
opaque decode : List Nat → List (List Byte) → List Byte → DecodeResult
/-- The bilinear interpolation of two FP32 patterns at an FP32 fraction (Table 14.5 names no order of operations). -/
opaque interpolate : Nat → Nat → Nat → Nat
/-- The ECDSA P-384 signature with the device attestation key over SHA-384 (R625, R627). -/
opaque sign : List Byte → List Byte
/-- ECDSA P-384 verification: public key, signed bytes, signature (R684, R686). -/
opaque verify : List Byte → List Byte → List Byte → Bool
/-- Whether a 97-byte string is a point on P-384 (R626). -/
opaque onCurve : List Byte → Bool
/-- The device public key (R626, R627). -/
opaque deviceKey : List Byte
/-- The DER attestation certificate, at most 2,048 bytes (R691). -/
opaque certificate : List Byte
/-- The ROM digests of the four vendor keys (R686). -/
opaque vendorDigest : Nat → List Byte
/-- The 16-byte card serial (Table 18.8). -/
opaque serial : List Byte
/-- The digest of a group's sealed control state, whose layout the manual does not give (R578). -/
opaque stateDigest : List (List Nat) → List Byte
/-- Version numbers that the sideband reports (R812). -/
opaque version : Nat → List Byte
/-- The endpoint UUID (R812). -/
opaque uuid : List Byte
/-- PLDM terminus data: TID and the records of the PDR repository (R812). -/
opaque tid : Nat
opaque pdrInfo : List Byte
opaque pdr : Nat → List Byte
/-- The state bytes of a PLDM sensor reading: operational state, event enable, present, previous and event state, which the
standard defines and the manual does not state (R14, R812). -/
opaque sensorStates : Nat → List Byte
/-- Power readings and other values that only the card can measure. -/
opaque powerReading : Nat → Nat → Nat
/-- The number of cores a test of the diagnostic set fails on, a bitmap over the group's cores (R552). -/
opaque diagFailing : Nat → Nat

end Config

end Sys2Proof
end

