-- ==== Sys2Proof/Machine/State.lean ====
section
/-! DEFINITION. The state of the block, plain data, and its value after reset. A rule number names the rule of the
manual that gives the field. -/

namespace Sys2Proof.Machine

/-- A sparse byte memory in one canonical form: addresses strictly rising, no entry equal to the background byte 0. -/
structure Memory where
  cells : List Host.Cell := []
  deriving DecidableEq, Repr

/-- A submission ring (R109, R111, R115, R128, R138). -/
structure Ring where
  depthLog2 : Nat := 6
  enable : Bool := false
  head : Nat := 0
  tail : Nat := 0
  /-- The expected sequence E (R138). -/
  expect : Nat := 0
  suppressed : Nat := 0
  /-- The bytes of the ring window's slots (R109). -/
  window : Memory := {}
  /-- Packets made available before READY and not yet checked (R137). -/
  early : Nat := 0
  deriving DecidableEq, Repr

/-- A status reply before it is written to its queue (Table 4.4). -/
structure Reply where
  seq : Nat
  status : Nat
  /-- Table 4.5 without the phase. -/
  flags : Nat
  tag : Nat
  breath : Nat
  /-- Bytes 14 to 29. -/
  detail : List Byte
  deriving DecidableEq, Repr

/-- A reply queue (R111, R121, R122, R125). -/
structure ReplyQueue where
  base : Nat := 0
  depthLog2 : Nat := 6
  enable : Bool := false
  head : Nat := 0
  tail : Nat := 0
  phase : Bool := true
  /-- Replies held while the queue is full, oldest first (R125). -/
  held : List Reply := []
  /-- REPLY_QUEUE_FULL has been raised in this full period (R125). -/
  fullRaised : Bool := false
  deriving DecidableEq, Repr

/-- An event before it is written to its queue (Table 22.1). -/
structure Event where
  code : Nat
  severity : Nat := 0
  eflags : Nat := 0
  part : Nat := 0xFF
  core : Nat := 0xFFFF
  time : Nat := 0
  breath : Nat := 0
  unit : Nat := 0xFF
  /-- From byte 28; shorter than 34 bytes is filled with zeros. -/
  payload : List Byte := []
  mirrored : Bool := false
  deriving DecidableEq, Repr

/-- An event queue (R718 to R725, R732, R783, R784). -/
structure EventQueue where
  base : Nat := 0
  depthLog2 : Nat := 6
  enable : Bool := false
  head : Nat := 0
  tail : Nat := 0
  phase : Bool := true
  /-- The next event sequence (R724). -/
  seq : Nat := 0
  /-- Events held while the queue is disabled, oldest first, each with its position among those raised (R720). -/
  hold : List (Nat × Event) := []
  /-- Events raised while the queue is disabled (R720). -/
  raisedDisabled : Nat := 0
  lostFull : Nat := 0
  lostRate : Nat := 0
  /-- First and last lost sequence, or position while disabled (Table 22.3, EVENTS_LOST). -/
  lostFirst : Nat := 0
  lostLast : Nat := 0
  /-- EVQ_LOST (Table 22.7). -/
  lostTotal : Nat := 0
  /-- Events received in the current whole second, by code (R725). -/
  rate : List (Nat × Nat) := []
  /-- Moderation interval in microseconds (R732). -/
  moderation : Nat := 0
  /-- End of the running moderation interval, a timebase value (R732). -/
  moderated : Option Nat := none
  /-- A message waits for the end of the interval (R732). -/
  owed : Bool := false
  /-- EVENT_STATUS (R784). -/
  status : Nat := 0
  deriving DecidableEq, Repr

/-- A claimed slot of a spill region with the check words of its 4 KiB units (R175, R176). -/
structure SpillSlot where
  slot : Nat
  checks : List (Nat × Nat) := []
  deriving DecidableEq, Repr

/-- A registered Bellows region (Table 5.1). -/
structure Region where
  handle : Nat
  /-- The group that it was registered for, by its leader (R83, R182). -/
  train : Nat
  spill : Bool
  slotLog2 : Nat
  count : Nat
  options : Nat
  headerBase : Nat
  payloadBase : Nat
  /-- L of the slots whose L is not 0xFF (R152, R159). -/
  lastGen : List (Nat × Nat) := []
  /-- Slots the card has written RETIRED (R156). -/
  retired : List Nat := []
  /-- Claimed slots of a spill region (R175). -/
  claims : List SpillSlot := []
  /-- What a spill region serves: none yet, history (false) or memory (true) (R495). -/
  memoryUse : Option Bool := none
  /-- Slots not used again after a failed check (R176). -/
  bad : List Nat := []
  deriving DecidableEq, Repr

/-- A read latch: the register's offset, the offset the next read must have, and the latched bytes from there
(R738, R750). -/
structure ReadLatch where
  next : Nat
  bytes : List Byte
  deriving DecidableEq, Repr

/-- What a read of LEDGER_NEXT latches (R770). -/
structure LedgerLatch where
  committed : Nat
  closed : Nat
  chain : List Byte
  deriving DecidableEq, Repr

/-- One PCIe function with its queues: the PF with the administrative rings and the device queue, or VF(p+1). -/
structure Function where
  urgent : Ring := {}
  bulk : Ring := {}
  reply : ReplyQueue := {}
  events : EventQueue := {}
  /-- VIOLATIONS (R146). -/
  violations : Nat := 0
  /-- Timebase values of the last 64 counted violations, newest first (R147). -/
  violationTimes : List Nat := []
  /-- LAST_VIOLATION (R782). -/
  lastViolation : Nat := 0
  frozen : Bool := false
  /-- The Breath in which the freeze took effect (Table 4.8). -/
  freezeBreath : Nat := 0
  /-- BAR2_WIN (R765). -/
  windowPart : Nat := 0
  windowBase : Nat := 0
  /-- The MSI-X table's address and data words (R745). -/
  msixTable : Memory := {}
  /-- Vectors whose mask bit is set; pending bits; the function mask (R732). -/
  masked : List Nat := List.range 64
  pendingBits : List Nat := []
  functionMask : Bool := false
  latch : Option ReadLatch := none
  ledgerLatch : Option LedgerLatch := none
  regions : List Region := []
  /-- The next region handle to try (R182). -/
  nextRegion : Nat := 1
  /-- Relaxed Ordering and No Snoop are enabled in the function's Device Control register (R166, R803). -/
  relaxed : Bool := true
  noSnoop : Bool := true
  deriving DecidableEq, Repr

/-- The eight performance counters of a Reed core (Table 22.5). -/
structure CoreCounters where
  active : Nat := 0
  bore : Nat := 0
  stop : Nat := 0
  vector : Nat := 0
  stall : Nat := 0
  hbmLines : Nat := 0
  stopRows : Nat := 0
  gather : Nat := 0
  /-- Counters that have wrapped since the core's last COUNTER_WRAP event, by index (R740). -/
  wrapped : Nat := 0
  /-- Stop rows driven beyond the whole units of 256 counted. -/
  stopRowsRest : Nat := 0
  deriving DecidableEq, Repr

/-- The performance counters of a partition (Table 22.6) and of its cores. -/
structure PerfCounters where
  replies : Nat := 0
  repliesLate : Nat := 0
  repliesReplayed : Nat := 0
  breathFull : Nat := 0
  overrunBreaths : Nat := 0
  cyclesAdmitted : Nat := 0
  cyclesUsed : Nat := 0
  cores : List CoreCounters := List.replicate 16 {}
  deriving DecidableEq, Repr

/-- One Reed core (Table 7.1): what survives a descriptor. -/
structure Core where
  /-- CLM, byte offsets 0 to 0x3F_FFFF (R292). -/
  clm : Memory := {}
  /-- Lines of the line-written map that are set (R294). -/
  lines : List Nat := []
  /-- The Stop bank's eight macros, 1 MiB (R348). -/
  stop : Memory := {}
  /-- The check planes of the macros (R348, R532): the value modulo 3 of each stored weight, two bits of it, at
  262,144 × macro + 512 × row + weight column (DESIGN CHOICE, assumption 112). -/
  check : Memory := {}
  /-- The reference sums of the macros written (R356, R371): macro, and by quarter and column the sums of its weights. -/
  sums : List (Nat × List Int) := []
  /-- The descriptor runs that last loaded the vector registers and the Bore's cells, as numbers of free values: none since
  reset, when they hold zeros (Table 7.1, R378; DESIGN CHOICE, assumption 113). -/
  vectorRun : Option Nat := none
  boreRun : Option Nat := none
  /-- CLM_CORRECTIONS and FABRIC_RETRIES (Table 22.7). -/
  corrections : Nat := 0
  /-- Corrections since the core's last CLM_CORRECTED event (Table 22.3). -/
  correctedSince : Nat := 0
  fabricRetries : Nat := 0
  deriving DecidableEq, Repr

/-- The error counters of a pseudo-channel (R485). -/
structure Channel where
  corrected : Nat := 0
  uncorrectable : Nat := 0
  parity : Nat := 0
  /-- Marked failed (Table 13.5). -/
  failed : Bool := false
  deriving DecidableEq, Repr

/-- A page tracked for corrected errors, with the device times of its reads (R486). -/
structure Suspect where
  page : Nat
  times : List Nat
  deriving DecidableEq, Repr

/-- One partition (Table 3.1). -/
structure Part where
  /-- The leader of its group and the group's size (R88, R90). -/
  leader : Nat
  size : Nat := 1
  /-- The energy share S (R101). -/
  share : Nat := 16
  /-- A share accepted and not yet in effect (R103). -/
  shareNext : Option Nat := none
  /-- 0: not faulted; otherwise CAUSE of Table 23.9. -/
  fault : Nat := 0
  /-- Faulted by the last self-test (R702). -/
  selfTestFailed : Bool := false
  cores : List Core := List.replicate 16 {}
  /-- HBM by partition-local address (R471). -/
  hbm : Memory := {}
  /-- Physical pages whose written mark is clear (R586). -/
  unmarked : List Nat := []
  channels : List Channel := List.replicate 16 {}
  suspects : List Suspect := []
  /-- Pages in the table whose retirement waits for the group's next admission point (R493). -/
  retiring : List Nat := []
  perf : PerfCounters := {}
  perfShadow : PerfCounters := {}
  cycSnap : Nat := 0
  cycShadow : Nat := 0
  timebaseShadow : Nat := 0
  /-- SEAL_FAILS (Table 22.7). -/
  sealFails : Nat := 0
  deriving DecidableEq, Repr

/-- A loaded model (R219, R220). -/
structure Model where
  handle : Nat
  /-- The function that obtained it (R182). -/
  fn : Nat
  addr : Nat
  length : Nat
  format : Nat
  digest : List Byte
  deriving DecidableEq, Repr

/-- A Stop residency (R355 to R357, R374). -/
structure Residency where
  handle : Nat
  /-- The function that obtained it (R182). -/
  fn : Nat
  model : Nat
  firstCore : Nat
  cores : Nat
  broken : Bool := false
  deriving DecidableEq, Repr

/-- A registered program (R298, R299). -/
structure Program where
  handle : Nat
  /-- The function that obtained it (R182). -/
  fn : Nat
  addr : Nat
  count : Nat
  digest : List Byte
  /-- It comes from an image, so it may run folded (R603). -/
  restored : Bool := false
  deriving DecidableEq, Repr

/-- A history pool (Table 12.1); its page table and sequences lie in its control area in HBM (R451). -/
structure Pool where
  handle : Nat
  /-- The function that obtained it (R182). -/
  fn : Nat
  base : Nat
  pages : Nat
  pageSize : Nat
  heads : Nat
  format : Nat
  headWidth : Nat
  capacity : Nat
  spills : Nat
  cap : Nat
  /-- A page of the control area is retired (R466). -/
  broken : Bool := false
  /-- Handles of the sequences that were open when the pool broke (R466). -/
  lost : List Nat := []
  /-- Spill slots that those sequences held: region and slot (R466). -/
  lostSlots : List (Nat × Nat) := []
  deriving DecidableEq, Repr

/-- A conditioning set (R523). -/
structure Conditioning where
  generation : Nat := 0
  /-- FP16 patterns. -/
  gain : Nat := 0x3C00
  offset : Nat := 0
  x : Nat := 0
  y : Nat := 0
  w : Nat := 0
  h : Nat := 0
  /-- The 2,050 bytes of the gamma table. -/
  gamma : Option (List Byte) := none
  deriving DecidableEq, Repr

/-- A decoded picture that has not been output yet; its samples and block map lie in its frame buffer (R508, R511). -/
structure Picture where
  index : Nat
  poc : Nat
  kind : Nat
  buffer : Nat
  codedWidth : Nat
  codedHeight : Nat
  displayX : Nat
  displayY : Nat
  displayW : Nat
  displayH : Nat
  bitDepth : Nat
  fullRange : Bool
  matrix : Nat
  bins : Nat
  tainted : Bool
  unsupported : Bool
  deriving DecidableEq, Repr

/-- A video session (Table 14.2, R511, R516, R527). -/
structure Session where
  handle : Nat
  /-- The function that obtained it (R182). -/
  fn : Nat
  codec : Nat
  width : Nat
  height : Nat
  desc : Nat
  wide : Bool
  format : Nat
  outW : Nat
  outH : Nat
  rate : Nat
  bins : Nat
  perCommand : Nat
  options : Nat
  pitch : Nat
  present : Nat
  buffers : List Nat
  engine : Nat
  active : Conditioning := {}
  /-- The set active in the Breath before, for work carried from it (R524). -/
  previous : Conditioning := {}
  shadow : Conditioning := {}
  /-- The shadow set becomes active at the next Breath start (R524). -/
  swap : Bool := false
  /-- The streams decoded so far, oldest first: parameter sets, picture buffer and output order follow from them (R511). -/
  decoded : List (List Byte) := []
  /-- Pictures decoded so far, and those that wait for output. -/
  pictures : Nat := 0
  waiting : List Picture := []
  /-- Indices of frames ready for output beyond the number of the last VID_DECODE, oldest first (R516). -/
  ready : List Nat := []
  frames : Nat := 0
  ticks : Nat := 0
  repeats : Nat := 0
  /-- The frame buffer of the preceding picture in decode order (R518). -/
  last : Option Nat := none
  /-- Concealed and tainted pictures, by index (R520). -/
  damaged : List Nat := []
  /-- The index of the picture that started the coded video sequence in progress (R520). -/
  sequenceStart : Nat := 0
  /-- A frame has been presented (R527). -/
  presented : Bool := false
  deriving DecidableEq, Repr

/-- A range monitor with its open window (Table 9.7, R376). -/
structure Monitor where
  residency : Nat
  matrix : Nat
  statistic : Nat
  window : Nat
  column : Nat
  columns : Nat
  lower : Nat
  upper : Nat
  record : Nat
  /-- The exact sum of the window in units of 2^-298. -/
  sum : Int := 0
  count : Nat := 0
  largest : Nat := 0
  /-- Values of the window that are not finite: 0 none, 1 and 2 infinities of one sign, 3 a NaN or both. -/
  special : Nat := 0
  runs : Nat := 0
  deriving DecidableEq, Repr

/-- The objects of a group, which a failed seal restores with it (R182, R187, Table 15.3). -/
structure Objects where
  models : List Model := []
  residencies : List Residency := []
  programs : List Program := []
  pools : List Pool := []
  sessions : List Session := []
  monitors : List Monitor := []
  /-- Monitors are in fault mode (R376). -/
  monitorFault : Bool := false
  /-- Shape registers SH0 to SH15 (R318). -/
  shapes : List Nat := List.replicate 16 0
  /-- The last handle issued of each kind: model, residency, program, pool, sequence, session (R182). -/
  handles : List Nat := List.replicate 6 0
  deriving DecidableEq, Repr

/-- Where a command in progress stands (Table 6.4). -/
inductive Stage where
  | waiting    -- accepted, not yet admitted
  | running    -- admitted, or a sliced command in progress
  | outside    -- its effect continues outside the Reed cores (Waits)
  | finished   -- its outcome is fixed and waits for a seal
  deriving DecidableEq, Repr

/-- The Breath behaviours of Table 6.4. -/
inductive Behaviour where
  | zero | compute | sliced | waits
  deriving DecidableEq, Repr

/-- The bound dimensions of one descriptor (R317). -/
structure Shape where
  m : Nat
  n : Nat
  k : Nat
  g : Nat
  deriving DecidableEq, Repr

/-- A carried CLM range of a command, by declared offset, with its working and its committed copy: both lie outside every
operand of the group's programs (R295). -/
structure Carried where
  core : Nat
  off : Nat
  len : Nat
  working : Memory := {}
  committed : Memory := {}
  deriving DecidableEq, Repr

/-- A byte range. -/
structure Range where
  start : Nat
  len : Nat
  deriving DecidableEq, Repr

/-- A slot a command holds, with the header length read at issue (R158). -/
structure HeldSlot where
  ref : SlotRef
  ordinal : Nat
  length : Nat
  /-- Bytes read from an input slot, or written to an output slot. -/
  bytes : List Byte := []
  /-- A PCIe access to the slot failed (R168). -/
  retired : Bool := false
  deriving DecidableEq, Repr

/-- A command that has passed checking and has not been replied. -/
structure Work where
  /-- The order in which the Chanter checked it (R123). -/
  id : Nat
  fn : Nat
  bulk : Bool
  cmd : Command
  flags : Nat
  seq : Nat
  tag : Nat
  part : Nat
  /-- Parameter bytes 0 to 51 as read (R611). -/
  params : List Byte
  /-- The train it is admitted to: a leader partition, or 16 for the administrative train. -/
  train : Nat
  /-- The timebase value at which it was checked, not before its doorbell (R59). -/
  arrived : Nat := 0
  behaviour : Behaviour
  stage : Stage := .waiting
  /-- Cycle and energy estimates of one step, in core cycles and fJ (R55). -/
  cycles : Nat := 0
  energy : Nat := 0
  steps : Nat := 1
  /-- The estimate of a last step that is shorter than the others: cycles and energy (R179, R216). -/
  lastStep : Option (Nat × Nat) := none
  stepsAdmitted : Nat := 0
  /-- The Breath to which its newest steps were admitted; a re-run keeps it (R524, R525). -/
  admittedTo : Nat := 0
  stepsDone : Nat := 0
  stepsSealed : Nat := 0
  /-- No step is admitted any more (R96, R198, R247). -/
  cut : Bool := false
  status : Nat := 0
  detail : List Byte := []
  late : Bool := false
  replayed : Bool := false
  /-- Its record room is reserved, in records (R655); 0 when the entry is not reserved. -/
  audited : Bool := false
  records : Nat := 0
  /-- The slot reference fields in parameter order; an all-zero one names no slot (R184, R304). -/
  refs : List SlotRef := []
  held : List HeldSlot := []
  program : Nat := 0
  programAddr : Nat := 0
  /-- The descriptors as checked, 128 bytes each. -/
  descriptors : List (List Byte) := []
  /-- It is an indirectly referenced program (R129). -/
  indirect : Bool := false
  shapes : List Shape := []
  /-- SH0 to SH15 and the shape-word blocks as bound (R612). -/
  boundRegs : List Nat := []
  shapeWords : List (Nat × List Byte) := []
  reads : List Range := []
  writes : List Range := []
  carried : List Carried := []
  token : List Byte := []
  cyclesUsed : Nat := 0
  /-- Digests of its DIGESTS records beside those of its slots: role, ordinal, SHA-256 (R612, R613). -/
  digests : List (Nat × Nat × List Byte) := []
  /-- Bytes 104 to 127 of its primary record (Table 18.3). -/
  extra : List Byte := []
  /-- In-place bytes (R542). -/
  inPlace : Nat := 0
  /-- HBM ranges in use by it under reason 0x0603 (R186, R299). -/
  locks : List Range := []
  /-- Handles of the objects that it names (R141). -/
  uses : List Nat := []
  /-- It was ended before it executed anything: its entry is the primary record only (R609). -/
  unexecuted : Bool := false
  /-- Its record was staged at execution (R269). -/
  staged : Bool := false
  /-- An uncorrectable CLM error struck its committed copy or a journal line (R549). -/
  struck : Bool := false
  /-- The group's HBM before the append of its last step, in partition order (R464, R488). -/
  undo : List Memory := []
  /-- Its session before its decode (R488, R530). -/
  before : Option Session := none
  /-- Opcode-specific progress. -/
  aux : List Nat := []
  auxBytes : List Byte := []
  deriving DecidableEq, Repr

/-- A step in an admitted set (R60). -/
structure Piece where
  work : Nat
  step : Nat
  /-- Cycles not yet issued, and the energy of their work in fJ. -/
  cycles : Nat
  energy : Nat := 0
  /-- The Breath to which the step was admitted. -/
  breath : Nat
  done : Bool := false
  carried : Bool := false
  deriving DecidableEq, Repr

/-- A reply that waits for a seal: a refusal at checking or admission, or a finished command. -/
structure DueReply where
  order : Nat
  fn : Nat
  bulk : Bool
  admin : Bool
  seq : Nat
  tag : Nat
  status : Nat
  unverified : Bool := false
  detail : List Byte
  /-- The suppress flag of the packet (R127). -/
  suppress : Bool := false
  part : Nat := 0xFF
  opcode : Nat := 0
  pflags : Nat := 0
  params : List Byte := []
  /-- The record type of its ledger record, if it produces one (R189). -/
  record : Option Nat := none
  /-- Records reserved for it. -/
  reserved : Nat := 0
  /-- Its record was staged at execution (R269). -/
  staged : Bool := false
  /-- Continuation payloads of its entry (R612). -/
  parts : List (List Byte) := []
  /-- Bytes 104 to 127 of its primary record (Table 18.3). -/
  extra : List Byte := []
  cyclesUsed : Nat := 0
  deriving DecidableEq, Repr

/-- A slot to be returned after a seal (R160). -/
structure SlotReturn where
  fn : Nat
  ref : SlotRef
  /-- 0x5E, 0xE5 or 0x7F (Table 5.3). -/
  mark : Nat
  status : Nat
  length : Nat
  check : Nat
  part : Nat
  tag : Nat
  deriving DecidableEq, Repr

/-- A checkpoint in progress (R589 to R594). -/
structure Checkpoint where
  work : Nat
  freeze : Nat
  /-- The drain rate in 0.1 GB/s (R256). -/
  rate : Nat := 0
  /-- The freeze has taken place. -/
  active : Bool := false
  /-- Group-local addresses of the marked pages at the freeze, ascending. -/
  pages : List Nat := []
  drained : List Nat := []
  /-- Pages drained in the Breath in progress, in order. -/
  now : List Nat := []
  /-- The members' HBM at the freeze: what the undrained frozen pages hold. -/
  frozen : List Memory := []
  /-- The object and carried sections, padded, with their record counts and lengths. -/
  objects : List Byte := []
  carriedPart : List Byte := []
  objectCount : Nat := 0
  carriedCount : Nat := 0
  /-- The stream bytes drained after the header. -/
  stream : List Byte := []
  freezeTime : Nat := 0
  slotsReturned : Nat := 0
  deriving DecidableEq, Repr

/-- The last seal decided (R778). -/
structure SealStatus where
  breath : Nat := 0
  consort : Bool := false
  failed : Bool := false
  causes : Nat := 0
  failures : Nat := 0
  core : Nat := 0
  unit : Nat := 0
  deriving DecidableEq, Repr

/-- Where a Breath train stands in its Breath (Table 2.1). -/
inductive Phase where
  | stopped      -- no Breath in progress
  | working      -- from the Breath start to the admission point
  | sealing      -- in the seal window, the seal not decided
  | decided      -- the seal decided, the next Breath not started
  deriving DecidableEq, Repr

/-- What a train waits for before it may start again. -/
inductive Halt where
  | none         -- nothing
  | regroup      -- the end of a regroup (R97)
  | restart      -- a Chanter restart (R710)
  | snapshot     -- the drain of a stop (R595)
  | formation    -- consort formation (R564)
  | reset        -- a partition self-test (R709)
  | faulted      -- a reset after a closing Breath (R548)
  | halted       -- SHUTDOWN (R713)
  deriving DecidableEq, Repr

/-- The start-of-Breath state kept for a re-run (Table 15.3). -/
structure Saved where
  works : List Work := []
  objects : Objects := {}
  admitted : List Piece := []
  /-- The members' HBM, in partition order, from which journal lines, history and video areas are restored. -/
  hbm : List Memory := []
  /-- The spill regions of the group with the functions that registered them. -/
  regions : List (Nat × Region) := []
  /-- Host memory, from which spilled history pages are restored. -/
  host : Memory := {}
  /-- The energy shares of the members, in partition order (R103). -/
  shares : List Nat := []
  deriving DecidableEq, Repr

/-- A Breath train with the group it serves (R49, R89, R133). -/
structure Train where
  /-- The number of the Breath in progress or last started (R49). -/
  breath : Nat := 0
  /-- The next Breath number: counters continue over stops. -/
  next : Nat := 0
  start : Nat := 0
  startTime : Nat := 0
  phase : Phase := .stopped
  halt : Halt := .none
  /-- N5, the period in units of 5 microseconds (R44). -/
  n5 : Nat := 20
  /-- Bulk floor in 5 % units (R63). -/
  floor : Nat := 0
  /-- Power step (Table 6.7). -/
  step : Nat := 0
  n5Next : Option Nat := none
  /-- The Bulk floor from the next Breath on, after a BREATH_SET (R63, R200). -/
  floorNext : Option Nat := none
  stepNext : Option Nat := none
  quiet : Bool := false
  draining : Bool := false
  /-- The timebase value at which draining started (R95, R96). -/
  drainStart : Nat := 0
  /-- The train must stop at the end of a Breath, for this reason. -/
  stopFor : Halt := .none
  works : List Work := []
  admitted : List Piece := []
  /-- The admitted sets of the last 64 Breaths, the newest first: Breath, works and steps (R578). -/
  sets : List (Nat × List (Nat × Nat)) := []
  /-- The admitted set formed for the next Breath. -/
  forming : List Piece := []
  due : List DueReply := []
  returns : List SlotReturn := []
  /-- Events tied to results, raised at a passed seal (R553). -/
  resultEvents : List Event := []
  /-- Cause bits latched in this Breath and the last attribution (R534, R536). -/
  causes : Nat := 0
  core : Nat := 0xFFFF
  unit : Nat := 0xFF
  failures : Nat := 0
  firstFailed : Nat := 0
  lastCauses : Nat := 0
  rerun : Bool := false
  closing : Bool := false
  /-- The next Breath is a closing Breath (R548, R577). -/
  closeNext : Bool := false
  /-- Status and detail with which a closing Breath ends every command (R548, R577, R579). -/
  closeStatus : Nat := 0x50
  closeDetail : List Byte := []
  /-- The train serves a closed administrative or ejected consort group (R134, R580). -/
  closed : Bool := false
  sealStatus : SealStatus := {}
  saved : Saved := {}
  /-- HBM ranges a failed seal restores: journal lines, history and video areas (R540, R542). -/
  journal : List Range := []
  /-- Written marks that change at the passing seal (R586): pages to mark, pages to clear. -/
  marks : List Nat := []
  unmarks : List Nat := []
  objects : Objects := {}
  checkpoint : Option Checkpoint := none
  /-- Macros to repair at the start of the re-run: group core and macro (R372). -/
  repairs : List (Nat × Nat) := []
  /-- Macros repaired in the re-run in progress (R374). -/
  repaired : List (Nat × Nat) := []
  /-- Group-local addresses of the pages whose retirement has taken effect since the last Breath that is no re-run began (R466,
  R493). -/
  retirements : List Nat := []
  deriving DecidableEq, Repr

/-- A BAR2 write held until a seal passes (R538). -/
structure HeldWrite where
  part : Nat
  addr : Nat
  data : List Byte
  deriving DecidableEq, Repr

/-- Device time (R75 to R77). -/
structure Clock where
  /-- The timebase counter (R43). -/
  timebase : Nat := 0
  /-- Device time in ns. -/
  time : Nat := 0
  isSet : Bool := false
  /-- Slew still to remove, ns (R77). -/
  slew : Nat := 0
  deriving DecidableEq, Repr

/-- The device states of Table 21.1. -/
inductive DevState where
  | booting | recovering | training | testing | initialising | mounting | ready | restarting | shuttingDown
  | halted | failed
  deriving DecidableEq, Repr

/-- An image bank (R687, R761). -/
structure Bank where
  /-- The image: its header and payload bytes; empty when the bank is empty. -/
  image : List Byte := []
  attempts : Nat := 0
  skipped : Bool := false
  deriving DecidableEq, Repr

/-- The registers that the Chanter keeps: BANK_STATUS, LEDGER_STATUS and the words of the bays (R754). -/
structure KeptWords where
  bank : Nat
  ledger : Nat
  bays : List (List Nat)
  deriving DecidableEq, Repr

/-- The device: start-up, firmware, persistent settings and registers of the device block. -/
structure Device where
  state : DevState := .booting
  /-- Phase 1 of Table 21.2 is in progress (before its end the sideband is silent, R811). -/
  phase1 : Bool := true
  /-- The reset that is being run is a cold reset. -/
  cold : Bool := true
  bootCount : Nat := 0
  /-- The timebase start of the boot attempt (R699). -/
  attemptStart : Nat := 0
  banks : List Bank := [{}, {}]
  /-- The bank that booted, and the selector (R698). -/
  activeBank : Nat := 0
  selector : Nat := 0
  fallback : Bool := false
  minSvn : Nat := 0
  revoked : Nat := 0
  /-- The installed owner key, 97 bytes; empty if none (R690). -/
  ownerKey : List Byte := []
  configDigest : List Byte := List.replicate 32 0
  keepTraining : Bool := false
  /-- The stacks have been trained since power came up and no channel has failed since (R708). -/
  trained : Bool := false
  selfTestPart : Nat := 0
  selfTestDev : Nat := 0
  service : Bool := false
  /-- The retirement table, oldest first: partition and page (R491). -/
  retired : List (Nat × Nat) := []
  tableHigh : Bool := false
  recoveryAddr : Nat := 0
  recoveryLen : Nat := 0
  recoveryProgress : Nat := 0
  recoveryReason : Nat := 0
  /-- The recovery image that the ROM is writing (R700). -/
  recoveryImage : List Byte := []
  /-- PF request or watchdog of a Chanter restart in progress: 1 or 2 (R710, R711). -/
  restartCause : Nat := 0
  /-- The registers that the Chanter keeps, held while it restarts (R754). -/
  kept : Option KeptWords := none
  /-- The SHUTDOWN and the SNAPSHOT_STOP in progress, by work. -/
  shutdownWork : Option Nat := none
  stopWork : Option Nat := none
  linkGen : Nat := 0
  linkWidth : Nat := 0
  /-- BAR2 writes held, oldest first (R538). -/
  heldWrites : List HeldWrite := []
  /-- The next checking order number. -/
  nextOrder : Nat := 0
  mirror : Nat := 0
  /-- Per-second limits already used: code and unit (R553, R560, R574, R682, R683, R740, R748). -/
  onceThisSecond : List (Nat × Nat) := []
  /-- The model's own counter: how many free values have been used. -/
  freeIndex : Nat := 0
  deriving DecidableEq, Repr

/-- The key switch positions (R670). -/
inductive Key where
  | off | on | present
  deriving DecidableEq, Repr

/-- Physical presence and the seal loop (R670 to R677). -/
structure Presence where
  key : Key := .on
  /-- The end of the open window, a timebase value (R671). -/
  window : Option Nat := none
  /-- The window length in s (R671). -/
  length : Nat := 120
  loop : Bool := true
  latch : Bool := false
  unpowered : Bool := false
  latchTime : Nat := 0
  /-- LOOP_BREAK of a latch set while unpowered is still to be raised at READY (R676). -/
  breakOwed : Bool := false
  refusals : Nat := 0
  deriving DecidableEq, Repr

/-- A closed folio (Table 18.7): the fixed header bytes and the body digest, and its records. -/
structure Folio where
  number : Nat
  firstSeq : Nat
  records : List (List Byte)
  closeTime : Nat
  closeBreath : Nat
  closeFlags : Nat
  /-- The identity block of Table 18.8 as fixed at closing. -/
  identity : List Byte
  body : List Byte
  previous : List Byte
  chain : List Byte
  /-- It lies in an ordinary frame, not in a reserved one (R654). -/
  ordinary : Bool := false
  /-- The bay a CART_RETIRE's closing folio goes to (R269). -/
  bay : Option Nat := none
  deriving DecidableEq, Repr

/-- The last-gasp register file (R665, R667). -/
structure LastGasp where
  entries : List (List Byte) := []
  lost : Nat := 0
  lostParts : List Nat := List.replicate 16 0
  lostEntries : Nat := 0
  firstBreath : Nat := 0
  lastBreath : Nat := 0
  firstTime : Nat := 0
  lastTime : Nat := 0
  deriving DecidableEq, Repr

/-- The lost-entry counts a GAP record reports (R628, R629). -/
structure Gap where
  entries : Nat := 0
  records : Nat := 0
  firstBreath : Nat := 0
  lastBreath : Nat := 0
  firstTime : Nat := 0
  lastTime : Nat := 0
  parts : List Nat := List.replicate 16 0
  deriving DecidableEq, Repr

/-- The ledger writer and its staging tiers (R618, R622, R654 to R667). -/
structure Ledger where
  nextSeq : Nat := 0
  /-- Records of the open folio in the ordinary area, and the device time of its first record. -/
  open_ : List (List Byte) := []
  openTime : Nat := 0
  /-- The open folio holds an entry of an audited command: it lies in an ordinary frame (R654). -/
  openOrdinary : Bool := false
  /-- Device time, administrative Breath and identity block of its last record (R703). -/
  lastTime : Nat := 0
  lastBreath : Nat := 0
  lastIdentity : List Byte := []
  /-- Closed folios in MRAM, ascending. -/
  mram : List Folio := []
  /-- Closed folios in holding flash, ascending, and the next ring slot. -/
  flash : List Folio := []
  flashNext : Nat := 0
  /-- 0 available, 1 full, 2 failed (Table 19.6). -/
  flashFailed : Bool := false
  mramFailed : Bool := false
  /-- Records reserved and not yet staged (R655). -/
  reserved : Nat := 0
  /-- The number the next closed folio takes. -/
  nextFolio : Nat := 0
  lastChain : List Byte := List.replicate 32 0
  /-- LEDGER_COMMITTED. -/
  committed : Nat := 0
  anyCommitted : Bool := false
  failOpen : Bool := false
  /-- A policy accepted and not yet in effect (R267). -/
  policyNext : Option Bool := none
  /-- Trains whose next admission point has not passed since the policy changed, with the policy that they follow (R267). -/
  policyWas : List (Nat × Bool) := []
  /-- The next ledger sequence at the start of the administrative Breath (R271). -/
  startSeq : Nat := 0
  /-- Audit hold: 0 none, 0x1301 ordinary area full, 0x1302 MRAM failed (Table 19.6). -/
  hold : Nat := 0
  pressure : Bool := false
  gap : Gap := {}
  gasp : LastGasp := {}
  /-- The last-gasp file failed its self-test (Table 21.3). -/
  gaspFailed : Bool := false
  /-- LOG_MEDIUM_FAULT records of the self-test still to be staged: tier and code (R704). -/
  faultsOwed : List (Nat × Nat) := []
  /-- Event records raised before the start-up records are staged, oldest first: partition, Breath, record (R704). -/
  owed : List (Nat × Nat × List Byte) := []
  genesis : Bool := false
  deriving DecidableEq, Repr

/-- The bay states of Table 19.4. -/
inductive BayState where
  | empty | mounting | standby | active | full | retired | faulted | foreign | released
  deriving DecidableEq, Repr

/-- A cartridge bay (R639 to R653). -/
structure Bay where
  state : BayState := .empty
  cart : Option CartridgePages := none
  /-- The next slot to be written. -/
  nextSlot : Nat := 0
  /-- Torn slots awaiting a skip list (R652). -/
  torn : List Nat := []
  tornRun : Nat := 0
  ddr50 : Bool := false
  latchClosed : Bool := true
  ejectAsked : Bool := false
  /-- The last folio number an eject still commits here (R641). -/
  ejectUpTo : Option Nat := none
  /-- The timebase value at which it was released (R641). -/
  releasedAt : Nat := 0
  deriving DecidableEq, Repr

/-- A Ligature port (R555 to R561, R764). -/
structure Link where
  /-- 0 idle, 1 training, 2 trained, 3 down. -/
  state : Nat := 0
  farCard : Nat := 0
  named : Bool := false
  /-- The next link sequence expected (R559, R560). -/
  expect : Nat := 0
  sendSeq : Nat := 0
  replays : Nat := 0
  retrains : Nat := 0
  /-- Replays of the frame now awaited, and the timebase values of failed retrainings (R560). -/
  tries : Nat := 0
  failedAt : List Nat := []
  violations : Nat := 0
  violationTimes : List Nat := []
  /-- Replays and violations since the port's last event of each kind (Table 22.3). -/
  replaysSince : Nat := 0
  violationsSince : Nat := 0
  /-- The module or cable allows training (R804, R805). -/
  usable : Bool := false
  deriving DecidableEq, Repr

/-- A follower verdict or digest received by the leader (R575, R578). -/
structure Verdict where
  card : Nat
  group : Nat
  breath : Nat
  pass : Bool
  causes : Nat
  digest : List Byte
  deriving DecidableEq, Repr

/-- Consort membership and formation (R562 to R582). -/
structure Consort where
  member : Bool := false
  forming : Option Nat := none
  card : Nat := 0
  members : Nat := 0
  topology : Nat := 0
  ports : Nat := 0
  /-- Cards heard and agreed during formation. -/
  heard : List Nat := []
  agreed : List Nat := []
  phase : Int := 0
  /-- Consecutive measurements above 1 microsecond (R574). -/
  phaseBad : Nat := 0
  /-- Consecutive measurements within 200 ns during formation (R563). -/
  phaseGood : Nat := 0
  verdicts : List Verdict := []
  /-- The leaves named by CONSORT_LEAVE, oldest first: work and Breath (R582). -/
  leave : List (Nat × Nat) := []
  /-- The Breath after which the card left, once a CONSORT_LEAVE has taken effect (R265). -/
  leftAt : Option Nat := none
  /-- Leaves that other members have announced: card and Breath (R582). -/
  leaves : List (Nat × Nat) := []
  /-- T0 of the formation (R563). -/
  start : Nat := 0
  /-- The stop Breaths other members hold (R595). -/
  stops : List (Nat × Nat) := []
  /-- Cards that have left, with the cause (R580). -/
  gone : List (Nat × Nat) := []
  deriving DecidableEq, Repr

/-- A temperature sensor with its warning threshold (R748, R800). -/
structure Sensor where
  now : Int := 0
  warn : Int
  armed : Bool := true
  /-- Consecutive readings at or above the trip threshold. -/
  overTrip : Nat := 0
  deriving DecidableEq, Repr

/-- The power controller, sideband and bracket (chapter 24). -/
structure Board where
  aux : Bool := true
  good : Bool := true
  /-- PERST# asserted. -/
  perst : Bool := true
  /-- The power-fail warning has been raised and the hold-up runs (R798). -/
  holdUp : Bool := false
  /-- 0 none, 1 thermal trip, 2 power (Table 24.9). -/
  tripCause : Nat := 0
  sensors : List Sensor :=
    [{ warn := 42 }, { warn := 60 }, { warn := 95 }, { warn := 95 }, { warn := 95 }, { warn := 95 }, { warn := 95 },
     { warn := 90 }, { warn := 90 }, { warn := 90 }, { warn := 90 }, { warn := 90 }, { warn := 90 }, { warn := 90 },
     { warn := 90 }]
  power : List Nat := List.replicate 5 0
  /-- ALERT# asserted (R744, R813). -/
  alert : Bool := false
  /-- ALARM LED: 0 off, 1 blinking, 2 steady. -/
  alarm : Nat := 0
  /-- The MCTP endpoint ID (R812). -/
  eid : Nat := 0
  deriving DecidableEq, Repr

/-- A Ligature frame sent (Table 16.3). -/
structure SentFrame where
  kind : Nat
  fields : List Nat
  bytes : List Byte := []
  deriving DecidableEq, Repr

/-- A PCIe access to the payload or the header of a Bellows slot with its attributes (R166). -/
structure SlotAccess where
  fn : Nat
  addr : Nat
  len : Nat
  write : Bool
  relaxed : Bool
  noSnoop : Bool
  deriving DecidableEq, Repr

/-- What has left the block: the newest at the front. -/
structure Outputs where
  /-- The completion of the last BAR read. -/
  read : List Byte := []
  /-- The last completion was poisoned (R490). -/
  poisoned : Bool := false
  /-- MSI-X messages sent: function and vector. -/
  messages : List (Nat × Nat) := []
  /-- PCIe errors reported through AER: function and error code of BELLOWS_FAULT byte 32. -/
  aer : List (Nat × Nat) := []
  /-- Accesses to Bellows slots. -/
  slots : List SlotAccess := []
  frames : List SentFrame := []
  /-- The last sideband response. -/
  sideband : List Byte := []
  deriving DecidableEq, Repr

/-- The block. -/
structure State where
  /-- Waiting commands, first in, first out. -/
  pending : List Instr := []
  clock : Clock := {}
  dev : Device := {}
  /-- 0: the PF; p + 1: VF(p+1). -/
  fns : List Function
  parts : List Part
  /-- 0 to 15: the train of the group led by that partition; 16: the administrative train. -/
  trains : List Train
  presence : Presence := {}
  ledger : Ledger := {}
  bays : List Bay := [{}, {}]
  /-- Decoder engines that self-test took offline (Table 21.3). -/
  enginesOffline : List Nat := []
  links : List Link := [{}, {}, { usable := true }, { usable := true }, { usable := true }, { usable := true }]
  consort : Consort := {}
  board : Board := {}
  /-- Host memory as the card's DMA sees it: key function × 2^64 + DMA address. -/
  host : Memory := {}
  out : Outputs := {}
  deriving DecidableEq, Repr

/-- Why a step stops with a fault. No rule of the manual stops the block; the type has one constructor, which no
meaning raises (safe). -/
inductive Fault where
  /-- Raised by nothing: kept so that the type is inhabited. Safe. -/
  | none
  deriving DecidableEq, Repr

/-- Why a command is refused by the model itself. -/
inductive Refusal where
  /-- Raised by a dispatch arm whose command has no meaning in the model. Safe. -/
  | notModelled (mnemonic : String)
  deriving DecidableEq, Repr

/-- The block right after a cold reset has begun at power-good (R794, R707, Table 21.5). The contents of the image banks
are free (assumption 5). -/
def State.reset : State :=
  { dev := { banks := [{ image := Config.factoryImage 0 }, { image := Config.factoryImage 1 }] }
    fns := { windowPart := 0 } :: (List.range 16).map (fun p => { windowPart := p })
    parts := (List.range 16).map (fun p => { leader := p })
    trains := List.replicate 17 {} }

end Sys2Proof.Machine
end

