-- ==== Sys2Proof/Machine/Ops.lean ====
section
/-! DEFINITION. The named operations over the state: sparse memories, the parts of the state by index, the HBM address
layout, host memory, and the checks CRC-16, CRC-32C and SHA-256. -/

namespace Sys2Proof.Machine

/-! Sparse memories (a byte that is not listed reads as 0: assumption 4). -/

/-- The byte listed at `a`, or the background byte. -/
def getCell : List Host.Cell → Nat → Byte
  | [], _ => 0
  | (x, v) :: r, a => if a = x then v else getCell r a

/-- The cells with `b` at `a`, in canonical form. -/
def putCell : List Host.Cell → Nat → Byte → List Host.Cell
  | [], a, b => if b = 0 then [] else [(a, b)]
  | (x, v) :: r, a, b =>
    if a < x then (if b = 0 then (x, v) :: r else (a, b) :: (x, v) :: r)
    else if a = x then (if b = 0 then r else (a, b) :: r)
    else (x, v) :: putCell r a b

/-- Addresses strictly rising above `lo`, no entry equal to the background. -/
def cellsOk : Nat → List Host.Cell → Bool
  | _, [] => true
  | lo, (x, v) :: r => decide (lo ≤ x) && decide (v ≠ 0) && cellsOk (x + 1) r

/-- The canonical form of a memory. -/
def Memory.wf (m : Memory) : Bool := cellsOk 0 m.cells

def Memory.get (m : Memory) (a : Nat) : Byte := getCell m.cells a
def Memory.put (m : Memory) (a : Nat) (b : Byte) : Memory := { cells := putCell m.cells a b }

/-- `k` bytes from `a`. -/
def Memory.read (m : Memory) (a : Nat) : Nat → List Byte
  | 0 => []
  | k + 1 => m.get a :: Memory.read m (a + 1) k

/-- Bytes stored from `a` on. -/
def Memory.write (m : Memory) (a : Nat) : List Byte → Memory
  | [] => m
  | b :: bs => Memory.write (m.put a b) (a + 1) bs

/-- The memory with the `k` bytes from `a` at the background. -/
def Memory.clear (m : Memory) (a k : Nat) : Memory :=
  { cells := m.cells.filter (fun c => !(decide (a ≤ c.1) && decide (c.1 < a + k))) }

/-- The listed cells stored one after another. -/
def Memory.writeCells (m : Memory) : List Host.Cell → Memory
  | [] => m
  | (x, v) :: r => Memory.writeCells (m.put x v) r

/-- `m` with the `k` bytes from `a` as `src` holds them. -/
def Memory.copyFrom (m src : Memory) (a k : Nat) : Memory :=
  (m.clear a k).writeCells (src.cells.filter (fun c => decide (a ≤ c.1) && decide (c.1 < a + k)))

/-! Parts of the state by index. -/

def State.fn (s : State) (i : Nat) : Function := s.fns.getD i {}
def State.setFn (s : State) (i : Nat) (f : Function) : State := { s with fns := s.fns.set i f }
def State.modFn (s : State) (i : Nat) (g : Function → Function) : State := s.setFn i (g (s.fn i))
def State.part (s : State) (i : Nat) : Part := s.parts.getD i { leader := i }
def State.setPart (s : State) (i : Nat) (p : Part) : State := { s with parts := s.parts.set i p }
def State.modPart (s : State) (i : Nat) (g : Part → Part) : State := s.setPart i (g (s.part i))
def State.train (s : State) (i : Nat) : Train := s.trains.getD i {}
def State.setTrain (s : State) (i : Nat) (t : Train) : State := { s with trains := s.trains.set i t }
def State.modTrain (s : State) (i : Nat) (g : Train → Train) : State := s.setTrain i (g (s.train i))
def State.bay (s : State) (i : Nat) : Bay := s.bays.getD i {}
def State.setBay (s : State) (i : Nat) (b : Bay) : State := { s with bays := s.bays.set i b }
def State.modBay (s : State) (i : Nat) (g : Bay → Bay) : State := s.setBay i (g (s.bay i))
def State.link (s : State) (i : Nat) : Link := s.links.getD i {}
def State.setLink (s : State) (i : Nat) (l : Link) : State := { s with links := s.links.set i l }
def State.modDev (s : State) (g : Device → Device) : State := { s with dev := g s.dev }
def State.core (s : State) (c : Nat) : Core := (s.part (c / 16)).cores.getD (c % 16) {}
def State.modCore (s : State) (c : Nat) (g : Core → Core) : State :=
  s.modPart (c / 16) (fun p => { p with cores := p.cores.set (c % 16) (g (p.cores.getD (c % 16) {})) })

/-- The list with position `i` changed by `g`. -/
def modAt {α : Type} (xs : List α) (i : Nat) (g : α → α) : List α := xs.modify i g

/-- The administrative train's index (R133). -/
def adminTrain : Nat := 16

/-- The leaders of all groups, ascending (R88, R90). -/
def State.leaders (s : State) : List Nat := (List.range 16).filter (fun p => (s.part p).leader == p)

/-- The member partitions of the group that `t` leads; none for the administrative train. -/
def State.members (s : State) (t : Nat) : List Nat :=
  if t < 16 then (List.range (s.part t).size).map (· + t) else []

/-- The leader of partition `p`'s group. -/
def State.leaderOf (s : State) (p : Nat) : Nat := (s.part p).leader

/-- Every train that serves something: the leaders' and the administrative train. -/
def State.activeTrains (s : State) : List Nat := s.leaders ++ [adminTrain]

/-- Core clock in units of 10 MHz by power step (R105). -/
def clockOf (step : Nat) : Nat := if step = 0 then 160 else if step = 1 then 140 else 120

/-- A period in timebase units (R44, R45). -/
def periodUnits (n5 : Nat) : Nat := 500 * n5

/-- Whether `T` is a Breath start of a train with period N5 (R45). -/
def onGrid (n5 T : Nat) : Bool := T % periodUnits n5 == 0

/-- The admission ceiling A in core cycles: 0.9 × (P − 2.5 µs) × f, rounded down (R58). -/
def ceiling (n5 step : Nat) : Nat := (9 * (periodUnits n5 - 250) * clockOf step) / 100

/-! HBM addresses (R471 to R473, R567). -/

/-- Bytes of HBM of one partition. -/
def partBytes : Nat := 0x300000000
/-- Bytes of one 64 KiB physical page. -/
def pageBytes : Nat := 65536

/-- The partition and partition-local address of group-local address `a` in the group of size `n` led by `k` (R473). -/
def mapHbm (k n a : Nat) : Nat × Nat := (k + a / pageBytes % n, a / pageBytes / n * pageBytes + a % pageBytes)

/-- The group-local address of partition-local `l` of partition `p` in the group of size `n` led by `k` (R473). -/
def unmapHbm (k n p l : Nat) : Nat := (l / pageBytes * n + (p - k)) * pageBytes + l % pageBytes

/-- The address of a partition-local address within its pseudo-channel (R472). -/
def channelAddr (l : Nat) : Nat := l / 2048 / 16 * 2048 + l % 2048

/-- The partition pseudo-channel of a partition-local address (R472). -/
def channelOf (l : Nat) : Nat := Nat.xor (l / 2048 % 16) (l / 2048 / 16 % 16)

/-- The stack, channel and pseudo-channel of partition pseudo-channel `c` of partition `p` (Table 13.1). -/
def channelPlace (p c : Nat) : Nat × Nat × Nat :=
  (2 * (p / 4) + c / 8, 4 * (p % 4) + c % 8 / 2, c % 2)

/-- The group size of the train's group. -/
def State.groupSize (s : State) (t : Nat) : Nat := (s.part t).size

/-- Bytes of HBM of the group that `t` leads on one card. -/
def State.groupBytes (s : State) (t : Nat) : Nat := s.groupSize t * partBytes

/-- The group-local part of an address: in a consort, bits 39:0 of an address on this card (R567). -/
def State.localAddr (s : State) (a : Nat) : Nat := if s.consort.member then a % 2 ^ 40 else a

/-- Whether an address is held on this card (R567). -/
def State.onCard (s : State) (a : Nat) : Bool := !s.consort.member || a / 2 ^ 40 == s.consort.card

/-- The range lies in the group's HBM (R183, R567). -/
def State.inGroup (s : State) (t a len : Nat) : Bool :=
  if s.consort.member then
    decide (a / 2 ^ 40 < s.consort.members) && decide (a % 2 ^ 40 + len ≤ s.groupBytes t)
  else decide (a + len ≤ s.groupBytes t)

/-- A page whose retirement is in effect: of the table, and past the group's admission point (R491, R493). -/
def State.pageRetired (s : State) (p q : Nat) : Bool := s.dev.retired.contains (p, q) && !(s.part p).retiring.contains q

/-- Some page of the range on this card is retired (R492). -/
def State.rangeRetired (s : State) (t a len : Nat) : Bool :=
  s.onCard a && s.dev.retired.any (fun (p, q) =>
    (s.members t).contains p && s.pageRetired p q &&
      (let g := unmapHbm t (s.groupSize t) p (q * pageBytes)
       decide (s.localAddr a < g + pageBytes) && decide (g < s.localAddr a + len)))

/-- One byte of the group's HBM; a retired page reads zero (R492); another card's byte is a free value. -/
def State.hbmByte (s : State) (t a : Nat) : Byte :=
  if s.onCard a then
    let (p, l) := mapHbm t (s.groupSize t) (s.localAddr a)
    if s.pageRetired p (l / pageBytes) then 0 else (s.part p).hbm.get l
  else Config.freeByte (s.dev.freeIndex + a)

/-- `k` bytes of the group's HBM from `a`. -/
def State.hbmRead (s : State) (t a : Nat) : Nat → List Byte
  | 0 => []
  | k + 1 => s.hbmByte t a :: State.hbmRead s t (a + 1) k

/-- One byte stored to the group's HBM; its page's mark is due at the passing seal (R586); a retired page is never
written (R492); another card's byte leaves as a DATA frame. -/
def State.hbmPut (s : State) (t a : Nat) (b : Byte) : State :=
  if s.onCard a then
    let (p, l) := mapHbm t (s.groupSize t) (s.localAddr a)
    if s.pageRetired p (l / pageBytes) then s
    else
      let s := s.modPart p (fun x => { x with hbm := x.hbm.put l b })
      let g := s.localAddr a / pageBytes
      s.modTrain t (fun x =>
        { x with marks := if x.marks.contains g then x.marks else g :: x.marks, unmarks := x.unmarks.filter (· != g) })
  else
    { s with out := { s.out with frames := { kind := 4, fields := [t, a], bytes := [b] } :: s.out.frames } }

/-- Bytes stored to the group's HBM from `a`. -/
def State.hbmWrite (s : State) (t a : Nat) : List Byte → State
  | [] => s
  | b :: bs => State.hbmWrite (s.hbmPut t a b) t (a + 1) bs

/-! Host memory (R154): the key of a byte is function × 2^64 + DMA address. -/

def hostKey (fn a : Nat) : Nat := fn * 2 ^ 64 + a % 2 ^ 64
def State.hostRead (s : State) (fn a k : Nat) : List Byte := s.host.read (hostKey fn a) k
def State.hostWrite (s : State) (fn a : Nat) (bs : List Byte) : State :=
  { s with host := s.host.write (hostKey fn a) bs }

/-- Host stores that became visible before a doorbell (R163). -/
def State.hostStores (s : State) (fn : Nat) (cells : List Host.Cell) : State :=
  { s with host := s.host.writeCells (cells.map (fun c => (hostKey fn c.1, c.2))) }

/-! CRC-16 (R135). -/

def crc16Bit (c : Nat) : Nat :=
  if c / 0x8000 % 2 = 1 then (Nat.xor (2 * c) 0x1021) % 0x10000 else 2 * c % 0x10000

def iterate {α : Type} (f : α → α) : Nat → α → α
  | 0, x => x
  | n + 1, x => iterate f n (f x)

def crc16From : Nat → List Byte → Nat
  | c, [] => c
  | c, b :: bs => crc16From (iterate crc16Bit 8 (Nat.xor c (b.toNat * 256))) bs

/-- CRC-16/CCITT with initial value 0xFFFF (R135). -/
def crc16 (bs : List Byte) : Nat := crc16From 0xFFFF bs

/-- The bytes followed by their CRC-16, little-endian. -/
def withCrc16 (bs : List Byte) : List Byte := bs ++ leBytes 2 (crc16 bs)

/-! CRC-32C (R155). -/

def crc32Bit (c : Nat) : Nat := if c % 2 = 1 then Nat.xor (c / 2) 0x82F63B78 else c / 2

def crc32cFrom : Nat → List Byte → Nat
  | c, [] => c
  | c, b :: bs => crc32cFrom (iterate crc32Bit 8 (Nat.xor c b.toNat)) bs

/-- CRC-32C, Castagnoli, reflected, initial value and final XOR 0xFFFF_FFFF (R155). -/
def crc32c (bs : List Byte) : Nat := Nat.xor (crc32cFrom 0xFFFFFFFF bs) 0xFFFFFFFF

/-! SHA-256 (R13). -/

def rotr32 (x n : Nat) : Nat := Nat.lor (x / 2 ^ n) (x * 2 ^ (32 - n) % 2 ^ 32)

/-- The largest `r` with `r ^ k ≤ n` among those that agree with `r` above bit `b`, bit by bit from `b - 1` down. -/
def rootBits (k n : Nat) : Nat → Nat → Nat
  | 0, r => r
  | b + 1, r => rootBits k n b (if (r + 2 ^ b) ^ k ≤ n then r + 2 ^ b else r)

/-- The first 32 bits of the fraction of the `k`-th root of `p`: what FIPS 180-4 takes its constants from. -/
def rootFraction (k p : Nat) : Nat := rootBits k (p * 2 ^ (32 * k)) 36 0 % 2 ^ 32

/-- The first 64 primes, all below 19 squared. -/
def shaPrimes : List Nat :=
  (List.range 312).filter (fun n => decide (2 ≤ n) && [2, 3, 5, 7, 11, 13, 17].all (fun d => n == d || n % d != 0))

/-- One constant a round: the cube roots of the 64 primes. -/
def shaK : List Nat := shaPrimes.map (rootFraction 3)

/-- The initial hash value: the square roots of the first eight primes. -/
def shaInit : List Nat := (shaPrimes.take 8).map (rootFraction 2)

/-- The message schedule, newest word first, extended by `n` words. -/
def shaExtend : Nat → List Nat → List Nat
  | 0, w => w
  | n + 1, w =>
    let a := w.getD 14 0
    let b := w.getD 1 0
    let s0 := Nat.xor (Nat.xor (rotr32 a 7) (rotr32 a 18)) (a / 8)
    let s1 := Nat.xor (Nat.xor (rotr32 b 17) (rotr32 b 19)) (b / 1024)
    shaExtend n ((w.getD 15 0 + s0 + w.getD 6 0 + s1) % 2 ^ 32 :: w)

def shaRound (h : List Nat) (kw : Nat × Nat) : List Nat :=
  match h with
  | [a, b, c, d, e, f, g, x] =>
    let s1 := Nat.xor (Nat.xor (rotr32 e 6) (rotr32 e 11)) (rotr32 e 25)
    let ch := Nat.xor (Nat.land e f) (Nat.land (Nat.xor e 0xFFFFFFFF) g)
    let t1 := x + s1 + ch + kw.1 + kw.2
    let s0 := Nat.xor (Nat.xor (rotr32 a 2) (rotr32 a 13)) (rotr32 a 22)
    let mj := Nat.xor (Nat.xor (Nat.land a b) (Nat.land a c)) (Nat.land b c)
    [(t1 + s0 + mj) % 2 ^ 32, a, b, c, (d + t1) % 2 ^ 32, e, f, g]
  | _ => h

def beVal : List Byte → Nat := List.foldl (fun n b => n * 256 + b.toNat) 0

def shaBlock (h : List Nat) (blk : List Byte) : List Nat :=
  let w0 := (List.range 16).map (fun i => beVal ((blk.drop (4 * i)).take 4))
  let w := (shaExtend 48 w0.reverse).reverse
  let r := (shaK.zip w).foldl shaRound h
  (h.zip r).map (fun (x, y) => (x + y) % 2 ^ 32)

def shaBlocks : Nat → List Nat → List Byte → List Nat
  | 0, h, _ => h
  | n + 1, h, bs => shaBlocks n (shaBlock h (bs.take 64)) (bs.drop 64)

/-- SHA-256 of a byte string, 32 bytes (R13). -/
def sha256 (bs : List Byte) : List Byte :=
  let n := bs.length
  let padded := bs ++ [byte 0x80] ++ zeros ((119 - n % 64) % 64) ++ beBytes 8 (8 * n)
  (shaBlocks (padded.length / 64) shaInit padded).flatMap (beBytes 4)

/-! Events and counters need the time and the Breath they name. -/

/-- The number of the Breath current in a train (R617, R726). -/
def State.breathOf (s : State) (t : Nat) : Nat := (s.train t).breath

/-- The administrative Breath current now. -/
def State.adminBreath (s : State) : Nat := s.breathOf adminTrain

/-- The whole second of the timebase (R682, R725). -/
def State.second (s : State) : Nat := s.clock.timebase / 100000000

/-- The card ID that records and events carry (R610, Table 22.1). -/
def State.cardId (s : State) : Nat := if s.consort.member then s.consort.card else 0

end Sys2Proof.Machine
end

