-- ==== Sys2Proof/Machine/Numerics.lean ====
section
/-! DEFINITION. Numbers: formats, exact arithmetic rounded once, conversion, the canonical reduction order and the random
generator (chapter 11). -/

namespace Sys2Proof.Machine

/-- A floating-point value that FP32 can hold: a finite magnitude counts units of 2^-149. -/
inductive Num where
  | nan
  | inf (neg : Bool)
  | fin (neg : Bool) (mag : Nat)
  deriving DecidableEq, Repr

/-- An element: an integer, or a floating-point value. -/
inductive Elt where
  | int (z : Int)
  | num (x : Num)
  deriving DecidableEq, Repr

/-- The signed count of units of 2^-149. -/
def Num.int : Num → Int
  | .fin true m => -(m : Int)
  | .fin false m => m
  | _ => 0

def Num.neg : Num → Bool
  | .fin n _ => n
  | .inf n => n
  | .nan => false
def Num.isNan : Num → Bool
  | .nan => true
  | _ => false
def Num.isInf : Num → Bool
  | .inf _ => true
  | _ => false
def Num.isZero : Num → Bool
  | .fin _ 0 => true
  | _ => false
def Num.zero : Num := .fin false 0
def Num.negate : Num → Num
  | .nan => .nan
  | .inf n => .inf (!n)
  | .fin n m => .fin (!n) m
def Num.abs : Num → Num
  | .nan => .nan
  | .inf _ => .inf false
  | .fin _ m => .fin false m

/-- Bits of a natural number. -/
def bitLen (n : Nat) : Nat := if n = 0 then 0 else Nat.log2 n + 1

/-! Rounding (R418 to R421, R423). -/

/-- Rounding rule: nearest even, stochastic with its 32-bit value, toward zero (Table 11.4). -/
inductive Round where
  | nearest
  | stochastic (r : Nat)
  | zero
  deriving DecidableEq, Repr

/-- `a × 2^-k`, slightly more when `sticky`, rounded to `p` significant bits on a grid no finer than `2^-g`: the mantissa
and the exponent `q` of its unit `2^-q`. -/
def roundMag (rnd : Round) (p g a k : Nat) (sticky : Bool) : Nat × Int :=
  let len := bitLen a
  let q : Int := min (g : Int) ((p : Int) + k - len)
  let drop := (k : Int) - q
  if drop ≤ 0 then (a * 2 ^ (q - k).toNat, q)
  else
    let d := drop.toNat
    let m := a / 2 ^ d
    let rem := a % 2 ^ d
    let half := 2 ^ (d - 1)
    let up := match rnd with
      | .zero => false
      | .nearest => decide (half < rem) || (rem == half && (sticky || m % 2 == 1))
      | .stochastic r => decide (r < 2 ^ 32 * rem / 2 ^ d)
    (if up then m + 1 else m, q)

/-- An exact magnitude `a × 2^-k` as an FP32 value, to nearest even. -/
def toNum (neg : Bool) (a k : Nat) (sticky : Bool := false) : Num :=
  let (m, q) := roundMag .nearest 24 149 a k sticky
  let mag := m * 2 ^ ((149 : Int) - q).toNat
  if 2 ^ 277 ≤ mag then .inf neg else .fin neg mag

/-- A signed exact value `z × 2^-k` as FP32; an exact zero is +0. -/
def intToNum (z : Int) (k : Nat) : Num := toNum (decide (z < 0)) z.natAbs k

/-- FP32 addition (R423). -/
def Num.add (a b : Num) : Num :=
  match a, b with
  | .nan, _ => .nan
  | _, .nan => .nan
  | .inf x, .inf y => if x = y then .inf x else .nan
  | .inf x, _ => .inf x
  | _, .inf y => .inf y
  | .fin x m, .fin y n =>
    let z := Num.int (.fin x m) + Num.int (.fin y n)
    if z = 0 then .fin (x && y) 0 else intToNum z 149
def Num.sub (a b : Num) : Num := a.add b.negate
/-- FP32 multiplication. -/
def Num.mul (a b : Num) : Num :=
  match a, b with
  | .nan, _ => .nan
  | _, .nan => .nan
  | .inf x, y => if y.isZero then .nan else .inf (x != y.neg)
  | x, .inf y => if x.isZero then .nan else .inf (x.neg != y)
  | .fin x m, .fin y n => toNum (x != y) (m * n) 298
/-- FP32 fused multiply-add: a × b + c, rounded once. -/
def Num.fma (a b c : Num) : Num :=
  match a, b, c with
  | .fin x m, .fin y n, .fin w k =>
    let p : Int := if x != y then -((m * n : Nat) : Int) else ((m * n : Nat) : Int)
    let z := p + Num.int (.fin w k) * 2 ^ 149
    if z = 0 then .fin ((x != y) && w) 0 else intToNum z 298
  | _, _, _ =>
    if a.isNan || b.isNan || c.isNan || (a.isInf && b.isZero) || (a.isZero && b.isInf) then .nan
    else if a.isInf || b.isInf then
      (match c with
       | .inf w => if w = (a.neg != b.neg) then .inf w else .nan
       | _ => .inf (a.neg != b.neg))
    else c
/-- FP32 division. -/
def Num.div (a b : Num) : Num :=
  match a, b with
  | .nan, _ => .nan
  | _, .nan => .nan
  | .inf _, .inf _ => .nan
  | .inf x, y => .inf (x != y.neg)
  | x, .inf y => .fin (x.neg != y) 0
  | .fin x m, .fin y n =>
    if n = 0 then (if m = 0 then .nan else .inf (x != y))
    else if m = 0 then .fin (x != y) 0
    else
      let s := 40 + bitLen n
      toNum (x != y) (m * 2 ^ s / n) s (m * 2 ^ s % n != 0)

/-- One bit of a square root, from the top: `r` so far. -/
def sqrtBits (n : Nat) : Nat → Nat → Nat
  | 0, r => r
  | k + 1, r => let t := r + 2 ^ k; sqrtBits n k (if t * t ≤ n then t else r)
/-- The whole square root. -/
def isqrt (n : Nat) : Nat := sqrtBits n (bitLen n / 2 + 1) 0
/-- The FP32 square root. -/
def Num.sqrt : Num → Num
  | .nan => .nan
  | .inf true => .nan
  | .inf false => .inf false
  | .fin x 0 => .fin x 0
  | .fin true _ => .nan
  | .fin false m =>
    let a := m * 2 ^ 101
    let r := isqrt a
    toNum false r 125 (r * r != a)

/-- IEEE comparison: less than; false for NaN. -/
def Num.lt (a b : Num) : Bool :=
  match a, b with
  | .nan, _ => false
  | _, .nan => false
  | .inf x, .inf y => x && !y
  | .inf x, _ => x
  | _, .inf y => !y
  | a, b => decide (a.int < b.int)
def Num.eq (a b : Num) : Bool := !a.isNan && !b.isNan && !a.lt b && !b.lt a

/-! Encodings (Tables 11.1 to 11.3). -/

/-- Exponent bits, fraction bits, bias, whether it has an infinity. -/
structure FloatFormat where
  ebits : Nat
  fbits : Nat
  bias : Nat
  hasInf : Bool
  deriving DecidableEq, Repr

def floatFormat (code : Nat) : Option FloatFormat :=
  if code = 0x14 then some ⟨8, 23, 127, true⟩ else if code = 0x13 then some ⟨5, 10, 15, true⟩
  else if code = 0x12 then some ⟨8, 7, 127, true⟩ else if code = 0x11 then some ⟨5, 2, 15, true⟩
  else if code = 0x22 then some ⟨5, 2, 15, true⟩ else if code = 0x10 then some ⟨4, 3, 7, false⟩
  else if code = 0x21 then some ⟨4, 3, 7, false⟩ else if code = 0x20 then some ⟨2, 1, 1, false⟩ else none

/-- Element width in bits (Table 11.1). -/
def formatBits (code : Nat) : Nat :=
  if code = 0x01 ∨ code = 0x20 then 4
  else if code = 0x02 ∨ code = 0x10 ∨ code = 0x11 ∨ code = 0x21 ∨ code = 0x22 ∨ code = 0x23 then 8
  else if code = 0x12 ∨ code = 0x13 then 16 else if code = 0x03 ∨ code = 0x14 then 32 else 0
def isMx (code : Nat) : Bool := decide (0x20 ≤ code) && decide (code ≤ 0x23)
def isInt (code : Nat) : Bool := decide (0x01 ≤ code) && decide (code ≤ 0x03)
def isFloat (code : Nat) : Bool := (decide (0x10 ≤ code) && decide (code ≤ 0x14)) || isMx code
def validFormat (code : Nat) : Bool := formatBits code != 0

/-- The value of a floating-point pattern times `2^(scale)`, `scale` at least -149 - its own grid (R411, R416). -/
def FloatFormat.decode (f : FloatFormat) (n : Nat) (scale : Int) : Num :=
  let neg := bit n (f.ebits + f.fbits)
  let e := bits n f.fbits f.ebits
  let m := n % 2 ^ f.fbits
  let top := e = 2 ^ f.ebits - 1
  if f.hasInf && decide top then (if m = 0 then .inf neg else .nan)
  else if !f.hasInf && decide (f.ebits = 4) && decide top && decide (m = 7) then .nan
  else
    let sig := if e = 0 then m else m + 2 ^ f.fbits
    let ex : Int := (if e = 0 then (1 : Int) else e) - f.bias - f.fbits + scale + 149
    if 0 ≤ ex then .fin neg (sig * 2 ^ ex.toNat) else .fin neg (sig / 2 ^ (-ex).toNat)

/-- Two's complement of `w` bits. -/
def signed (w n : Nat) : Int := if bit n (w - 1) then (n : Int) - 2 ^ w else n
def unsigned (w : Nat) (z : Int) : Nat := (z % 2 ^ w).toNat

/-- FP32 patterns. -/
def f32 (n : Nat) : Num := FloatFormat.decode ⟨8, 23, 127, true⟩ n 0
/-- FP16 patterns. -/
def f16 (n : Nat) : Num := FloatFormat.decode ⟨5, 10, 15, true⟩ n 0
/-- The pattern of a value in a format; the value must be representable. -/
def FloatFormat.encode (f : FloatFormat) (x : Num) : Nat :=
  let sign (n : Bool) := flag n * 2 ^ (f.ebits + f.fbits)
  match x with
  | .nan => if f.hasInf then (2 ^ f.ebits - 1) * 2 ^ f.fbits + 2 ^ (f.fbits - 1) else 2 ^ (f.ebits + f.fbits) - 1
  | .inf n => sign n + (2 ^ f.ebits - 1) * 2 ^ f.fbits
  | .fin n mag =>
    let g := f.bias + f.fbits - 1
    let len := bitLen mag
    let q : Int := min (g : Int) ((f.fbits : Int) + 1 + 149 - len)
    let m := if (149 : Int) - q ≤ 0 then mag * 2 ^ (q - 149).toNat else mag / 2 ^ ((149 : Int) - q).toNat
    sign n + ((g : Int) - q).toNat * 2 ^ f.fbits + m
def encode32 (x : Num) : Nat := FloatFormat.encode ⟨8, 23, 127, true⟩ x

/-- The largest finite pattern of a format. -/
def FloatFormat.top (f : FloatFormat) : Nat :=
  if f.hasInf then (2 ^ f.ebits - 1) * 2 ^ f.fbits - 1
  else if f.ebits = 4 then 2 ^ 7 - 2 else 2 ^ (f.ebits + f.fbits) - 1

/-- The largest valid scale byte (Table 11.3). -/
def maxScale (code : Nat) : Nat :=
  if code = 0x20 then 252 else if code = 0x21 then 246 else if code = 0x22 then 239 else 253

/-- The decoded element of a pattern with its MX scale byte (ignored for plain formats; R416, R417). -/
def decodeElt (code n scale : Nat) : Elt :=
  if isInt code then .int (signed (formatBits code) n)
  else if isMx code && decide (maxScale code < scale) then .num .nan
  else if code = 0x23 then
    let z := signed 8 n
    let ex := (scale : Int) - 127 - 6 + 149
    .num (.fin (decide (z < 0)) (z.natAbs * 2 ^ ex.toNat))
  else match floatFormat code with
    | some f => .num (f.decode n (if isMx code then (scale : Int) - 127 else 0))
    | none => .int 0

/-! Conversion of a final value (R418 to R420). -/

/-- The rounding of a numerics mode; `r` is the stochastic value of the element. -/
def modeRound (mode r : Nat) : Round :=
  if mode % 4 = 1 then .stochastic r else if mode % 4 = 2 then .zero else .nearest

/-- Limits of an integer format. -/
def clampInt (w : Nat) (z : Int) : Int := max (-(2 ^ (w - 1))) (min z (2 ^ (w - 1) - 1))

/-- An exact value rounded to an integer under a rounding rule. -/
def roundInt (rnd : Round) (neg : Bool) (a k : Nat) : Int :=
  let m := a / 2 ^ k
  let rem := a % 2 ^ k
  let up := match rnd with
    | .zero => false
    | .nearest => decide (2 ^ k < 2 * rem) || (2 * rem == 2 ^ k && m % 2 == 1)
    | .stochastic r => decide (r < 2 ^ 32 * rem / 2 ^ k)
  let n : Nat := if up then m + 1 else m
  if neg then -(n : Int) else n

/-- A finite magnitude `a × 2^-k` as a pattern of a floating-point format: R419 and R420; `limit` clamps every overflow to
the largest finite value (MX elements). -/
def FloatFormat.convert (f : FloatFormat) (rnd : Round) (saturate limit : Bool) (neg : Bool) (a k : Nat) : Nat :=
  let g := f.bias + f.fbits - 1
  let (m, q) := roundMag rnd (f.fbits + 1) g a k false
  let pat := ((g : Int) - q).toNat * 2 ^ f.fbits + m
  let beyond := decide (f.top < pat) || (match rnd with
    | .stochastic _ =>
      let (m', q') := roundMag .zero (f.fbits + 1) g a k false
      let low := ((g : Int) - q').toNat * 2 ^ f.fbits + m'
      decide (f.top < low) || (low == f.top && decide (m' * 2 ^ ((k : Int) - q').toNat < a))
    | _ => false)
  let sign := flag neg * 2 ^ (f.ebits + f.fbits)
  if !beyond then sign + pat
  else if saturate || limit || rnd == .zero then sign + f.top
  else if f.hasInf then f.encode (.inf neg) else f.encode .nan

/-- A final value converted to the output format under a numerics mode: its pattern. -/
def convertOut (code mode r : Nat) (x : Elt) : Nat :=
  let rnd := modeRound mode r
  let w := formatBits code
  match x with
  | .int z =>
    if isInt code then unsigned w (clampInt w z)
    else match floatFormat code with
      | some f => f.convert rnd (bit mode 2) false (decide (z < 0)) z.natAbs 0
      | none => 0
  | .num .nan => if isInt code then 0 else ((floatFormat code).map (·.encode .nan)).getD 0
  | .num (.inf n) =>
    if isInt code then unsigned w (if n then -(2 ^ (w - 1)) else 2 ^ (w - 1) - 1)
    else match floatFormat code with
      | some f => if f.hasInf then f.encode (.inf n)
        else if bit mode 2 then flag n * 2 ^ (f.ebits + f.fbits) + f.top else f.encode .nan
      | none => 0
  | .num (.fin n mag) =>
    if isInt code then unsigned w (clampInt w (roundInt rnd n mag 149))
    else match floatFormat code with
      | some f => f.convert rnd (bit mode 2) false n mag 149
      | none => 0

/-! MX blocks (R422). -/

/-- floor(log2 X) of a positive magnitude in units of 2^-149. -/
def floorLog2 (mag : Nat) : Int := (bitLen mag : Int) - 1 - 149

/-- The scale byte and the element patterns of 32 values; `rs` are their stochastic values. -/
def mxBlock (code mode : Nat) (vs : List Num) (rs : List Nat) : Nat × List Nat :=
  if vs.any (fun v => v.isNan || v.isInf) then (0xFF, vs.map (fun _ => 0))
  else
    let big := vs.foldl (fun m v => max m v.int.natAbs) 0
    let emax : Int := if code = 0x20 then 2 else if code = 0x21 then 8 else if code = 0x22 then 15 else 0
    let e : Nat := if big = 0 then 0 else (max 0 (min (maxScale code : Int) (floorLog2 big - emax + 127))).toNat
    -- v / 2^(e-127) in units of 2^-(149+e) scaled up by 2^127
    let elem (v : Num) (r : Nat) : Nat :=
      let a := v.int.natAbs * 2 ^ 127
      let k := 149 + e
      let rnd := modeRound mode r
      if code = 0x23 then
        let z := roundInt rnd v.neg (a * 64) k
        unsigned 8 (max (-127) (min z 127))
      else ((floatFormat code).map (fun f => f.convert rnd true true v.neg a k)).getD 0
    (e, (vs.zip rs).map (fun (v, r) => elem v r))

/-! Reductions (R425 to R428). -/

/-- Exact sum of products, rounded once (R426). -/
def chunkFloat (ps : List (Num × Num)) : Num :=
  let bad := ps.any (fun (a, b) => a.isNan || b.isNan || (a.isZero && b.isInf) || (a.isInf && b.isZero))
  let infs := ps.filter (fun (a, b) => a.isInf || b.isInf)
  let pos := infs.any (fun (a, b) => a.neg == b.neg)
  let neg := infs.any (fun (a, b) => a.neg != b.neg)
  if bad || (pos && neg) then .nan
  else if pos then .inf false else if neg then .inf true
  else intToNum (ps.foldl (fun z (a, b) => z + a.int * b.int) 0) 298

/-- An INT32 value and whether any step saturated (R328). -/
structure Sat where
  value : Int
  sat : Bool := false
  deriving DecidableEq, Repr

def saturate32 (z : Int) (s : Bool) : Sat := { value := clampInt 32 z, sat := s || decide (clampInt 32 z ≠ z) }
def Sat.add (a b : Sat) : Sat := saturate32 (a.value + b.value) (a.sat || b.sat)

/-- One level of the canonical tree. -/
def pairUp {α : Type} (f : α → α → α) : List α → List α
  | a :: b :: r => f a b :: pairUp f r
  | r => r
/-- The canonical tree (R427); `n` bounds the levels. -/
def treeFold {α : Type} (f : α → α → α) (d : α) : Nat → List α → α
  | _, [] => d
  | _, [x] => x
  | 0, x :: _ => x
  | n + 1, xs => treeFold f d n (pairUp f xs)
def tree {α : Type} (f : α → α → α) (d : α) (xs : List α) : α := treeFold f d 64 xs

/-- A list cut into pieces of 128; `n` bounds the walk. -/
def chunks128 {α : Type} : Nat → List α → List (List α)
  | 0, _ => []
  | _, [] => []
  | n + 1, xs => xs.take 128 :: chunks128 n (xs.drop 128)
def chunks {α : Type} (xs : List α) : List (List α) := chunks128 xs.length xs

/-! The random generator (R435 to R443). -/

/-- One step of the state x + y·2^32 + z·2^64 + w·2^96. -/
def rngStep (s : Nat) : Nat :=
  let x := s % 2 ^ 32
  let w := s / 2 ^ 96
  let t := Nat.xor x (x * 2 ^ 11 % 2 ^ 32)
  let w' := Nat.xor (Nat.xor (Nat.xor w (w / 2 ^ 19)) t) (t / 2 ^ 8)
  s / 2 ^ 32 + w' * 2 ^ 96

/-- A GF(2) matrix, as the images of the 128 unit vectors, applied to a state. -/
def applyMatrix : List Nat → Nat → Nat
  | [], _ => 0
  | c :: cs, v => Nat.xor (if v % 2 = 1 then c else 0) (applyMatrix cs (v / 2))
def stepMatrix : List Nat := (List.range 128).map (fun i => rngStep (2 ^ i))
/-- The matrices of 1, 2, 4, … steps. -/
def jumpMatrices : Nat → List Nat → List (List Nat)
  | 0, _ => []
  | n + 1, m => m :: jumpMatrices n (m.map (applyMatrix m))
def jumpTable : List (List Nat) := jumpMatrices 128 stepMatrix
/-- The state advanced by `n` steps (R438). -/
def jump : List (List Nat) → Nat → Nat → Nat
  | [], _, s => s
  | m :: ms, n, s => jump ms (n / 2) (if n % 2 = 1 then applyMatrix m s else s)

/-- The base state of a job seed (R437). -/
def baseState (seed : Nat) : Nat :=
  let lo := seed % 2 ^ 32
  let hi := seed / 2 ^ 32 % 2 ^ 32
  lo + hi * 2 ^ 32 + Nat.xor lo 0x6A09E667 * 2 ^ 64 + Nat.xor hi 0xBB67AE85 * 2 ^ 96
/-- The output of a state reached by a step (R436). -/
def rngOutput (s : Nat) : Nat :=
  let v := s / 2 ^ 96 * 0x9E3779B9 % 2 ^ 32
  v * 128 % 2 ^ 32 + v / 2 ^ 25
/-- Value `i` of stream `a` of a seed (R439). -/
def streamValue (seed a i : Nat) : Nat := rngOutput (jump jumpTable ((a * 2 ^ 32 + i + 1) % 2 ^ 128) (baseState seed))
/-- The stream address of Table 11.8. -/
def streamAddress (step tag g m n : Nat) : Nat :=
  step % 65536 * 2 ^ 80 + tag * 2 ^ 64 + g * 2 ^ 48 + m * 2 ^ 24 + n / 128 * 2 ^ 7 + n % 128
/-- The uniform value of a stream value (R443). -/
def uniform (u : Nat) : Num := .fin false ((u / 2 ^ 9 * 2 + 1) * 2 ^ 125)

/-! Rows of elements (R414, R415). -/

/-- Bytes of a packed row of `n` elements. -/
def rowBytes (code n : Nat) : Nat := ceilDiv (n * formatBits code) 8 + if isMx code then n / 32 else 0
/-- Element `i` of a row of `n`. -/
def eltAt (code n : Nat) (row : List Byte) (i : Nat) : Elt :=
  let w := formatBits code
  let p := if w = 4 then bits (field row (i / 2) 1) (4 * (i % 2)) 4 else field row (i * (w / 8)) (w / 8)
  decodeElt code p (if isMx code then field row (n * w / 8 + i / 32) 1 else 0)
/-- The bytes of a row of plain patterns. -/
def packRow (code : Nat) : List Nat → List Byte
  | [] => []
  | [a] => if formatBits code = 4 then [byte (a % 16)] else leBytes (formatBits code / 8) a
  | a :: b :: r =>
    if formatBits code = 4 then byte (a % 16 + 16 * (b % 16)) :: packRow code r
    else leBytes (formatBits code / 8) a ++ packRow code (b :: r)

end Sys2Proof.Machine
end

