-- ==== Sys2Proof/Machine/Sfu.lean ====
section
/-! DEFINITION. Special functions (R389 to R392, R443, R444): the precise rate in fixed point with far more bits than FP32
holds, rounded once (assumption 8); the fast rate as free values within the bound of Table 10.3, fixed by release, function and
input (assumption 13). -/

namespace Sys2Proof.Machine

/-- Fraction bits of the fixed-point evaluation. -/
def sfuBits : Nat := 700
def sfuOne : Int := 2 ^ sfuBits
def fixMul (a b : Int) : Int := a * b / sfuOne
def fixDiv (a b : Int) : Int := a * sfuOne / b

/-- Terms t, t·y²·…: the sum of t_k / (2k+1) with t multiplied by `y2` each time and by `sg` in sign. -/
def oddSeries (y2 sg : Int) : Nat → Nat → Int → Int
  | 0, _, _ => 0
  | n + 1, k, t => t / (2 * k + 1) + oddSeries y2 sg n (k + 1) (sg * fixMul t y2)

/-- atanh and atan of a fixed-point value of magnitude below 1/4 or so; `n` terms. -/
def fixAtanh (n : Nat) (y : Int) : Int := oddSeries (fixMul y y) 1 n 0 y
def fixAtan (n : Nat) (y : Int) : Int := oddSeries (fixMul y y) (-1) n 0 y

def fixLn2 : Int :=
  18 * fixAtanh 90 (sfuOne / 26) - 2 * fixAtanh 40 (sfuOne / 4801) + 8 * fixAtanh 40 (sfuOne / 8749)
def fixPi : Int := 16 * fixAtan 170 (sfuOne / 5) - 4 * fixAtan 60 (sfuOne / 239)

/-- Σ r^k / k! from term `t` of index `k`. -/
def expSeries (r : Int) : Nat → Nat → Int → Int
  | 0, _, _ => 0
  | n + 1, k, t => t + expSeries r n (k + 1) (fixMul t r / (k + 1))
/-- e^z as E × 2^k with E fixed-point in about [1, 2). -/
def fixExp (z : Int) : Int × Int :=
  let k := z / fixLn2
  (expSeries (z - k * fixLn2) 170 0 sfuOne, k)
/-- e^z for z ≤ 0, in fixed point. -/
def fixExpNeg (z : Int) : Int :=
  let (e, k) := fixExp z
  e / 2 ^ (-k).toNat

/-- The fixed-point value of a finite number. -/
def Num.fix (x : Num) : Int := x.int * 2 ^ (sfuBits - 149)
/-- A fixed-point approximation rounded to FP32. -/
def ofFix (z : Int) : Num := toNum (decide (z < 0)) z.natAbs sfuBits true

/-- The same where an underflow keeps the result's sign (R392). -/
def ofSigned (neg : Bool) (z : Int) : Num := if z = 0 then .fin neg 0 else ofFix z

/-- ln of a positive magnitude in units of 2^-149. -/
def fixLn (mag : Nat) : Int :=
  let len := bitLen mag
  let m0 : Int := (mag : Int) * 2 ^ sfuBits / 2 ^ len      -- [1/2, 1)
  let e0 : Int := (len : Int) - 149
  let (m, e) := if m0 * 4 < 3 * sfuOne then (2 * m0, e0 - 1) else (m0, e0)
  2 * fixAtanh 180 (fixDiv (m - sfuOne) (m + sfuOne)) + e * fixLn2

/-- sin and cos of |r| below 0.8: alternating series from term `t` of index `k`. -/
def trigSeries (r2 : Int) : Nat → Nat → Int → Int
  | 0, _, _ => 0
  | n + 1, k, t => t + trigSeries r2 n (k + 2) (-(fixMul t r2) / ((k + 1) * (k + 2)))
def fixSin (r : Int) : Int := trigSeries (fixMul r r) 90 1 r
def fixCos (r : Int) : Int := trigSeries (fixMul r r) 90 0 sfuOne

/-- The quadrant and the remainder of a fixed-point angle. -/
def reduceAngle (z : Int) : Nat × Int :=
  let h := fixPi / 2
  let k := (2 * z + h) / (2 * h)
  ((k % 4).toNat, z - k * h)
def sinAt (q : Nat) (r : Int) : Int :=
  if q = 0 then fixSin r else if q = 1 then fixCos r else if q = 2 then -fixSin r else -fixCos r

/-- Σ (-1)^k y^(2k+1) / (k! (2k+1)). -/
def erfSeries (y2 : Int) : Nat → Nat → Int → Int
  | 0, _, _ => 0
  | n + 1, k, t => t / (2 * k + 1) + erfSeries y2 n (k + 1) (-(fixMul t y2) / (k + 1))
/-- The square root of a non-negative fixed-point value. -/
def fixSqrt (z : Int) : Int := isqrt (z.toNat * 2 ^ sfuBits)
/-- erf of a fixed-point value of magnitude up to 16. -/
def fixErf (y : Int) : Int := fixDiv (2 * erfSeries (fixMul y y) 1400 0 y) (fixSqrt fixPi)
/-- 1 / (1 + e^-z). -/
def fixSigmoid (z : Int) : Int :=
  if 0 ≤ z then fixDiv sfuOne (sfuOne + fixExpNeg (-z)) else let e := fixExpNeg z; fixDiv e (sfuOne + e)

/-- The magnitude is above `n`. -/
def Num.beyond (x : Num) (n : Nat) : Bool := decide (n * 2 ^ 149 < x.int.natAbs)

/-- 1 / x, correctly rounded. -/
def Num.recip (x : Num) : Num := (Num.fin false (2 ^ 149)).div x
/-- 1 / √x, correctly rounded. -/
def Num.rsqrt : Num → Num
  | .nan => .nan
  | .inf true => .nan
  | .inf false => Num.zero
  | .fin n 0 => .inf n
  | .fin true _ => .nan
  | .fin false m =>
    let r := isqrt (2 ^ 549 / m)
    toNum false r 200 (r * r * m != 2 ^ 549)

def Num.one : Num := .fin false (2 ^ 149)

/-- A finite input's precise result (R390); zeros and infinities are handled before. -/
def sfuFinite (code : Nat) (neg : Bool) (mag : Nat) : Num :=
  let x : Num := .fin neg mag
  let z := x.fix
  if code = 0 then
    if mag = 0 then Num.one
    else if x.beyond 200 then (if neg then Num.zero else .inf false)
    else let (e, k) := fixExp z; toNum false e.toNat ((sfuBits : Int) - k).toNat true
  else if code = 1 then
    if x.beyond 300 then (if neg then Num.zero else .inf false)
    else if mag % 2 ^ 149 = 0 then
      let n := mag / 2 ^ 149
      if neg then toNum false 1 n else toNum false (2 ^ n) 0
    else let (e, k) := fixExp (fixMul z fixLn2); toNum false e.toNat ((sfuBits : Int) - k).toNat true
  else if code = 2 then
    if mag = 0 then .inf true else if neg then .nan else if mag = 2 ^ 149 then Num.zero else ofFix (fixLn mag)
  else if code = 3 then
    if mag = 0 then .inf true else if neg then .nan
    else if mag = 2 ^ (bitLen mag - 1) then
      (let e := (bitLen mag : Int) - 150; if e = 0 then Num.zero else intToNum e 0)
    else ofFix (fixDiv (fixLn mag) fixLn2)
  else if code = 4 then x.recip
  else if code = 5 then x.rsqrt
  else if code = 6 then x.sqrt
  else if code = 7 then
    if x.beyond 200 then (if neg then Num.zero else Num.one) else ofFix (fixSigmoid z)
  else if mag = 0 then (if code = 14 then Num.one else x)
  else if code = 8 then
    if x.beyond 200 then .fin neg (2 ^ 149)
    else
      let a : Int := if neg then -z else z
      let e := fixExpNeg (-2 * a)
      -- (1 - e) / (1 + e); for small a the series keeps the relative precision
      let t := fixDiv (sfuOne - e) (sfuOne + e)
      let t := if a < sfuOne / 2 ^ 60 then a - fixMul (fixMul a a) a / 3 else t
      ofFix (if neg then -t else t)
  else if code = 9 then
    if x.beyond 200 then (if neg then .fin true 0 else x) else ofSigned neg (fixMul z (fixSigmoid z))
  else if code = 10 then
    if x.beyond 60 then (if neg then .fin true 0 else x)
    else
      let c := fixSqrt (fixDiv (2 * sfuOne) fixPi)
      let y := fixMul c (z + fixMul (fixMul z z) z * 44715 / 1000000)
      ofSigned neg (fixMul z (fixSigmoid (2 * y)))
  else if code = 11 then
    if x.beyond 20 then (if neg then .fin true 0 else x)
    else
      let y := fixDiv z (fixSqrt (2 * sfuOne))
      ofSigned neg (fixMul z (sfuOne + fixErf y) / 2)
  else if code = 12 then
    if x.beyond 15 then .fin neg (2 ^ 149)
    else
      let a := fixErf z
      ofFix a
  else if code = 13 then let (q, r) := reduceAngle z; ofFix (sinAt q r)
  else let (q, r) := reduceAngle z; ofFix (sinAt ((q + 1) % 4) r)

/-- The precise result, special inputs included (Table 10.4). -/
def sfuPrecise (code : Nat) (x : Num) : Num :=
  match x with
  | .nan => .nan
  | .inf n =>
    if code ≤ 1 then (if n then Num.zero else .inf false)
    else if code ≤ 3 then (if n then .nan else .inf false)
    else if code = 4 then .fin n 0
    else if code = 5 then (if n then .nan else Num.zero)
    else if code = 6 then (if n then .nan else .inf false)
    else if code = 7 then (if n then Num.zero else Num.one)
    else if code = 8 ∨ code = 12 then .fin n (2 ^ 149)
    else if code ≤ 11 then (if n then .fin true 0 else .inf false)
    else .nan
  | .fin n m => sfuFinite code n m

/-- Inputs whose result Tables 10.4 and R392 fix at both rates. -/
def sfuSpecial (code : Nat) (x : Num) : Bool :=
  match x with
  | .nan => true
  | .inf _ => true
  | .fin n m => decide (m = 0) || (n && [2, 3, 5, 6].contains code) || ((code == 2 || code == 3) && m == 2 ^ 149)
    || (match sfuFinite code n m with
        | .inf _ => true
        | .fin _ 0 => true
        | _ => false)

/-- One ulp of a finite result, in units of 2^-149. -/
def Num.ulp : Num → Nat
  | .fin _ m => 2 ^ (bitLen m - 24)
  | _ => 1

/-- How far a fast result may lie from the precise result `r` of input `x`, in units of 2^-149: the bound of Table 10.3 on its
distance from the exact result, and the rounding of `r` (R391). -/
def fastBound (code : Nat) (x r : Num) : Nat :=
  let abs (b : Nat) : Nat := 2 ^ (149 - b) + r.ulp / 2
  let ge (num den : Int) : Bool := decide (num * 2 ^ 149 ≤ x.int * den)
  let le (num den : Int) : Bool := decide (x.int * den ≤ num * 2 ^ 149)
  if code = 2 then (if ge 3 4 && le 3 2 then abs 24 else 2 * r.ulp)
  else if code = 3 then (if ge 3 4 && le 3 2 then abs 23 else 2 * r.ulp)
  else if code = 4 ∨ code = 5 ∨ code = 6 then r.ulp
  else if code = 9 then (if ge (-20) 1 then 2 * r.ulp else abs 40)
  else if code = 10 ∨ code = 11 then (if ge (-8) 1 then 2 * r.ulp else abs 40)
  else if code = 13 ∨ code = 14 then (if x.beyond 1024 then abs 12 else abs 22)
  else 2 * r.ulp

/-- A value lies within the bound of a fast result. -/
def withinFast (code : Nat) (x r v : Num) : Bool :=
  match r, v with
  | .fin .., .fin .. => decide ((v.int - r.int).natAbs ≤ fastBound code x r)
  | _, _ => false

/-- A special function at either rate, under a firmware release. A fast result is a free value within its bound (R391,
assumption 13). -/
def sfu (release code : Nat) (precise : Bool) (x : Num) : Num :=
  let r := sfuPrecise code x
  if precise || sfuSpecial code x then r
  else
    let v := f32 (Config.fastSfu release code (encode32 x) % 2 ^ 32)
    if withinFast code x r v then v else r

/-- A Gaussian value from values 0 and 1 of a stream (R444). -/
def gaussian (u1 u2 : Nat) : Num :=
  let l := sfuPrecise 2 (uniform u1)
  let r := (Num.mul (.fin true (2 ^ 150)) l).sqrt
  let (q, a) := reduceAngle (fixMul (2 * fixPi) (uniform u2).fix)
  r.mul (ofFix (sinAt ((q + 1) % 4) a))

end Sys2Proof.Machine
end

