-- ==== Sys2Proof/Machine/Flags.lean ====
section
/-! DEFINITION. Status and interrupt flags: MSI-X messages, event queues, reply queues, host violations and the freeze,
error counters that saturate. -/

namespace Sys2Proof.Machine

/-! MSI-X (R731, R732). -/

/-- The message of a vector, or its pending bit where the vector or the function is masked. -/
def State.signal (s : State) (fn vec : Nat) : State :=
  let f := s.fn fn
  if f.functionMask || f.masked.contains vec then
    s.setFn fn { f with pendingBits := if f.pendingBits.contains vec then f.pendingBits else vec :: f.pendingBits }
  else { s with out := { s.out with messages := (fn, vec) :: s.out.messages } }

/-- The moderation interval that begins with a message sent at timebase `now` (R732). -/
def EventQueue.spaced (q : EventQueue) (now : Nat) : EventQueue :=
  { q with moderated := if q.moderation = 0 then none else some (now + 100 * q.moderation) }

/-- The message of an event queue's vector, at least the moderation interval after the last (R732). A masked vector sends
none, so no interval begins before it is unmasked. -/
def State.signalEvents (s : State) (fn : Nat) : State :=
  let f := s.fn fn
  let send : State :=
    (s.modFn fn (fun f =>
      let silent := f.functionMask || f.masked.contains 1
      { f with events := if silent then { f.events with moderated := none } else f.events.spaced s.clock.timebase })).signal fn 1
  match f.events.moderated with
  | some e => if s.clock.timebase < e then s.modFn fn (fun f => { f with events := { f.events with owed := true } }) else send
  | none => send

/-! Event queues (R718 to R727). -/

def EventQueue.depth (q : EventQueue) : Nat := 2 ^ q.depthLog2
def EventQueue.full (q : EventQueue) : Bool := (q.tail + 1) % q.depth == q.head

/-- The 64 bytes of an event record (Table 22.1). -/
def eventBytes (card seq : Nat) (phase : Bool) (e : Event) : List Byte :=
  withCrc16 (leBytes 2 e.code ++ [byte e.severity, byte (flag phase + 2 * flag e.mirrored), byte e.eflags, byte e.part]
    ++ leBytes 2 e.core ++ leBytes 4 seq ++ leBytes 8 e.time ++ leBytes 6 e.breath ++ [byte e.unit, byte card]
    ++ fit 34 e.payload)

/-- One record written at the tail with sequence `seq` (R719, R722, R723); a critical one of the device queue also signals
vector 2 (R731). -/
def State.writeEvent (s : State) (fn seq : Nat) (e : Event) : State :=
  let q := (s.fn fn).events
  let t := (q.tail + 1) % q.depth
  let s := s.hostWrite fn (q.base + 64 * q.tail) (eventBytes s.cardId seq q.phase e)
  let s := s.modFn fn (fun f => { f with events := { f.events with
      tail := t, phase := if t = 0 then !q.phase else q.phase, status := Nat.lor q.status 1 } })
  if fn = 0 && e.severity = 3 then s.signal 0 2 else s

/-- The one message behind the records written since the tail stood at `tail` (R732; assumption 19). -/
def State.announce (s : State) (fn tail : Nat) : State := if (s.fn fn).events.tail = tail then s else s.signalEvents fn

/-- The EVENTS_LOST record of a queue's drop counts (R722). -/
def lostEvent (q : EventQueue) (part time breath : Nat) : Event :=
  { code := 0x0105, severity := 1, part := part, time := time, breath := breath
    payload := leBytes 4 q.lostFull ++ leBytes 4 q.lostRate ++ leBytes 4 q.lostFirst ++ leBytes 4 q.lostLast }

/-- The partition byte of a function's own queue events. -/
def fnPart (fn : Nat) : Nat := if fn = 0 then 0xFF else fn - 1

/-- The train a function's events concern. -/
def State.fnTrain (s : State) (fn : Nat) : Nat := if fn = 0 then adminTrain else s.leaderOf (fn - 1)

/-- EVENTS_LOST written when an entry is free and drops are counted (R722). -/
def State.flushLost (s : State) (fn : Nat) : State :=
  let q := (s.fn fn).events
  if q.enable && !q.full && (decide (0 < q.lostFull) || decide (0 < q.lostRate)) then
    let e := lostEvent q (fnPart fn) s.clock.time (s.breathOf (s.fnTrain fn))
    let s := s.modFn fn (fun f => { f with events := { f.events with
        seq := (q.seq + 1) % 2 ^ 32, lostFull := 0, lostRate := 0, lostFirst := 0, lostLast := 0 } })
    s.writeEvent fn q.seq e
  else s

/-- The BAR0 offset of a function's EVQ_LOST. -/
def evqLostOffset (fn : Nat) : Nat := if fn = 0 then 0x3028 else 0x01000000 + (fn - 1) * 0x100000 + 0x428

/-- One event dropped at sequence or position `n` (R721, R722, R725). -/
def EventQueue.drop (q : EventQueue) (rate : Bool) (n : Nat) : EventQueue :=
  { q with
    lostFull := if rate then q.lostFull else satAdd 32 q.lostFull 1
    lostRate := if rate then satAdd 32 q.lostRate 1 else q.lostRate
    lostFirst := if q.lostFull = 0 ∧ q.lostRate = 0 then n else q.lostFirst
    lostLast := n
    lostTotal := satAdd 32 q.lostTotal 1
    status := Nat.lor q.status 2 }

/-- The events of one code received in the current second. -/
def EventQueue.rateOf (q : EventQueue) (code : Nat) : Nat := ((q.rate.find? (·.1 == code)).map (·.2)).getD 0

def EventQueue.countRate (q : EventQueue) (code : Nat) : EventQueue :=
  { q with rate := (code, q.rateOf code + 1) :: q.rate.filter (·.1 != code) }

/-- Codes exempt from the limit of 1,000 a second (R725). -/
def rateExempt (e : Event) : Bool := e.code == 0x0105 || e.code == 0x0401 || e.severity == 3

/-- An event received by the queue of function `fn`. -/
def State.receive (s : State) (fn : Nat) (e : Event) : State :=
  let q0 := (s.fn fn).events
  let q0 := if e.severity = 3 then { q0 with status := Nat.lor q0.status 4 } else q0
  let beyond := !rateExempt e && decide (1000 ≤ q0.rateOf e.code)
  let q := q0.countRate e.code
  let put (q : EventQueue) : State := s.modFn fn (fun f => { f with events := q })
  if !q.enable then
    let n := q.raisedDisabled
    let q := { q with raisedDisabled := n + 1 }
    if beyond then put (q.drop true n)
    else if q.hold.length < (if fn = 0 then 256 else 64) then put { q with hold := q.hold ++ [(n, e)] }
    else put (q.drop false n)
  else if beyond then put { q.drop true q.seq with seq := (q.seq + 1) % 2 ^ 32 }
  else
    let s := (put q).flushLost fn
    let q := (s.fn fn).events
    if q.full then (s.modFn fn (fun f => { f with events := { q.drop false q.seq with seq := (q.seq + 1) % 2 ^ 32 } })).announce fn q0.tail
    else ((s.modFn fn (fun f => { f with events := { q with seq := (q.seq + 1) % 2 ^ 32 } })).writeEvent fn q.seq e).announce fn q0.tail

/-- An event raised for the queue of function `fn`, with its mirrored copy (R727) and the sideband alert of a critical
event (R744). -/
def State.raise (s : State) (fn : Nat) (e : Event) : State :=
  let s := s.receive fn e
  let s := if e.severity = 3 then { s with board := { s.board with alert := true } } else s
  if fn ≠ 0 && (e.severity == 3 || (decide (e.part < 16) && bit s.dev.mirror e.part)) then
    s.receive 0 { e with mirrored := true }
  else s

/-- An event of the device or of partition `p`, with the time and Breath of now (R726). -/
def State.event (s : State) (code sev : Nat) (part : Nat) (core : Nat := 0xFFFF) (unit : Nat := 0xFF)
    (eflags : Nat := 0) (payload : List Byte := []) : Event :=
  { code := code, severity := sev, eflags := eflags, part := part, core := core, time := s.clock.time
    breath := s.breathOf (if part < 16 then s.leaderOf part else adminTrain), unit := unit, payload := payload }

/-- Routed D: the device queue (R727). -/
def State.raiseD (s : State) (code sev : Nat) (unit : Nat := 0xFF) (eflags : Nat := 0) (payload : List Byte := []) :
    State := s.raise 0 (s.event code sev 0xFF 0xFFFF unit eflags payload)

/-- Routed O: the queue of the partition that owns the core or channel; the device queue for none (R727). -/
def State.raiseO (s : State) (code sev part : Nat) (core : Nat := 0xFFFF) (unit : Nat := 0xFF) (eflags : Nat := 0)
    (payload : List Byte := []) : State :=
  s.raise (if part < 16 then part + 1 else 0) (s.event code sev part core unit eflags payload)

/-- Routed L: the queue of the group led by `t`; the device queue for the administrative train (R727). In a consort that is the
queue on the leader card, which raises the event itself (R569; DEDUCED, assumption 119). -/
def State.raiseL (s : State) (t : Nat) (code sev : Nat) (core : Nat := 0xFFFF) (unit : Nat := 0xFF) (eflags : Nat := 0)
    (payload : List Byte := []) : State :=
  if s.consort.member && s.consort.card != 0 && decide (t < 16) then s
  else s.raise (if t < 16 then t + 1 else 0) (s.event code sev (if t < 16 then t else 0xFF) core unit eflags payload)

/-- Routed F: the queue of the function involved (R727). -/
def State.raiseF (s : State) (fn code sev : Nat) (eflags : Nat := 0) (payload : List Byte := []) : State :=
  s.raise fn (s.event code sev (fnPart fn) 0xFFFF 0xFF eflags payload)

/-- At most once per whole second for one code and unit (R725): whether it may happen, and the state that remembers. -/
def State.once (s : State) (code unit : Nat) : Bool × State :=
  if s.dev.onceThisSecond.contains (code, unit) then (false, s)
  else (true, s.modDev (fun d => { d with onceThisSecond := (code, unit) :: d.onceThisSecond }))

/-! Error counters (R741, R742). -/

/-- COUNTER_WRAP with the saturation flag for the error counter at BAR0 offset `off` when it reaches its end (R742). -/
def State.saturated (s : State) (part off before after : Nat) : State :=
  if before < 2 ^ 32 - 1 ∧ after = 2 ^ 32 - 1 then
    s.raise (if part < 16 then part + 1 else 0) (s.event 0x0106 0 part 0xFFFF 0xFF 1 (leBytes 4 off))
  else s

/-- The BAR0 offset of partition block `p`. -/
def blockBase (p : Nat) : Nat := 0x01000000 + p * 0x100000

/-! Host violations and freezing (R145 to R149). -/

/-- The ring code of HOST_VIOLATION (Table 22.3). -/
def ringCode (fn : Nat) (bulk : Bool) : Nat := (if fn = 0 then 2 else 0) + flag bulk

/-- What a HOST_VIOLATION names (Table 22.3). -/
structure Violation where
  ring : Nat := 0xFF
  cause : Nat
  seq : Nat := 0
  status : Nat := 0
  offset : Nat := 0xFF
  reason : Nat := 0
  tag : Nat := 0
  deriving DecidableEq, Repr

/-- LAST_VIOLATION (R782). -/
def Violation.word (v : Violation) : Nat :=
  v.status + v.cause * 2 ^ 8 + v.ring * 2 ^ 16 + v.offset * 2 ^ 24 + v.seq * 2 ^ 32 + v.reason * 2 ^ 48

/-- Whether a violation counted now freezes: the 64th before it lies at most one second back (R147). -/
def freezesNow (now : Nat) (times : List Nat) : Bool :=
  match times[63]? with
  | some t => decide (now - t ≤ 100000000)
  | none => false

/-- One violation counted against function `fn` (R146); none while its rings are frozen (R147). The second component
says whether it froze the rings. -/
def State.violate (s : State) (fn : Nat) (v : Violation) : State × Bool :=
  let f := s.fn fn
  if f.frozen then (s, false)
  else
    let n := satAdd 32 f.violations 1
    let fr := freezesNow s.clock.timebase f.violationTimes
    let s := s.setFn fn { f with
      violations := n
      violationTimes := (s.clock.timebase :: f.violationTimes).take 64
      lastViolation := v.word
      frozen := fr
      freezeBreath := if fr then s.breathOf (s.fnTrain fn) else f.freezeBreath
      events := if fr then { f.events with status := Nat.lor f.events.status 16 } else f.events }
    let s := s.saturated (fnPart fn) (if fn = 0 then 0x20A8 else blockBase (fn - 1) + 0x2A8) f.violations n
    let s := s.raiseF fn 0x0103 1 0 ([byte v.ring, byte v.cause] ++ leBytes 2 v.seq ++ [byte v.status, byte v.offset]
      ++ leBytes 2 v.reason ++ leBytes 4 v.tag)
    (if fr then s.raiseF fn 0x0104 2 0 (leBytes 4 n) else s, fr)

/-! Reply queues (R121 to R125). -/

def ReplyQueue.depth (q : ReplyQueue) : Nat := 2 ^ q.depthLog2
def ReplyQueue.full (q : ReplyQueue) : Bool := (q.tail + 1) % q.depth == q.head

/-- The 32 bytes of a status reply (Table 4.4). -/
def replyBytes (phase : Bool) (r : Reply) : List Byte :=
  withCrc16 (leBytes 2 r.seq ++ [byte r.status, byte (r.flags + 4 * flag phase)] ++ leBytes 4 r.tag
    ++ leBytes 6 r.breath ++ fit 16 r.detail)

/-- One reply written at the tail (R122). -/
def State.writeReply (s : State) (fn : Nat) (r : Reply) : State :=
  let q := (s.fn fn).reply
  let t := (q.tail + 1) % q.depth
  let s := s.hostWrite fn (q.base + 32 * q.tail) (replyBytes q.phase r)
  s.modFn fn (fun f => { f with reply := { q with tail := t, phase := if t = 0 then !q.phase else q.phase } })

/-- Held replies posted while entries are free, in order (R125); `n` bounds the walk. A disabled queue holds its replies as a
full one does (DESIGN CHOICE, assumption 100). -/
def State.postHeld : Nat → State → Nat → State
  | 0, s, _ => s
  | n + 1, s, fn =>
    let q := (s.fn fn).reply
    match q.held with
    | [] => s
    | r :: rest =>
      if !q.enable || q.full then s
      else State.postHeld n ((s.modFn fn (fun f => { f with reply := { q with held := rest } })).writeReply fn r) fn

/-- REPLY_QUEUE_FULL, once in each full period, when the queue becomes full (R125). -/
def State.noteFull (s : State) (fn : Nat) : State :=
  let q := (s.fn fn).reply
  if q.full then
    if q.fullRaised then s
    else
      (s.modFn fn (fun f => { f with
        reply := { f.reply with fullRaised := true }
        events := { f.events with status := Nat.lor f.events.status 8 } })).raiseF fn 0x0102 1 0 (leBytes 4 q.held.length)
  else s.modFn fn (fun f => { f with reply := { f.reply with fullRaised := false } })

/-- The replies of one seal for one queue: appended to those held, posted as far as entries are free, then one message
(R123, R125). -/
def State.postReplies (s : State) (fn : Nat) (rs : List Reply) : State :=
  let q := (s.fn fn).reply
  let held := q.held ++ rs
  let s1 := (s.modFn fn (fun f => { f with reply := { q with held := held } })).postHeld held.length fn
  let s2 := s1.noteFull fn
  if ((s2.fn fn).reply).held.length < held.length then s2.signal fn 0 else s2

/-- Checking is stopped for the rings that reply to this function's queue while it is full or replies are held (R125), by a
disabled queue too (DESIGN CHOICE, assumption 100). -/
def Function.stopped (f : Function) : Bool := f.reply.full || f.reply.held != []

end Sys2Proof.Machine
end

