-- ==== Sys2Proof/Machine/Records.lean ====
section
/-! DEFINITION. The ledger writer: records, entries, reservations, folios, the chain, GAP records, the last-gasp file,
audit hold (chapters 18 and 19). -/

namespace Sys2Proof.Machine

/-! Records (Tables 18.2 to 18.6). The ledger sequence, bytes 4 to 11, is put in when a record is staged. -/

/-- The 36 header bytes of a record with sequence 0 (Table 18.2). -/
def recordHeader (type part parts flags time breath partition status tag cseq opcode card : Nat) : List Byte :=
  [byte type, byte part, byte parts, byte flags] ++ zeros 8 ++ leBytes 8 time ++ leBytes 6 breath
    ++ [byte partition, byte status] ++ leBytes 4 tag ++ leBytes 2 cseq ++ [byte opcode, byte card]

/-- A record with its ledger sequence (R618). -/
def withSeq (seq : Nat) (r : List Byte) : List Byte := splice r 4 (leBytes 8 seq)

/-- An event record: header fields zero, opcode 0xFF (R616). -/
def State.eventRecord (s : State) (type part breath : Nat) (body : List Byte) : List Byte :=
  recordHeader type 0 1 0 s.clock.time breath part 0 0 0 0xFF s.cardId ++ fit 92 body

/-- The record type of an opcode and whether it is recorded always (R189, Table 18.1); none: no record. -/
def recordType (opcode : Nat) : Option (Nat × Bool) :=
  if opcode = 0x02 then some (0x04, true) else if opcode = 0x03 then some (0x03, true)
  else if opcode = 0x10 then some (0x10, false) else if opcode = 0x11 then some (0x11, true)
  else if opcode = 0x12 then some (0x12, false) else if opcode = 0x13 then some (0x13, false)
  else if opcode = 0x22 ∨ opcode = 0x23 then some (0x20, false) else if opcode = 0x24 then some (0x21, false)
  else if opcode = 0x25 then some (0x22, true) else if opcode = 0x30 then some (0x30, true)
  else if opcode = 0x31 ∨ opcode = 0x32 then some (0x31, false) else if opcode = 0x33 then some (0x30, false)
  else if opcode = 0x40 ∨ opcode = 0x41 then some (0x40, false) else if opcode = 0x43 then some (0x41, false)
  else if 0x50 ≤ opcode ∧ opcode ≤ 0x53 then some (0x50, false)
  else if opcode = 0x60 then some (0x60, false) else if opcode = 0x61 ∨ opcode = 0x62 then some (0x61, false)
  else if opcode = 0x70 ∨ opcode = 0x71 ∨ opcode = 0x73 then some (0x70, false)
  else if opcode = 0x72 then some (0x71, false)
  else if 0x80 ≤ opcode ∧ opcode ≤ 0x82 then some (0x80, true)
  else if opcode = 0x90 ∨ opcode = 0x91 then some (0x90, true)
  else if opcode = 0xA0 then some (0xA0, true) else if opcode = 0xA1 then some (0xA1, true)
  else if opcode = 0xA3 then some (0xA2, true) else if opcode = 0xA4 then some (0xA3, true)
  else if 0xB0 ≤ opcode ∧ opcode ≤ 0xB3 then some (opcode, true) else if opcode = 0xB4 then some (0xB4, false)
  else if opcode = 0xC0 then some (0xC0, true) else if opcode = 0xC1 then some (0xC1, false)
  else none

/-- The opcodes that audit hold never refuses (R190). -/
def holdExempt (opcode : Nat) : Bool := opcode == 0xA0 || opcode == 0x25 || opcode == 0x03

/-- The records of an entry: the primary record and the continuation records (R610 to R614). -/
def State.entryRecords (s : State) (d : DueReply) (time breath : Nat) : List (List Byte) :=
  let type := d.record.getD 0
  let n := 1 + d.parts.length
  let flags := d.pflags / 2 % 2 + 2 * flag d.admin + 4 * flag d.bulk + 8 * flag (s.consort.member && decide (d.part < 16))
  let head :=
    recordHeader type 0 n flags time breath d.part d.status d.tag d.seq d.opcode s.cardId
      ++ fit 16 d.detail ++ fit 52 d.params ++ fit 24 d.extra
  head :: (d.parts.zip (List.range d.parts.length)).map (fun (x, i) =>
    [byte type, byte (i + 1), byte n, byte flags] ++ zeros 8 ++ fit 116 x)

/-- TOKEN continuation payload (Table 18.4), from record byte 12. -/
def tokenPart (token : List Byte) : List Byte := [1, 0, 0, 0] ++ fit 112 token
/-- BINDING continuation payload. -/
def bindingPart (digest : List Byte) (regs : List Nat) (blocks : Nat) : List Byte :=
  [2, 0, 0, 0] ++ fit 32 digest ++ fit 64 (regs.flatMap (leBytes 4)) ++ [byte blocks]
/-- SHAPEWORDS continuation payload. -/
def shapeWordsPart (addr : Nat) (words : List Byte) : List Byte := [3, 0, 0, 0] ++ leBytes 8 addr ++ fit 64 words
/-- One DIGESTS entry: role, ordinal, SHA-256. -/
def digestEntry (d : Nat × Nat × List Byte) : List Byte := [byte d.1, byte d.2.1, 0, 0] ++ fit 32 d.2.2
/-- DIGESTS continuation payloads, three entries each; `n` bounds the walk. -/
def digestParts : Nat → List (Nat × Nat × List Byte) → List (List Byte)
  | 0, _ => []
  | _, [] => []
  | n + 1, ds => ([4, 0, 0, 0] ++ (ds.take 3).flatMap digestEntry) :: digestParts n (ds.drop 3)

/-! Frames, reservations and pressure (R654 to R657). -/

def frameRecords : Nat := 492
def ordinaryFrames : Nat := 495
def reservedFrames : Nat := 16
def folioRecords : Nat := 504
def flashSlots : Nat := 1047552

/-- Ordinary frames that hold a closed folio. -/
def Ledger.closedOrdinary (l : Ledger) : Nat := (l.mram.filter (·.ordinary)).length
def Ledger.closedReserved (l : Ledger) : Nat := (l.mram.filter (!·.ordinary)).length
/-- Records the open folio holds in the ordinary area. -/
def Ledger.openCount (l : Ledger) : Nat := if l.openOrdinary then l.open_.length else 0
/-- Ordinary frames occupied or reserved (R655, R657). -/
def Ledger.framesUsed (l : Ledger) : Nat := l.closedOrdinary + ceilDiv (l.openCount + l.reserved) frameRecords
/-- An entry of `n` records fits the ordinary area (R655). -/
def Ledger.fits (l : Ledger) (n : Nat) : Bool :=
  decide (l.openCount + l.reserved + n ≤ (ordinaryFrames - l.closedOrdinary) * frameRecords)

def State.modLedger (s : State) (g : Ledger → Ledger) : State := { s with ledger := g s.ledger }

/-- The ALARM LED: steady after an MRAM or last-gasp failure, blinking in audit hold (R661, R665, Table 21.3). -/
def State.lightAlarm (s : State) : State :=
  { s with board := { s.board with
      alarm := if s.ledger.mramFailed || s.ledger.gaspFailed then 2 else if s.ledger.hold ≠ 0 then 1 else 0 } }

/-- Audit hold begins, changes its reason or ends (R661). -/
def State.setHold (s : State) (reason : Nat) : State :=
  let old := s.ledger.hold
  let s := (s.modLedger (fun l => { l with hold := reason })).lightAlarm
  if old = 0 ∧ reason ≠ 0 then s.raiseD 0x0702 3 0xFF 0 (leBytes 2 reason)
  else if old ≠ 0 ∧ reason = 0 then s.raiseD 0x0703 0 else s

/-- AUDIT_PRESSURE at 372 frames, armed again below 248 (R657). -/
def State.notePressure (s : State) : State :=
  let used := s.ledger.framesUsed
  if s.ledger.mramFailed then s
  else if 372 ≤ used ∧ !s.ledger.pressure then
    (s.modLedger (fun l => { l with pressure := true })).raiseD 0x0701 1 0xFF 0 (leBytes 2 used)
  else if used < 248 then s.modLedger (fun l => { l with pressure := false }) else s

/-- The policy that train `t` follows: a new one from its own admission point on (R267). -/
def State.policyOf (s : State) (t : Nat) : Bool :=
  match s.ledger.policyWas.find? (·.1 == t) with
  | some p => p.2
  | none => s.ledger.policyNext.getD s.ledger.failOpen

/-- Step 12 for `n` records under a policy: the records reserved (0 under FAIL_OPEN without room), or the AUDIT_HOLD reason
(R655, R658, R659). -/
def State.reserve (s : State) (n : Nat) (failOpen : Bool) : Except Nat Nat × State :=
  if s.ledger.mramFailed then (.error 0x1302, s.setHold 0x1302)
  else if s.ledger.fits n then
    let s := s.modLedger (fun l => { l with reserved := l.reserved + n })
    let s := if s.ledger.hold = 0x1301 then s.setHold 0 else s
    (.ok n, s.notePressure)
  else if failOpen then (.ok 0, s)
  else (.error 0x1301, s.setHold 0x1301)

/-- Records given back before staging (R655). -/
def State.unreserve (s : State) (n : Nat) : State :=
  (s.modLedger (fun l => { l with reserved := l.reserved - n })).notePressure

/-! Folios (R621 to R625). -/

/-- The SHA-256 of the installed owner key, zero if none. -/
def State.ownerDigest (s : State) : List Byte := if s.dev.ownerKey = [] then zeros 32 else sha256 s.dev.ownerKey
def State.bank (s : State) (i : Nat) : Bank := s.dev.banks.getD i {}
/-- The firmware digest of an image (R685); zero for an empty bank. -/
def Bank.digest (b : Bank) : List Byte := if b.image = [] then zeros 32 else sha256 (b.image.take 256)
/-- The digest of the active image. -/
def State.firmwareDigest (s : State) : List Byte := (s.bank s.dev.activeBank).digest

/-- The identity block (Table 18.8). -/
def State.identityBlock (s : State) : List Byte :=
  fit 512 ([0x4D, 0x4C, 0x49, 0x44] ++ fit 97 Config.deviceKey ++ zeros 3 ++ fit 16 Config.serial ++ s.firmwareDigest
    ++ s.ownerDigest ++ leBytes 8 s.dev.bootCount ++ [byte (flag s.ledger.failOpen)])

/-- Header bytes 0 to 47 (Table 18.7). -/
def Folio.fixed (f : Folio) : List Byte :=
  [0x4D, 0x4C, 0x46, 0x31] ++ leBytes 2 1 ++ leBytes 2 f.records.length ++ leBytes 8 f.number ++ leBytes 8 f.firstSeq
    ++ leBytes 8 (f.firstSeq + f.records.length - 1) ++ leBytes 8 f.closeTime ++ leBytes 6 f.closeBreath
    ++ [byte f.closeFlags, 0]

def Folio.lastSeq (f : Folio) : Nat := f.firstSeq + f.records.length - 1

/-- Blocks 1 to 127 (R621). -/
def Folio.blocks (f : Folio) : List Byte := fit 64512 f.records.flatten ++ f.identity

/-- Header block 0 in a placement: 0 holding flash, 1 bay A, 2 bay B (Table 18.7, R625). -/
def Folio.header (f : Folio) (placement : Nat) (cart : List Byte) (slot : Nat) (skips : List Nat) : List Byte :=
  let h := f.fixed ++ [byte placement, 0, 0, 0] ++ fit 16 cart ++ leBytes 4 slot ++ [byte skips.length, 0, 0, 0]
    ++ fit 32 (skips.flatMap (leBytes 4)) ++ f.body ++ f.previous ++ f.chain ++ zeros 212
  h ++ fit 96 (Config.sign h)

/-- The chain value (R624). -/
def chainValue (previous body fixed : List Byte) : List Byte := sha256 (previous ++ body ++ fixed)

/-- The open folio closed with the given close values (R622, R703). -/
def State.closeWith (s : State) (flags : Nat) (bay : Option Nat) (time breath : Nat) (identity : List Byte) : State :=
  let l := s.ledger
  if l.open_ = [] then s
  else
    let f : Folio :=
      { number := l.nextFolio, firstSeq := l.nextSeq - l.open_.length, records := l.open_, closeTime := time
        closeBreath := breath, closeFlags := flags + (if l.open_.length < folioRecords ∧ flags % 2 = 0 then 1 else 0)
        identity := identity, body := [], previous := l.lastChain, chain := [], ordinary := l.openOrdinary, bay := bay }
    let f := { f with body := sha256 f.blocks }
    let f := { f with chain := chainValue f.previous f.body f.fixed }
    s.modLedger (fun l => { l with
      mram := l.mram ++ [f], open_ := [], openOrdinary := false, nextFolio := l.nextFolio + 1, lastChain := f.chain })

/-- The open folio closed now (R622); close flag bit 0 when it is not full. -/
def State.closeFolio (s : State) (flags : Nat := 0) (bay : Option Nat := none) : State :=
  s.closeWith flags bay s.clock.time s.adminBreath s.identityBlock

/-- Records appended to the open folio with consecutive sequences. -/
def State.appendOpen (s : State) (ordinary : Bool) (rs : List (List Byte)) : State :=
  let l := s.ledger
  let recs := (rs.zip (List.range rs.length)).map (fun (r, i) => withSeq (l.nextSeq + i) r)
  let s := s.modLedger (fun l => { l with
    open_ := l.open_ ++ recs
    openTime := if l.open_ = [] then s.clock.time else l.openTime
    openOrdinary := l.openOrdinary || (ordinary && (decide (l.open_ = []) || decide (l.closedOrdinary < ordinaryFrames)))
    nextSeq := l.nextSeq + rs.length
    lastTime := s.clock.time, lastBreath := s.adminBreath, lastIdentity := s.identityBlock })
  s
/-- The same; a full folio closes at once (R622). -/
def State.append (s : State) (ordinary : Bool) (rs : List (List Byte)) : State :=
  let s := s.appendOpen ordinary rs
  if folioRecords ≤ s.ledger.open_.length then s.closeFolio else s

/-- A frame of the area is free for a new folio (R654). -/
def Ledger.frameFree (l : Ledger) (ordinary : Bool) : Bool :=
  if ordinary then decide (l.closedOrdinary < ordinaryFrames) else decide (l.closedReserved < reservedFrames)

/-- Records staged into the open folio, or into a new one when they do not fit there; none when no frame of the area
is free (R620, R622). -/
def State.place (s : State) (ordinary : Bool) (rs : List (List Byte)) : Option State :=
  if s.ledger.open_ ≠ [] ∧ s.ledger.open_.length + rs.length ≤ folioRecords then some (s.append ordinary rs)
  else
    let s := s.closeFolio
    if s.ledger.frameFree ordinary then some (s.append ordinary rs) else none

/-- A count in a list of sixteen, saturating at `top`. -/
def countPart (xs : List Nat) (p n top : Nat) : List Nat := if p < 16 then modAt xs p (fun x => min (x + n) top) else xs

/-- One lost entry of `n` records counted for the GAP record (R628, R629). -/
def State.loseEntry (s : State) (n partition breath : Nat) : State :=
  s.modLedger (fun l =>
    let g := l.gap
    let first := g.entries = 0
    { l with gap := { g with
        entries := g.entries + 1, records := g.records + n
        firstBreath := if first then breath else g.firstBreath, lastBreath := breath
        firstTime := if first then s.clock.time else g.firstTime, lastTime := s.clock.time
        parts := countPart g.parts partition 1 0xFFFF } })

/-- The body of a GAP record (R629). -/
def Gap.bytes (g : Gap) : List Byte :=
  leBytes 8 g.entries ++ leBytes 8 g.records ++ leBytes 6 g.firstBreath ++ leBytes 6 g.lastBreath ++ leBytes 8 g.firstTime
    ++ leBytes 8 g.lastTime ++ g.parts.flatMap (leBytes 2)

/-- The GAP record, as soon as any frame can take it (R628, R659). -/
def State.tryGap (s : State) : State :=
  let g := s.ledger.gap
  if g.entries = 0 ∨ s.ledger.mramFailed then s
  else
    let r := s.eventRecord 0xA4 0xFF s.adminBreath g.bytes
    match (s.place false [r]).orElse (fun _ => s.place true [r]) with
    | some s' => s'.modLedger (fun l => { l with gap := {} })
    | none => s

/-- Records written to the last-gasp file, whole or not at all (R665 to R667). -/
def State.toGasp (s : State) (rs : List (List Byte)) (partition breath : Nat) : Bool × State :=
  let l := s.ledger
  if l.gasp.entries.length + rs.length ≤ 64 then
    let recs := (rs.zip (List.range rs.length)).map (fun (r, i) => withSeq (l.nextSeq + i) r)
    (true, s.modLedger (fun l => { l with
      nextSeq := l.nextSeq + rs.length, gasp := { l.gasp with entries := l.gasp.entries ++ recs } }))
  else
    let first := l.gasp.lostEntries = 0
    (false, s.modLedger (fun l => { l with gasp := { l.gasp with
      lost := satAdd 32 l.gasp.lost rs.length
      lostEntries := l.gasp.lostEntries + 1
      lostParts := countPart l.gasp.lostParts partition 1 0xFFFF
      firstBreath := if first then breath else l.gasp.firstBreath, lastBreath := breath
      firstTime := if first then s.clock.time else l.gasp.firstTime, lastTime := s.clock.time } }))

/-- An entry staged whole: `reserved` are the ordinary records it holds in reserve (R620, R628, R655, R659). The first
component says whether its records are in MRAM or the last-gasp file (R715). -/
def State.stage (s : State) (ordinary : Bool) (reserved : Nat) (rs : List (List Byte)) (partition breath : Nat) :
    Bool × State :=
  let s := s.modLedger (fun l => { l with reserved := l.reserved - reserved })
  if s.ledger.mramFailed then s.toGasp rs partition breath
  else
    let s := s.tryGap
    let r := if ordinary && decide (reserved = 0) then none
      else if !ordinary && decide (s.ledger.gap.entries ≠ 0) then none
      else (s.place ordinary rs).orElse (fun _ => if ordinary then s.place false rs else none)
    match r with
    | some s' => (true, s'.notePressure)
    | none => (false, s.loseEntry rs.length partition breath)

/-- The device state codes of Table 21.1. -/
def stateCode : DevState → Nat
  | .booting => 1 | .recovering => 2 | .training => 3 | .testing => 4 | .initialising => 5 | .mounting => 6 | .ready => 7
  | .restarting => 8 | .shuttingDown => 9 | .halted => 10 | .failed => 11

/-- Start-up has not reached READY (R137, R693). -/
def State.beforeReady (s : State) : Bool :=
  [DevState.booting, .recovering, .training, .testing, .initialising, .mounting, .failed].contains s.dev.state

/-- One record staged in the reserved area; before the start-up records are staged it waits behind them (R704,
assumption 34). -/
def State.stageOne (s : State) (r : List Byte) (part breath : Nat) : State :=
  if s.beforeReady then s.modLedger (fun l => { l with owed := l.owed ++ [(part, breath, r)] })
  else (s.stage false 0 [r] part breath).2

/-- An event record staged in the reserved area (R616, R617): the train it concerns gives the Breath. -/
def State.stageEvent (s : State) (type train part : Nat) (body : List Byte) : State :=
  let b := s.breathOf train
  s.stageOne (s.eventRecord type part b body) part b

/-- AUDIT_HOLD detail, reply bytes 14 to 29 (Table 19.6). -/
def bayCode : BayState → Nat
  | .empty => 0 | .mounting => 1 | .standby => 2 | .active => 3 | .full => 4 | .retired => 5 | .faulted => 6
  | .foreign => 7 | .released => 8

/-- Holding flash: 0 available, 1 full, 2 failed (Table 19.6). -/
def Ledger.flashCode (l : Ledger) : Nat :=
  if l.flashFailed then 2 else if flashSlots ≤ l.flash.length then 1 else 0

def State.auditHoldDetail (s : State) (reason : Nat) : List Byte :=
  leBytes 2 reason ++ [0xFF, 0, byte (bayCode (s.bay 0).state), byte (bayCode (s.bay 1).state), byte s.ledger.flashCode, 0]
    ++ leBytes 2 (ordinaryFrames - s.ledger.framesUsed) ++ zeros 6

/-- A bay is ACTIVE. -/
def State.activeBay (s : State) : Option Nat := [0, 1].find? (fun b => (s.bay b).state == .active)

/-- A tier can take a closed folio at once (R622). -/
def State.canTake (s : State) : Bool := s.activeBay.isSome || s.ledger.flashCode == 0

/-- LOG_MEDIUM_FAULT record and event (R662). -/
def State.mediumFault (s : State) (tier code : Nat) : State :=
  (s.stageEvent 0xA5 adminTrain 0xFF (byte tier :: leBytes 2 code)).raiseD 0x0704 (if tier = 1 then 3 else 2) tier 0
    (leBytes 2 code)

/-- BAY record and BAY_EVENT event (R668) naming a cartridge. -/
def State.bayEventOf (s : State) (bay code : Nat) (id : List Byte) : State :=
  let b := s.bay bay
  (s.stageEvent 0xA3 adminTrain 0xFF ([byte bay, byte code] ++ fit 16 id)).raiseD 0x0705 0 bay 0
    [byte code, byte (bayCode b.state)]
/-- A happening of the cartridge in the bay. -/
def State.bayEvent (s : State) (bay code : Nat) : State := s.bayEventOf bay code (((s.bay bay).cart.map (·.id)).getD [])

/-- The QUEUE_FREEZE record of a freeze that has just taken effect (R148, Table 18.6). A freeze that a head write of a VF
causes has no ring; its ring byte reads 0 (DESIGN CHOICE, assumption 101). -/
def State.freezeRecord (s : State) (fn : Nat) (bulk : Bool) : State :=
  let f := s.fn fn
  s.stageEvent 0xC4 (s.fnTrain fn) (fnPart fn)
    ([byte (if fn = 0 then 2 else flag bulk), byte fn] ++ leBytes 6 f.freezeBreath ++ leBytes 4 f.violations)

/-- A host violation with the record of the freeze it may cause (R145 to R148). -/
def State.violation (s : State) (fn : Nat) (bulk : Bool) (v : Violation) : State :=
  let (s', fr) := s.violate fn v
  if fr then s'.freezeRecord fn bulk else s'

/-- A free value of the state's own stream. -/
def State.fresh (s : State) : Nat × State :=
  (Config.freeValue s.dev.freeIndex, s.modDev (fun d => { d with freeIndex := d.freeIndex + 1 }))

end Sys2Proof.Machine
end

