-- ==== Sys2Proof/Machine/Operands.lean ====
section
/-! DEFINITION. Operand forms: the opcode table, packets read from their 64 bytes, the parameter fields of each opcode and
which of their values are valid (chapter 6). -/

namespace Sys2Proof.Machine

/-- Who may send an opcode (R181). -/
inductive Sender where
  | any | pfPartition | pfDevice
  deriving DecidableEq, Repr

/-- A row of Table 6.1. -/
structure OpInfo where
  /-- 0 either lane, 1 Urgent, 2 Bulk. -/
  lane : Nat
  sender : Sender
  privileged : Bool := false
  len : Nat
  behaviour : Behaviour
  /-- It takes a program reference (R129). -/
  program : Bool := false
  deriving DecidableEq, Repr

/-- Table 6.1 with the behaviours of the entries; none: the opcode is not defined (R180). Transfers are Compute on the
Urgent lane and Sliced on the Bulk lane. -/
def opInfo (op : Nat) : Option OpInfo :=
  if op = 0x00 then some ⟨0, .any, false, 0, .zero, false⟩ else if op = 0x01 then some ⟨0, .any, false, 0, .zero, false⟩
  else if op = 0x02 then some ⟨2, .pfDevice, false, 14, .waits, false⟩
  else if op = 0x03 then some ⟨2, .pfDevice, false, 4, .waits, false⟩
  else if op = 0x10 then some ⟨0, .any, false, 4, .zero, false⟩
  else if op = 0x11 then some ⟨2, .pfDevice, true, 8, .waits, false⟩
  else if op = 0x12 then some ⟨0, .pfPartition, false, 1, .zero, false⟩
  else if op = 0x13 then some ⟨0, .any, false, 1, .zero, false⟩
  else if op = 0x20 then some ⟨0, .any, false, 24, .zero, false⟩
  else if op = 0x21 then some ⟨0, .any, false, 4, .waits, false⟩
  else if op = 0x22 then some ⟨0, .any, false, 16, .compute, false⟩
  else if op = 0x23 then some ⟨0, .any, false, 20, .compute, false⟩
  else if op = 0x24 then some ⟨2, .any, false, 20, .sliced, false⟩
  else if op = 0x25 then some ⟨0, .any, false, 8, .waits, false⟩
  else if op = 0x30 then some ⟨2, .any, false, 52, .sliced, false⟩
  else if op = 0x31 then some ⟨2, .any, false, 8, .sliced, false⟩
  else if op = 0x32 then some ⟨0, .any, false, 4, .zero, false⟩
  else if op = 0x33 then some ⟨0, .any, false, 4, .zero, false⟩
  else if op = 0x40 then some ⟨2, .any, false, 12, .zero, false⟩
  else if op = 0x41 then some ⟨0, .any, false, 4, .zero, false⟩
  else if op = 0x42 then some ⟨0, .any, false, 52, .zero, false⟩
  else if op = 0x43 then some ⟨0, .any, false, 48, .compute, true⟩
  else if op = 0x50 then some ⟨2, .any, false, 16, .sliced, false⟩
  else if op = 0x51 then some ⟨0, .any, false, 16, .zero, false⟩
  else if op = 0x52 then some ⟨2, .any, false, 24, .sliced, true⟩
  else if op = 0x53 then some ⟨0, .any, false, 4, .zero, false⟩
  else if op = 0x60 then some ⟨1, .any, false, 40, .compute, true⟩
  else if op = 0x61 then some ⟨2, .any, false, 40, .sliced, true⟩
  else if op = 0x62 then some ⟨0, .any, false, 4, .zero, false⟩
  else if op = 0x70 then some ⟨0, .any, false, 16, .zero, false⟩
  else if op = 0x71 then some ⟨0, .any, false, 20, .compute, false⟩
  else if op = 0x72 then some ⟨0, .any, false, 28, .zero, false⟩
  else if op = 0x73 then some ⟨0, .any, false, 4, .zero, false⟩
  else if op = 0x80 then some ⟨2, .any, false, 16, .waits, false⟩
  else if op = 0x81 then some ⟨2, .pfDevice, false, 12, .waits, false⟩
  else if op = 0x82 then some ⟨2, .any, false, 4, .waits, false⟩
  else if op = 0x90 then some ⟨2, .pfDevice, false, 40, .waits, false⟩
  else if op = 0x91 then some ⟨2, .pfDevice, false, 8, .waits, false⟩
  else if op = 0xA0 then some ⟨0, .pfDevice, true, 1, .zero, false⟩
  else if op = 0xA1 then some ⟨2, .pfDevice, true, 1, .waits, false⟩
  else if op = 0xA2 then some ⟨2, .pfDevice, false, 0, .waits, false⟩
  else if op = 0xA3 then some ⟨0, .any, false, 32, .zero, false⟩
  else if op = 0xA4 then some ⟨2, .pfDevice, false, 1, .waits, false⟩
  else if op = 0xB0 then some ⟨2, .pfDevice, true, 12, .waits, false⟩
  else if op = 0xB1 then some ⟨0, .pfDevice, true, 8, .waits, false⟩
  else if op = 0xB2 then some ⟨0, .pfDevice, true, 0, .zero, false⟩
  else if op = 0xB3 then some ⟨0, .pfDevice, true, 2, .zero, false⟩
  else if op = 0xB4 then some ⟨0, .any, false, 40, .waits, false⟩
  else if op = 0xC0 then some ⟨2, .any, false, 4, .sliced, false⟩
  else if op = 0xC1 then some ⟨0, .any, false, 12, .zero, false⟩
  else none

/-- A command packet as read from its slot (Table 4.2). -/
structure Packet where
  fn : Nat
  bulk : Bool
  raw : List Byte
  opcode : Nat
  flags : Nat
  seq : Nat
  tag : Nat
  part : Nat
  plen : Nat
  /-- Parameter bytes 0 to 51. -/
  params : List Byte
  crc : Nat
  deriving DecidableEq, Repr

def Packet.ofBytes (fn : Nat) (bulk : Bool) (raw : List Byte) : Packet :=
  { fn := fn, bulk := bulk, raw := raw, opcode := field raw 0 1, flags := field raw 1 1, seq := field raw 2 2
    tag := field raw 4 4, part := field raw 8 1, plen := field raw 9 1, params := slice raw 10 52, crc := field raw 62 2 }

/-- The CRC matches (R135). -/
def Packet.crcGood (p : Packet) : Bool := crc16 (p.raw.take 62) == p.crc

/-- The 64 bytes of a packet that a sender builds for a command (Table 4.2). -/
def packetBytes (h : PacketHeader) (c : Command) : List Byte :=
  let b := [byte c.opcode, byte h.flags] ++ leBytes 2 h.seq ++ leBytes 4 h.tag ++ [byte h.part, byte h.plen] ++ fit 52 c.params
  b ++ leBytes 2 (h.crc.getD (crc16 b))

/-- The command that an opcode's parameter bytes spell. -/
def Command.ofParams (op : Nat) (r : List Byte) : Option Command :=
  let n (o k : Nat) : Nat := field r o k
  let ref (o : Nat) : SlotRef := SlotRef.ofBytes (slice r o 8)
  if op = 0x00 then some .nop else if op = 0x01 then some .devQuery
  else if op = 0x02 then some (.timeSet (n 0 8) (n 8 6)) else if op = 0x03 then some (.shutdown (n 0 4))
  else if op = 0x10 then some (.breathSet (n 0 2) (n 2 1))
  else if op = 0x11 then some (.partGroup (n 0 1) (n 1 1) (n 2 1) (n 3 1) (n 4 2) (n 6 2))
  else if op = 0x12 then some (.partQos (n 0 1)) else if op = 0x13 then some (.partPower (n 0 1))
  else if op = 0x20 then some (.bellowsRegister (n 0 1) (n 1 1) (n 2 2) (n 4 1) (n 8 8) (n 16 8))
  else if op = 0x21 then some (.bellowsDeregister (n 0 2) (n 2 1))
  else if op = 0x22 then some (.bellowsRead (ref 0) (n 8 8))
  else if op = 0x23 then some (.bellowsWrite (ref 0) (n 8 8) (n 16 4))
  else if op = 0x24 then some (.memFill (n 0 8) (n 8 8) (n 16 4)) else if op = 0x25 then some (.retirePage (n 0 8))
  else if op = 0x30 then some (.modelLoad (slice r 0 32) (n 32 8) (n 40 8) (n 48 1))
  else if op = 0x31 then some (.stopPin (n 0 4) (n 4 2) (n 6 2))
  else if op = 0x32 then some (.stopRelease (n 0 4)) else if op = 0x33 then some (.modelRelease (n 0 4))
  else if op = 0x40 then some (.progRegister (n 0 8) (n 8 2)) else if op = 0x41 then some (.progRelease (n 0 4))
  else if op = 0x42 then some (.shapeSet (n 0 1) (n 1 1) ((List.range 12).map (fun i => n (4 + 4 * i) 4)))
  else if op = 0x43 then some (.progRun (n 0 8) (n 8 8) [ref 16, ref 24, ref 32, ref 40])
  else if op = 0x50 then some (.histPool (n 0 8) (n 8 4) (n 12 1))
  else if op = 0x51 then some (.histOpen (n 0 4) (n 4 1) (n 6 2) (n 8 8))
  else if op = 0x52 then some (.histPrefill (n 0 8) (n 8 4) (ref 16)) else if op = 0x53 then some (.histClose (n 0 4))
  else if op = 0x60 then some (.score (n 0 8) (n 8 4) (n 12 8) (n 20 1) (ref 24) (ref 32))
  else if op = 0x61 then some (.jobSubmit (n 0 8) (n 8 8) (n 16 2) (ref 24) (ref 32))
  else if op = 0x62 then some (.jobCancel (n 0 4))
  else if op = 0x70 then some (.vidOpen (n 0 1) (n 2 2) (n 4 2) (n 6 2) (n 8 8))
  else if op = 0x71 then some (.vidDecode (n 0 4) (ref 4) (ref 12))
  else if op = 0x72 then
    some (.setConditioning (n 0 4) (n 4 2) (n 6 2) (n 8 2) (n 10 2) (n 12 2) (n 14 2) (n 16 2) (n 18 8))
  else if op = 0x73 then some (.vidClose (n 0 4))
  else if op = 0x80 then some (.snapshotShadow (n 0 6) (n 6 2) (n 8 2) (n 10 2))
  else if op = 0x81 then some (.snapshotStop (n 0 6) (n 6 2) (n 8 2)) else if op = 0x82 then some (.restore (n 0 2) (n 2 2))
  else if op = 0x90 then some (.consortForm (n 0 1) (n 1 1) (n 2 1) (n 3 1) (slice r 4 32) (n 36 2))
  else if op = 0x91 then some (.consortLeave (n 0 6)) else if op = 0xA0 then some (.auditPolicy (n 0 1))
  else if op = 0xA1 then some (.cartRetire (n 0 1)) else if op = 0xA2 then some .ledgerFlush
  else if op = 0xA3 then some (.ledgerNote (slice r 0 32)) else if op = 0xA4 then some (.bayEject (n 0 1))
  else if op = 0xB0 then some (.fwUpdate (ref 0) (n 8 1) (n 9 1)) else if op = 0xB1 then some (.ownerKeyInstall (ref 0))
  else if op = 0xB2 then some .sealClear else if op = 0xB3 then some (.presenceSet (n 0 2))
  else if op = 0xB4 then some (.attest (slice r 0 32) (ref 32)) else if op = 0xC0 then some (.diagRun (n 0 1))
  else if op = 0xC1 then some (.droneCfg (ref 0) (n 8 1))
  else none

/-- The reserved parameter bytes of an opcode, within its length: offset and size. -/
def reservedBytes (op flags : Nat) : List (Nat × Nat) :=
  let prog : List (Nat × Nat) := if bit flags 3 then [] else [(4, 4)]
  if op = 0x10 then [(3, 1)] else if op = 0x20 then [(5, 3)] else if op = 0x21 then [(3, 1)]
  else if op = 0x30 then [(49, 3)] else if op = 0x40 then [(10, 2)] else if op = 0x42 then [(2, 2)]
  else if op = 0x43 then prog else if op = 0x50 then [(13, 3)] else if op = 0x51 then [(5, 1)]
  else if op = 0x52 then prog ++ [(12, 4)] else if op = 0x60 then prog ++ [(21, 3)]
  else if op = 0x61 then prog ++ [(18, 6)] else if op = 0x70 then [(1, 1)] else if op = 0x72 then [(26, 2)]
  else if op = 0x80 then [(12, 4)] else if op = 0x81 then [(10, 2)] else if op = 0x90 then [(38, 2)]
  else if op = 0x91 then [(6, 2)] else if op = 0xB0 then [(10, 2)] else if op = 0xC0 then [(1, 3)]
  else if op = 0xC1 then [(9, 3)] else []

/-- The slot reference fields of an opcode: parameter offset, direction (2: either), required (R184). SCORE requires
both of its references; those of JOB_SUBMIT and PROG_RUN may be zero (DEDUCED: assumption 26). -/
def slotFields (op : Nat) : List (Nat × Nat × Bool) :=
  if op = 0x22 then [(0, 0, true)] else if op = 0x23 then [(0, 1, true)]
  else if op = 0x43 then [(16, 2, false), (24, 2, false), (32, 2, false), (40, 2, false)]
  else if op = 0x52 then [(16, 0, true)] else if op = 0x60 then [(24, 0, true), (32, 1, true)]
  else if op = 0x61 then [(24, 0, false), (32, 1, false)] else if op = 0x71 then [(4, 0, true), (12, 1, true)]
  else if op = 0xB0 then [(0, 0, true)] else if op = 0xB1 then [(0, 0, true)] else if op = 0xB4 then [(32, 1, true)]
  else if op = 0xC1 then [(0, 0, true)] else []

/-- The first non-zero byte of a range. -/
def firstNonZero (r : List Byte) (o : Nat) : Nat → Option Nat
  | 0 => none
  | k + 1 => if field r o 1 ≠ 0 then some o else firstNonZero r (o + 1) k

/-- The first offending byte of a slot reference field. -/
def badRef (r : List Byte) (f : Nat × Nat × Bool) : Option Nat :=
  let (o, dir, req) := f
  let b := slice r o 8
  if b.all (· == 0) then (if req then some o else none)
  else if (dir = 2 ∧ 1 < field b 5 1) ∨ (dir < 2 ∧ field b 5 1 ≠ dir) then some (o + 5)
  else (firstNonZero b 6 2).map (· + o)

/-- The parameter offset of the first field whose value is out of range whatever the state. -/
def badValue (c : Command) : Option Nat :=
  let pick (xs : List (Bool × Nat)) : Option Nat := (xs.find? (·.1)).map (·.2)
  match c with
  | .shutdown l => pick [(decide (600000 < l), 0)]
  | .breathSet n f => pick [(decide (n ≠ 0 ∧ (n < 5 ∨ 50000 < n)), 0), (decide (10 < f), 2)]
  | .partGroup b bs ns st n l =>
      let sizes := [1, 2, 4, 8, 16]
      pick [(decide (15 < b) || (sizes.contains bs && decide (b % bs ≠ 0)), 0), (!sizes.contains bs, 1)
           , (!sizes.contains ns || decide (bs < ns), 2), (decide (2 < st), 3), (decide (n < 5 ∨ 50000 < n), 4), (decide (60000 < l), 6)]
  | .partQos x => pick [(decide (x < 1 ∨ 64 < x), 0)]
  | .partPower x => pick [(decide (2 < x), 0)]
  | .bellowsRegister k _ _ o .. => pick [(decide (1 < k), 0), (decide (3 < o), 4)]
  | .bellowsDeregister _ m => pick [(decide (1 < m), 2)]
  | .memFill _ l _ => pick [(decide (l = 0 ∨ l % 64 ≠ 0), 8)]
  | .bellowsWrite _ _ l => pick [(decide (l = 0), 16)]
  | .modelLoad _ _ l f =>
      pick [(decide (l = 0), 40), (! [0x01, 0x02, 0x03, 0x10, 0x11, 0x12, 0x13, 0x14, 0x20, 0x21, 0x22, 0x23].contains f, 48)]
  | .stopPin _ _ n => pick [(decide (n = 0), 6)]
  | .progRegister _ n => pick [(decide (n = 0 ∨ 4096 < n), 8)]
  | .shapeSet f n vs =>
      let rest := firstNonZero (vs.flatMap (leBytes 4)) (4 * n) (48 - 4 * n)
      pick [(decide (15 < f), 0), (decide (n < 1 ∨ 12 < n ∨ 16 < f + n), 1), (rest.isSome, 4 + rest.getD 0)]
  | .histPool _ p z => pick [(decide (p = 0 ∨ 4194304 < p), 8), (decide (2 < z), 12)]
  | .histOpen _ y r _ => pick [(decide (2 < y), 4), (decide (y ≠ 2 ∧ r ≠ 0xFFFF), 6)]
  | .score _ _ _ st _ _ => pick [(decide (st < 1 ∨ 64 < st), 20)]
  | .jobSubmit _ _ st _ _ => pick [(decide (st < 1), 16)]
  | .vidOpen c w h n _ =>
      pick [(decide (1 < c), 0), (decide (w % 2 ≠ 0 ∨ w < 16 ∨ 4096 < w), 2)
           , (decide (h % 2 ≠ 0 ∨ h < 16 ∨ 4096 < h ∨ 9437184 < w * h), 4), (decide (n < 2 ∨ 17 < n), 6)]
  | .setConditioning _ _ gain off x y w h gamma =>
      let whole := w = 0 ∧ h = 0
      pick [(decide (bits gain 10 5 = 31), 6), (decide (bits off 10 5 = 31), 8), (decide (x % 2 ≠ 0 ∨ (whole ∧ x ≠ 0)), 10)
           , (decide (y % 2 ≠ 0 ∨ (whole ∧ y ≠ 0)), 12), (decide (w % 2 ≠ 0 ∨ (¬ whole ∧ w < 16)), 14)
           , (decide (h % 2 ≠ 0 ∨ (¬ whole ∧ h < 16)), 16), (decide (gamma ≠ 2 ^ 64 - 1 ∧ gamma % 64 ≠ 0), 18)]
  | .snapshotShadow _ _ _ d => pick [(decide (1000 < d), 10)]
  | .consortForm c m t p _ o =>
      pick [(decide (15 < c), 0), (decide (m < 2 ∨ 16 < m), 1), (decide (1 < t ∨ (t = 1 ∧ m ≠ 16)), 2)
           , (decide (63 < p) || decide (((List.range 6).filter (bit p)).length ≠ (if t = 0 then 2 else 4)), 3), (decide (o < 1 ∨ 60000 < o), 36)]
  | .auditPolicy p => pick [(decide (1 < p), 0)]
  | .cartRetire b => pick [(decide (1 < b), 0)]
  | .bayEject b => pick [(decide (1 < b), 0)]
  | .fwUpdate _ t a => pick [(decide (1 < t), 8), (decide (1 < a), 9)]
  | .presenceSet l => pick [(decide (l < 30 ∨ 600 < l), 0)]
  | .diagRun x => pick [(decide (1 < x), 0)]
  | .droneCfg _ m => pick [(decide (1 < m), 8)]
  | _ => none

/-- The smaller of two optional offsets. -/
def leastOf (a b : Option Nat) : Option Nat :=
  match a, b with
  | some x, some y => some (min x y)
  | some x, none => some x
  | none, y => y

/-- The packet offset of the first byte that fails step 10: flags, the bytes beyond the parameter length, reserved
bytes, reference fields and field ranges (Table 4.7). -/
def Packet.badByte (p : Packet) (i : OpInfo) (c : Command) : Option Nat :=
  if 16 ≤ p.flags ∨ bit p.flags 0 ≠ i.privileged ∨ (bit p.flags 3 ∧ !i.program) then some 1
  else
    let beyond := firstNonZero p.params i.len (52 - i.len)
    let res := (reservedBytes p.opcode p.flags).foldl (fun a (o, k) => leastOf a (firstNonZero p.params o k)) none
    let refs := (slotFields p.opcode).foldl (fun a f => leastOf a (badRef p.params f)) none
    (leastOf (leastOf beyond res) (leastOf refs (badValue c))).map (· + 10)

/-- The slot reference fields of a command in parameter order (R304). -/
def Packet.refs (p : Packet) : List SlotRef :=
  (slotFields p.opcode).map (fun f => SlotRef.ofBytes (slice p.params f.1 8))

/-- An all-zero reference names no slot (R184). -/
def noSlot (r : SlotRef) : Bool := r == { region := 0, slot := 0, gen := 0, dir := 0 }
/-- The references that name a slot, each with its ordinal. -/
def namedSlots (rs : List SlotRef) : List (Nat × SlotRef) :=
  ((List.range rs.length).zip rs).filter (fun x => !noSlot x.2)

/-- Why a command is not executed: status, reason, offending offset, bytes 18 to 29 of the reply, whether it counts as a
host violation (Tables 4.6 to 4.8). -/
structure Refuse where
  status : Nat
  reason : Nat := 0
  offset : Nat := 0xFF
  tail : List Byte := []
  violation : Bool := false
  deriving DecidableEq, Repr

/-- Reply bytes 14 to 29 of an error (Table 4.6). -/
def Refuse.detail (r : Refuse) : List Byte := leBytes 2 r.reason ++ [byte r.offset, 0] ++ fit 12 r.tail

/-- BAD_PARAM with a reason of Table 6.2, counted as the table says. -/
def badParam (reason : Nat) (offset : Nat := 0xFF) : Refuse :=
  { status := 0x12, reason := reason, offset := offset
    violation := [0x0601, 0x0602, 0x0604, 0x0605, 0x060A].contains reason }
/-- NO_RESOURCE with a reason. -/
def noResource (reason : Nat) : Refuse := { status := 0x30, reason := reason }
/-- A Bellows failure (Table 5.5): bytes 18 to 21 name region and slot; byte 16 the field that is refused at checking. -/
def bellowsBad (reason region slot : Nat) (offset : Nat := 0xFF) : Refuse :=
  { status := 0x12, reason := reason, offset := offset, tail := leBytes 2 region ++ leBytes 2 slot
    violation := (decide (0x0501 ≤ reason) && decide (reason ≤ 0x0507)) || reason == 0x0510 || reason == 0x0511 }

end Sys2Proof.Machine
end

