-- ==== Sys2Proof/Machine/Trains.lean ====
section
/-! DEFINITION. Commands in progress and their ends: works of a train, refusals, the return of slots and the release of
replies with their records (R123, R144, R160, R607). -/

namespace Sys2Proof.Machine

/-! Works of a train. -/

/-- The period of the next Breath: a re-run keeps that of the failed Breath (R47, R544). -/
def Train.n5Due (t : Train) : Nat := if t.rerun then t.n5 else t.n5Next.getD t.n5
/-- The Bulk floor of the next Breath (R63). -/
def Train.floorNow (t : Train) : Nat := t.floorNext.getD t.floor
/-- Settings whose seal has passed are in force (R47, R106). -/
def Train.adopt (t : Train) : Train :=
  if t.phase = .working ∨ t.phase = .sealing ∨ t.rerun then t
  else { t with n5 := t.n5Due, floor := t.floorNow, step := t.stepNext.getD t.step }
def Train.work? (t : Train) (id : Nat) : Option Work := t.works.find? (·.id == id)
/-- The work with that id changed. -/
def Train.modWork (t : Train) (id : Nat) (g : Work → Work) : Train :=
  { t with works := t.works.map (fun w => if w.id == id then g w else w) }
def State.modWork (s : State) (t id : Nat) (g : Work → Work) : State := s.modTrain t (fun x => x.modWork id g)
def State.work? (s : State) (t id : Nat) : Option Work := (s.train t).work? id

/-- Every work of the device. -/
def State.allWorks (s : State) : List Work := s.trains.flatMap (·.works)

/-- A command in progress: checked and not yet replied. -/
def Work.live (w : Work) : Bool := w.stage != .finished

/-- A sliced command that still runs or waits for steps (R46, R103, R106). -/
def Work.sliced (w : Work) : Bool := w.behaviour == .sliced && w.live

/-- The outcome of a command fixed: it waits for the next seal of its train. -/
def Work.finish (w : Work) (status : Nat) (detail : List Byte) : Work :=
  { w with stage := .finished, status := status, detail := detail, stepsAdmitted := w.steps, cut := true }
/-- A command that ends with an error. -/
def Work.fail (w : Work) (r : Refuse) : Work := w.finish r.status r.detail

def State.finishWork (s : State) (t id status : Nat) (detail : List Byte) : State :=
  s.modWork t id (fun w => w.finish status detail)
def State.failWork (s : State) (t id : Nat) (r : Refuse) : State := s.modWork t id (fun w => w.fail r)

/-- The pieces of a work removed from the admitted set and from the set being formed. -/
def State.dropPieces (s : State) (t id : Nat) : State :=
  s.modTrain t (fun x => { x with
    admitted := x.admitted.filter (·.work != id), forming := x.forming.filter (·.work != id) })

/-- A command ended by something outside its own execution. -/
def State.endWork (s : State) (t id : Nat) (r : Refuse) : State := (s.dropPieces t id).failWork t id r

/-- Work admitted and unfinished, sliced or carried (R46, R103, R106): everything of the group but waiting Urgent or zero
commands, Waits effects excluded. Work that has completed in the Breath in progress and waits for its seal counts as done
(DEDUCED, assumption 98). `except` is the id of the command that asks. -/
def Train.holdsWork (t : Train) (except : Nat) : Bool :=
  t.works.any (fun w => w.id != except && w.live && (w.sliced || (w.behaviour == .compute && w.stage == .running)
    || (w.behaviour == .compute && w.stage == .waiting && t.forming.any (·.work == w.id))))

/-- Nothing is admitted, sliced or carried, and no effect of an admitted command continues (R97, R198): the train may stop.
`except` is a command that waits for this itself. -/
def Train.idle (t : Train) (except : Nat := 0xFFFFFFFFFFFFFFFF) : Bool :=
  !t.holdsWork except && t.forming == [] && !t.rerun && !t.works.any (fun w => w.id != except && w.stage == .outside)

/-- A Breath that ends now ends with no admitted or carried work (R710). -/
def Train.clearOfWork (t : Train) : Bool := t.forming == [] && !t.rerun && t.admitted.all (·.done)

/-- The PART_GROUPs that have been validated and are in progress (R95, R99). -/
def State.regroups (s : State) : List Work :=
  (s.train adminTrain).works.filter (fun w => w.cmd.opcode == 0x11 && w.live && w.status == 0)
/-- The PART_GROUP whose block holds the group of train `t` (R95). -/
def State.regroupOf (s : State) (t : Nat) : Option Work :=
  if t < 16 then s.regroups.find? (fun w => match w.cmd with
    | .partGroup b bs .. => decide (b ≤ t ∧ t < b + bs)
    | _ => false)
  else none
/-- The drain limit of train `t` has elapsed since its draining started (R96). -/
def State.drainElapsed (s : State) (t : Nat) : Bool :=
  (s.train t).draining && (s.regroupOf t).any (fun w => match w.cmd with
    | .partGroup _ _ _ _ _ limit => decide ((s.train t).drainStart + 100000 * limit ≤ s.clock.timebase)
    | _ => false)

/-! Refusals. -/

/-- A reply is due at the next seal of train `t` (R132). -/
def State.addDue (s : State) (t : Nat) (d : DueReply) : State := s.modTrain t (fun x => { x with due := x.due ++ [d] })

/-! Slots (R158 to R162). -/

def Function.region? (f : Function) (handle : Nat) : Option Region := f.regions.find? (·.handle == handle)
def Function.modRegion (f : Function) (handle : Nat) (g : Region → Region) : Function :=
  { f with regions := f.regions.map (fun r => if r.handle == handle then g r else r) }
def Region.headerAt (r : Region) (slot : Nat) : Nat := r.headerBase + 64 * slot
def Region.payloadAt (r : Region) (slot : Nat) : Nat := r.payloadBase + slot * 2 ^ r.slotLog2
def Region.slotSize (r : Region) : Nat := 2 ^ r.slotLog2
/-- L of a slot; 0xFF when the slot was never returned (R152). -/
def Region.last (r : Region) (slot : Nat) : Nat := ((r.lastGen.find? (·.1 == slot)).map (·.2)).getD 0xFF

/-- The region and first slot of an image, which a command names beside its slot references (R256, R258, R260). -/
def Work.imageSlot (w : Work) : Option (Nat × Nat) :=
  match w.cmd with
  | .snapshotShadow _ h first _ => some (h, first)
  | .snapshotStop _ h first => some (h, first)
  | .restore h first => some (h, first)
  | _ => none
/-- The slots that a command holds or names, by region and index (R158, R168, R170). -/
def Work.slots (w : Work) : List (Nat × Nat) :=
  (namedSlots w.refs).map (fun x => (x.2.region, x.2.slot)) ++ w.held.map (fun h => (h.ref.region, h.ref.slot)) ++ w.imageSlot.toList

/-- An access to the payload or the header of a Bellows slot with its attributes: Relaxed Ordering on payload writes of a region
registered with option bit 1, No Snoop on payload accesses of one with option bit 0, each while the function's Device Control
enables it (R151, R166; PRESUMED for the enables, assumption 110). -/
def State.noteAccess (s : State) (fn : Nat) (r : Region) (addr len : Nat) (write payload : Bool) : State :=
  { s with out := { s.out with slots :=
    { fn := fn, addr := addr, len := len, write := write, relaxed := payload && write && bit r.options 1 && (s.fn fn).relaxed
      noSnoop := payload && bit r.options 0 && (s.fn fn).noSnoop } :: s.out.slots } }
/-- Bytes written to a slot's header or payload. -/
def State.slotWrite (s : State) (fn : Nat) (r : Region) (addr : Nat) (bs : List Byte) (payload : Bool) : State :=
  if bs = [] then s else (s.hostWrite fn addr bs).noteAccess fn r addr bs.length true payload

/-- The statuses with which a slot returns SEALED (Table 5.4). -/
def sealsSlots (status : Nat) : Bool := status ≤ 2 || status == 0x70

/-- One held slot returned by the seal of Breath `breath` with a reply of status `status` (R155, R160). -/
def State.returnSlot (s : State) (fn tag part status breath : Nat) (h : HeldSlot) : State :=
  match (s.fn fn).region? h.ref.region with
  | none => s
  | some r =>
    let good := sealsSlots status && !h.retired
    let mark := if h.retired then 0x7F else if good then 0x5E else 0xE5
    let len := if h.ref.dir = 0 then h.length else if good then h.bytes.length else 0
    let check := if good && decide (len ≠ 0) then crc32c h.bytes else 0
    let body := [byte status, 0] ++ leBytes 4 len ++ leBytes 6 breath ++ [byte part, 0] ++ leBytes 4 tag ++ leBytes 4 check
      ++ leBytes 8 s.clock.time
    let a := r.headerAt h.ref.slot
    let s := (s.slotWrite fn r (a + 2) body false).slotWrite fn r a [byte mark, byte h.ref.gen] false
    s.modFn fn (fun f => f.modRegion r.handle (fun r => { r with
      lastGen := (h.ref.slot, h.ref.gen) :: r.lastGen.filter (·.1 != h.ref.slot)
      retired := if h.retired then h.ref.slot :: r.retired else r.retired }))

def State.returnSlots (s : State) (breath : Nat) (w : Work) : State :=
  w.held.foldl (fun s h => s.returnSlot w.fn w.tag w.part w.status breath h) s

/-! Entries (R609 to R614). -/

/-- The slot digests of a command: role 1 input, 2 output (R614). -/
def Work.slotDigests (w : Work) : List (Nat × Nat × List Byte) :=
  (namedSlots w.refs).map (fun (i, r) =>
    (r.dir + 1, i, sha256 (((w.held.find? (·.ordinal == i)).map (·.bytes)).getD [])))

/-- Opcodes whose entries carry TOKEN and BINDING (Table 18.5). -/
def programEntry (op : Nat) : Bool := [0x43, 0x60, 0x61, 0x52].contains op
/-- Opcodes whose entries carry DIGESTS alone (Table 18.5): of their slots. -/
def slotEntry (op : Nat) : Bool := [0x71, 0x22, 0x23].contains op
/-- Opcodes whose entries carry one digest of their own (Table 18.5). -/
def ownDigestEntry (op : Nat) : Bool := [0xB4, 0x80, 0x81, 0x82, 0xB0, 0xB1, 0x40].contains op

/-- The continuation payloads of a command that executed. -/
def Work.parts (w : Work) : List (List Byte) :=
  let op := w.cmd.opcode
  if w.unexecuted then []
  else if programEntry op then
    let ds := w.slotDigests
    [tokenPart w.token, bindingPart (sha256 w.descriptors.flatten) w.boundRegs w.shapeWords.length]
      ++ w.shapeWords.map (fun b => shapeWordsPart b.1 b.2) ++ digestParts ds.length ds
  else if slotEntry op then digestParts 4 w.slotDigests
  else if ownDigestEntry op then digestParts 4 w.digests
  else []

/-- The records of an entry, as step 12 reserves them (R655): by opcode, slots named and shape-word blocks. -/
def entrySize (op refs blocks : Nat) : Nat :=
  if programEntry op then 3 + blocks + ceilDiv refs 3
  else if slotEntry op then 1 + ceilDiv refs 3 else if ownDigestEntry op then 2 else 1

/-- The status of a finished command: late and replayed success (R67, R69, R143). -/
def Work.finalStatus (w : Work) : Nat := if w.status ≠ 0 then w.status else if w.late then 1 else if w.replayed then 2 else 0

/-- The extra fields of the primary record (Table 18.3): the cycles used over the runs of COMMAND, SCORE and JOB entries. -/
def Work.entryExtra (w : Work) : List Byte :=
  if [some 0x41, some 0x60, some 0x61].contains ((recordType w.cmd.opcode).map (·.1)) then
    fit 16 w.extra ++ leBytes 4 (min w.cyclesUsed 0xFFFFFFFF)
  else w.extra

/-- The reply and entry of a finished command. -/
def Work.toDue (w : Work) : DueReply :=
  { order := w.id, fn := w.fn, bulk := w.bulk, admin := w.fn = 0, seq := w.seq, tag := w.tag, status := w.finalStatus
    detail := w.detail, suppress := bit w.flags 2, part := if w.part = 0xFF then 0xFF else if w.train = adminTrain then 0xFF else w.train
    opcode := w.cmd.opcode, pflags := w.flags, params := w.params
    record := if w.audited then (recordType w.cmd.opcode).map (·.1) else none
    reserved := w.records, staged := w.staged, parts := w.parts, extra := w.entryExtra, cyclesUsed := if w.cmd.opcode = 0x43 ∧ w.status = 0 then min w.cyclesUsed 0xFFFFFFFF else 0 }

/-! Release (R123, R124, R128, R607). -/

/-- The reply of a due entry, once its record is staged. -/
def DueReply.reply (d : DueReply) (breath : Nat) (ledger : Bool) : Reply :=
  { seq := d.seq, status := d.status, tag := d.tag, breath := breath, detail := d.detail
    flags := flag d.bulk + 2 * flag d.admin + 8 * flag d.unverified + 16 * flag ledger }

/-- The entry of a due reply staged at its seal, and whether its reply has the ledger flag. CART_RETIRE's record was
staged at execution (R607); a NOTE's reply holds its own sequence (R273). -/
def State.stageDue (s : State) (d : DueReply) (breath : Nat) : DueReply × Bool × State :=
  match d.record with
  | none => (d, false, s)
  | some _ =>
    if d.staged then (d, true, s)
    else
      let s := s.tryGap
      let (v, s) := if d.opcode = 0xA3 ∧ d.status ≤ 2 then
          (if d.reserved = 0 ∧ !s.ledger.mramFailed then s.fresh else (s.ledger.nextSeq, s)) else (0, s)
      let d := if d.opcode = 0xA3 ∧ d.status ≤ 2 then { d with detail := leBytes 8 v } else d
      let rs := s.entryRecords d s.clock.time breath
      let (ok, s) := s.stage (!holdExempt d.opcode) d.reserved rs d.part breath
      (d, ok, s)

/-- Insertion of a reply by checking order. -/
def insertDue (d : DueReply) : List DueReply → List DueReply
  | [] => [d]
  | x :: xs => if d.order < x.order then d :: x :: xs else x :: insertDue d xs

/-- Counted completions (Table 22.6, R128). -/
def State.countReply (s : State) (t : Nat) (d : DueReply) (suppressed : Bool) : State :=
  let s := if t < 16 then
      s.modPart t (fun p => { p with perf := { p.perf with
        replies := p.perf.replies + 1
        repliesLate := p.perf.repliesLate + flag (d.status == 1)
        repliesReplayed := p.perf.repliesReplayed + flag (d.status == 2)
        breathFull := p.perf.breathFull + flag (d.status == 0x33)
        cyclesUsed := p.perf.cyclesUsed + d.cyclesUsed } })
    else s
  if suppressed then
    s.modFn d.fn (fun f =>
      if d.bulk then { f with bulk := { f.bulk with suppressed := (f.bulk.suppressed + 1) % 2 ^ 32 } }
      else { f with urgent := { f.urgent with suppressed := (f.urgent.suppressed + 1) % 2 ^ 32 } })
  else s

/-- The entries staged and the replies collected, in checking order. A reply goes to the queue of the function that sent the
packet: for the commands of a group, which its leader's rings carry, the leader's (R124, assumption 39). -/
def State.stageAll (s : State) (t breath : Nat) : List DueReply → List (Nat × Reply) → List (Nat × Reply) × State
  | [], acc => (acc, s)
  | d :: ds, acc =>
    let (d, led, s) := s.stageDue d breath
    let sup := d.suppress && decide (d.status = 0)
    let s := s.countReply t d sup
    State.stageAll s t breath ds (if sup then acc else acc ++ [(d.fn, d.reply breath led)])

/-- The replies of one seal of train `t` posted, each queue in checking order (R123). -/
def State.release (s : State) (t breath : Nat) (ds : List DueReply) : State :=
  let sorted := ds.foldl (fun a d => insertDue d a) []
  let (rs, s) := s.stageAll t breath sorted []
  (List.range 17).foldl (fun s fn =>
    let mine := (rs.filter (·.1 == fn)).map (·.2)
    if mine = [] then s else s.postReplies fn mine) s

end Sys2Proof.Machine
end

