-- ==== Sys2Proof/Machine/Spill.lean ====
section
/-! DEFINITION. Spill regions: claims, check words, spill-window addresses (R175, R176, R495 to R498). A unit of a claimed
slot that has no check word yet has not been written and reads as zeros. -/

namespace Sys2Proof.Machine

def spillUnit : Nat := 4096
/-- A spill-window address has bit 63 set (R495). -/
def isSpill (a : Nat) : Bool := decide (2 ^ 63 ≤ a)
def spillHandle (a : Nat) : Nat := a % 2 ^ 63 / 2 ^ 40
def spillOffset (a : Nat) : Nat := a % 2 ^ 40

/-- A spill region of a function: memory spill uses those of the leader's VF (R495), a SPILL sequence those of the function
that opened it (R236). -/
def State.spillRegion? (s : State) (fn h : Nat) : Option Region := ((s.fn fn).region? h).filter (·.spill)

/-- The region that a spill-window address names serves as memory (R495). -/
def State.spillMemory (s : State) (t a : Nat) : Bool :=
  match s.spillRegion? (t + 1) (spillHandle a) with
  | some r => decide (65536 ≤ r.slotSize) && r.memoryUse != some false
  | none => false
/-- A range lies in the payload of its region (R496). -/
def State.spillInside (s : State) (t a len : Nat) : Bool :=
  match s.spillRegion? (t + 1) (spillHandle a) with
  | some r => decide (spillOffset a + len ≤ r.count * r.slotSize)
  | none => false
/-- A spill-window range is usable as memory (R495, R496). -/
def State.spillUsable (s : State) (t a len : Nat) : Bool := s.spillMemory t a && s.spillInside t a len

/-- The spill regions of a group with their functions: those of its leader's VF, and those that the PF registered for it. -/
def State.spillRegions (s : State) (t : Nat) : List (Nat × Region) :=
  [t + 1, 0].flatMap (fun f => ((s.fn f).regions.filter (fun r => r.spill && r.train == t)).map (fun r => (f, r)))

def Region.claim? (r : Region) (slot : Nat) : Option SpillSlot := r.claims.find? (·.slot == slot)
def SpillSlot.check? (c : SpillSlot) (unit : Nat) : Option Nat := (c.checks.find? (·.1 == unit)).map (·.2)

/-- Bytes of claimed spill slots of a group, and the most it may claim (R498). -/
def State.spillClaimed (s : State) (t : Nat) : Nat :=
  (s.spillRegions t).foldl (fun n x => n + x.2.claims.length * x.2.slotSize) 0
def State.spillQuota (s : State) (t : Nat) : Nat := s.groupSize t * 2 ^ 34

/-- A slot claimed: DEVICE with the generation advanced by one; bytes 2 to 31 are information of no stated value but for
the reserved bytes 3 and 15 (R18, R175, Table 5.2). -/
def State.claimSlot (s : State) (fn h slot : Nat) : Option State :=
  match s.spillRegion? fn h with
  | none => none
  | some r =>
    if (r.claim? slot).isSome then some s
    else if r.bad.contains slot || decide (r.count ≤ slot) || decide (s.spillQuota r.train < s.spillClaimed r.train + r.slotSize) then none
    else
      let g := (r.last slot + 1) % 256
      let info := (List.range 30).map (fun i => if i = 1 ∨ i = 13 then 0 else Config.freeByte (s.dev.freeIndex + i))
      let s := s.modDev (fun d => { d with freeIndex := d.freeIndex + 30 })
      let s := s.slotWrite fn r (r.headerAt slot) ([byte 0xD1, byte g] ++ info) false
      some (s.modFn fn (fun f => f.modRegion h (fun r => { r with
        claims := { slot := slot } :: r.claims
        lastGen := (slot, g) :: r.lastGen.filter (·.1 != slot) })))

/-- A claimed slot released: HOST (R175), unless the card has written it RETIRED (R168). -/
def State.releaseSlot (s : State) (fn h slot : Nat) : State :=
  match s.spillRegion? fn h with
  | none => s
  | some r =>
    if (r.claim? slot).isNone then s
    else
      (if r.retired.contains slot then s else s.slotWrite fn r (r.headerAt slot) [0x00] false).modFn fn (fun f => f.modRegion h (fun r => { r with
        claims := r.claims.filter (·.slot != slot) }))

/-- The lowest-indexed free slot of a region (R456). -/
def Region.freeSlot (r : Region) : Option Nat :=
  (List.range r.count).find? (fun i => (r.claim? i).isNone && !r.bad.contains i)

/-- One byte at an offset of the region's payload. -/
def State.spillByte (s : State) (fn h off : Nat) : Byte :=
  match s.spillRegion? fn h with
  | none => 0
  | some r =>
    match (r.claim? (off / r.slotSize)).bind (·.check? (off % r.slotSize / spillUnit)) with
    | some _ => s.host.get (hostKey fn (r.payloadAt (off / r.slotSize) + off % r.slotSize))
    | none => 0

def State.spillRead (s : State) (fn h off k : Nat) : List Byte := (List.range k).map (fun i => s.spillByte fn h (off + i))

/-- The DMA address of the first unit of the range whose check fails, with its slot (R176). -/
def State.spillBad (s : State) (fn h off len : Nat) : Option (Nat × Nat) :=
  match s.spillRegion? fn h with
  | none => none
  | some r =>
    if len = 0 then none
    else
      let units := (List.range ((off + len - 1) / spillUnit - off / spillUnit + 1)).map (· + off / spillUnit)
      units.findSome? (fun u =>
        let slot := u * spillUnit / r.slotSize
        let inner := u * spillUnit % r.slotSize
        match (r.claim? slot).bind (·.check? (inner / spillUnit)) with
        | some c =>
          let a := r.payloadAt slot + inner
          if crc32c (s.hostRead fn a spillUnit) = c then none else some (a, slot)
        | none => none)

/-- One whole unit written with its check word. -/
def State.spillPutUnit (s : State) (fn h unit : Nat) (bs : List Byte) : State :=
  match s.spillRegion? fn h with
  | none => s
  | some r =>
    let slot := unit * spillUnit / r.slotSize
    let inner := unit * spillUnit % r.slotSize
    (s.slotWrite fn r (r.payloadAt slot + inner) bs true).modFn fn (fun f => f.modRegion h (fun r => { r with
      claims := r.claims.map (fun c => if c.slot == slot then
        { c with checks := (inner / spillUnit, crc32c bs) :: c.checks.filter (·.1 != inner / spillUnit) } else c) }))

/-- The units that a write of `len` bytes merges into what they hold, each as one byte of it (R498). -/
def mergedUnits (off len : Nat) : List Range :=
  if len = 0 then []
  else (if off % spillUnit ≠ 0 then [⟨off, 1⟩] else []) ++ (if (off + len) % spillUnit ≠ 0 then [⟨off + len - 1, 1⟩] else [])
/-- The first of those units whose check fails (R176). -/
def State.mergeBad (s : State) (fn h off len : Nat) : Option (Nat × Nat) :=
  (mergedUnits off len).findSome? (fun r => s.spillBad fn h r.start r.len)

/-- Bytes written into a claimed slot: each unit they touch is read, merged and written back (R498). -/
def State.spillWrite (s : State) (fn h off : Nat) (bs : List Byte) : State :=
  if bs = [] then s
  else
    let units := (List.range ((off + bs.length - 1) / spillUnit - off / spillUnit + 1)).map (· + off / spillUnit)
    units.foldl (fun s u =>
      let base := u * spillUnit
      let old := s.spillRead fn h base spillUnit
      let new := (old.zip (List.range spillUnit)).map (fun (b, i) =>
        if off ≤ base + i ∧ base + i < off + bs.length then bs.getD (base + i - off) 0 else b)
      s.spillPutUnit fn h u new) s

/-- A spill region is used as memory: its first use fixes what it serves (R495). -/
def State.useAsMemory (s : State) (fn h : Nat) : State :=
  s.modFn fn (fun f => f.modRegion h (fun r => { r with memoryUse := some true }))

/-- A range of a memory spill claimed slot by slot; none when a claim fails (R497, R498). -/
def State.claimRange (s : State) (fn h off len : Nat) : Option State :=
  match s.spillRegion? fn h with
  | none => none
  | some r =>
    if len = 0 then some s
    else
      ((List.range ((off + len - 1) / r.slotSize - off / r.slotSize + 1)).map (· + off / r.slotSize)).foldl
        (fun s i => s.bind (fun s => s.claimSlot fn h i)) (some (s.useAsMemory fn h))

/-- MEM_POISON 0x0520: the failing unit's DMA address; the slot is not used again; one host violation (R176). -/
def spillPoison (a : Nat) : Refuse := { status := 0x51, reason := 0x0520, tail := leBytes 8 a, violation := true }
/-- A slot that is not used again (R176). -/
def State.badSlot (s : State) (fn h slot : Nat) : State :=
  s.modFn fn (fun f => f.modRegion h (fun r => { r with bad := if r.bad.contains slot then r.bad else slot :: r.bad }))

end Sys2Proof.Machine
end

