-- ==== Sys2Proof/Machine/Program.lean ====
section
/-! DEFINITION. Programs: descriptors, the checks of Table 7.6, the binding of shapes, the layout and extent of operands
(chapter 7, with the parameter rules of chapters 8, 9, 10, 11 and 13). -/

namespace Sys2Proof.Machine

/-! Descriptors (Tables 7.3 to 7.5). -/

structure Operand where
  kind : Nat
  flags : Nat
  stride : Nat
  reserved : Nat
  addr : Nat
  deriving DecidableEq, Repr

def Operand.transposed (o : Operand) : Bool := bit o.flags 0
def Operand.carried (o : Operand) : Bool := bit o.flags 1
def Operand.slot (o : Operand) : Nat := o.addr % 256

structure Desc where
  raw : List Byte
  op : Nat
  flags : Nat
  fa : Nat
  fb : Nat
  fo : Nat
  mode : Nat
  q : Nat
  /-- Source codes and fields of M, N, K, G. -/
  sources : List Nat
  dims : List Nat
  words : Nat
  a : Operand
  b : Operand
  c : Operand
  d : Operand
  p : List Byte
  tm : Nat
  tn : Nat
  tk : Nat
  order : Nat
  multicast : Nat
  first : Nat
  cores : Nat
  scratch : Nat
  crc : Nat
  deriving DecidableEq, Repr

def Operand.ofBytes (r : List Byte) (o : Nat) : Operand :=
  { kind := field r o 1, flags := field r (o + 1) 1, stride := field r (o + 2) 4, reserved := field r (o + 6) 2
    addr := field r (o + 8) 8 }

def Desc.ofBytes (r : List Byte) : Desc :=
  { raw := r, op := field r 0 1, flags := field r 1 1, fa := field r 2 1, fb := field r 3 1, fo := field r 4 1
    mode := field r 5 1, q := field r 7 1
    sources := (List.range 4).map (fun i => bits (field r 6 1) (2 * i) 2)
    dims := (List.range 4).map (fun i => field r (8 + 4 * i) 4)
    words := field r 24 8, a := .ofBytes r 32, b := .ofBytes r 48, c := .ofBytes r 64, d := .ofBytes r 80
    p := slice r 96 16, tm := field r 112 2, tn := field r 114 2, tk := field r 116 2, order := field r 118 1
    multicast := field r 119 1, first := field r 120 2, cores := field r 122 2, scratch := field r 124 2
    crc := field r 126 2 }

def Desc.last (d : Desc) : Bool := bit d.flags 0
def Desc.accumulate (d : Desc) : Bool := bit d.flags 1
def Desc.noBarrier (d : Desc) : Bool := bit d.flags 4
def Desc.par (d : Desc) (o k : Nat) : Nat := field d.p o k
def Desc.crcGood (d : Desc) : Bool := crc16 (d.raw.take 126) == d.crc

def opMatmul : Nat := 0x01
def opStopmm : Nat := 0x02
def opConv : Nat := 0x03
def opDwconv : Nat := 0x04
def opAttend : Nat := 0x05
def opDistance : Nat := 0x06
def opChain : Nat := 0x10
def opRowstat : Nat := 0x11
def opRowstat2 : Nat := 0x12
def opPool : Nat := 0x13
def opRngfill : Nat := 0x14
def opCopy : Nat := 0x20
def opGather : Nat := 0x21

def macroOps : List Nat := [0x01, 0x02, 0x03, 0x04, 0x05, 0x06, 0x10, 0x11, 0x12, 0x13, 0x14, 0x20, 0x21]
def boreStopOps : List Nat := [0x01, 0x02, 0x03, 0x05, 0x06]
def vectorOps : List Nat := [0x04, 0x10, 0x11, 0x12, 0x13, 0x14]
def splitOps : List Nat := [0x01, 0x02, 0x03, 0x06]

/-! Stall modes (Table 8.9). -/

/-- What the Bore does while a streamed column is late. -/
inductive StallMode where
  | elastic | bubble
  deriving DecidableEq, Repr

/-- The stall mode of a descriptor: its field, or the sequencer's automatic choice (R343). -/
def Desc.stallMode (d : Desc) : StallMode :=
  let f := bits d.flags 2 2
  if f = 1 then .elastic else if f = 2 then .bubble
  else if bit d.multicast 1 ∨ d.b.kind = 4 ∨ d.b.kind = 5 then .bubble else .elastic

/-! CHAIN stages (R381 to R385, R388, R393). -/

structure ChainStage where
  code : Nat
  arg : Nat
  /-- Descriptor byte offset of the stage word. -/
  off : Nat
  deriving DecidableEq, Repr

def Desc.stageWords (d : Desc) : List ChainStage :=
  (List.range 8).map (fun i => { code := field d.p (2 * i) 1, arg := field d.p (2 * i + 1) 1, off := 96 + 2 * i })
/-- The stages before the first END. -/
def Desc.stages (d : Desc) : List ChainStage := if d.op = opChain then d.stageWords.takeWhile (fun x => x.code != 0) else []

def selectorStage (c : Nat) : Bool := [0x01, 0x02, 0x03, 0x04, 0x05, 0x0A].contains c
def plainStage (c : Nat) : Bool := [0x06, 0x07, 0x08, 0x09, 0x0B].contains c
def sfuStage (c : Nat) : Bool := c == 0x20 || c == 0x21
def ChainStage.constant (x : ChainStage) : Bool := selectorStage x.code && decide (x.arg / 64 = 0)
def ChainStage.vector (x : ChainStage) : Bool := selectorStage x.code && decide (x.arg / 64 = 1)
/-- It reads B elementwise. -/
def ChainStage.elementwise (x : ChainStage) : Bool :=
  (selectorStage x.code && decide (x.arg / 64 = 2)) || (x.code == 0x21 && !bit x.arg 5)
/-- The argument is in order (Table 10.1, R383, R393). -/
def ChainStage.argGood (x : ChainStage) : Bool :=
  if x.code = 0x03 then
    (decide (x.arg / 64 = 0) && decide (x.arg % 64 ≤ 14)) || (decide (x.arg / 64 = 1) && decide (x.arg % 64 ≤ 6))
  else if selectorStage x.code then
    (decide (x.arg / 64 = 0) && decide (x.arg % 64 < 16)) || (decide (x.arg / 64 = 1) && decide (x.arg % 64 < 8))
      || x.arg == 128
  else if x.code = 0x20 then decide (x.arg < 32) && decide (x.arg % 16 ≠ 15)
  else if x.code = 0x21 then decide (x.arg < 64) && decide (7 ≤ x.arg % 16) && decide (x.arg % 16 ≤ 11)
  else x.arg == 0

def Desc.readsB (d : Desc) : Bool := d.stages.any (·.elementwise)
def Desc.norm (d : Desc) : Bool := d.stages.any (·.code == 0x0B)
def Desc.gate1 (d : Desc) : Bool := d.stages.any (fun x => x.code == 0x21 && bit x.arg 5)
def Desc.chainData (d : Desc) : Bool := d.stages.any (fun x => x.constant || x.vector)
/-- Column vectors in D: one more than the highest named (R384). -/
def Desc.vectors (d : Desc) : Nat :=
  d.stages.foldl (fun n x => if x.vector then max n (x.arg % 8 + (if x.code = 0x03 then 2 else 1)) else n) 0
def Desc.sfuStage? (d : Desc) : Option ChainStage := d.stages.find? (fun x => sfuStage x.code)
def Desc.preciseStage (d : Desc) : Bool := d.stages.any (fun x => sfuStage x.code && bit x.arg 4)
def Desc.fastStage (d : Desc) : Bool := d.stages.any (fun x => sfuStage x.code && !bit x.arg 4)

/-! Pairings (Table 8.2). -/

def smallFloats : List Nat := [0x10, 0x11, 0x20, 0x21, 0x22]
def halfFloats : List Nat := [0x12, 0x13]
def anyFloats : List Nat := 0x14 :: halfFloats ++ smallFloats

/-- The pairing class: 0 4-bit, 1 8-bit, 2 16-bit, 3 FP32; none: not allowed. -/
def pairing (a b : Nat) : Option Nat :=
  let i8 (c : Nat) : Bool := c == 0x01 || c == 0x02
  if i8 a && i8 b then (if a = 0x01 ∧ b = 0x01 then some 0 else some 1)
  else if a = 0x20 ∧ b = 0x20 then some 0
  else if a = 0x23 ∧ b = 0x23 then some 1
  else if smallFloats.contains a && smallFloats.contains b then some 1
  else if (halfFloats.contains a && (halfFloats ++ smallFloats).contains b)
      || (smallFloats.contains a && halfFloats.contains b) then some 2
  else if (a == 0x14 && anyFloats.contains b) || (b == 0x14 && anyFloats.contains a) then some 3
  else none

/-! Checks. A failure is a check code and a descriptor byte offset (R301). -/

abbrev Fail := Nat × Nat

/-- The failure that is reported: the lowest code, and within it the lowest offset. -/
def leastFail : List Fail → Option Fail
  | [] => none
  | f :: fs => match leastFail fs with
    | none => some f
    | some g => if f.1 < g.1 ∨ (f.1 = g.1 ∧ f.2 ≤ g.2) then some f else some g

/-- The failures among condition, code and offset triples. -/
def fails (xs : List (Bool × Nat × Nat)) : List Fail := (xs.filter (·.1)).map (·.2)

/-- A pattern of FP32 is finite. -/
def finite32 (n : Nat) : Bool := bits n 23 8 != 255

/-- Reserved bits of an operand field; `tr` says whether the transposed bit is allowed. -/
def Operand.reservedFails (o : Operand) (base : Nat) (tr : Bool) : List Fail :=
  fails [(decide (4 ≤ o.flags) || (o.transposed && !tr), 0x0002, base + 1), (decide (o.reserved ≠ 0), 0x0002, base + 6)
    , ((o.kind == 0 || o.kind == 4) && decide (o.addr ≠ 0), 0x0002, base + 8)
    , (o.kind == 3 && decide (2 ^ 32 ≤ o.addr), 0x0002, base + 12)
    , (o.kind == 5 && decide (4 ≤ o.addr), 0x0002, base + 8)]

/-- Reserved parameter bytes from `o` on. -/
def Desc.zeroFrom (d : Desc) (o : Nat) : List Fail :=
  (List.range 16).filterMap (fun i => if o ≤ i ∧ d.par i 1 ≠ 0 then some (0x0002, 96 + i) else none)

/-- A parameter field outside its range (R409, R445). -/
def Desc.range (d : Desc) (o k lo hi : Nat) : Bool × Nat × Nat := (decide (d.par o k < lo ∨ hi < d.par o k), 0x0002, 96 + o)

/-- Failures of the CHAIN stage words (Table 10.11). -/
def Desc.chainFails (d : Desc) : List Fail :=
  let ws := d.stageWords
  let st := d.stages
  let after := ws.drop st.length
  fails ((after.filter (·.code != 0)).map (fun x => (true, 0x0002, x.off)))
    ++ fails ((after.filter (fun x => x.code == 0 && x.arg != 0)).map (fun x => (true, 0x0002, x.off + 1)))
    ++ fails (st.map (fun x => (!(selectorStage x.code || plainStage x.code || sfuStage x.code), 0x0002, x.off)))
    ++ fails (st.map (fun x => (!x.argGood, 0x0002, x.off + 1)))
    ++ (((st.filter (fun x => sfuStage x.code)).drop 1).map (fun x => (0x0002, x.off)))
    ++ (((st.filter (·.code == 0x0B)).drop 1).map (fun x => (0x0002, x.off)))
    ++ (if d.readsB && d.norm then
        ((st.filter (fun x => x.elementwise || x.code == 0x0B)).drop 1).map (fun x => (0x0002, x.off)) else [])

/-- Parameter fields of the owning chapters (check 0x0002). -/
def Desc.paramFails (d : Desc) : List Fail :=
  if d.op = opMatmul then fails [d.range 0 1 0 2] ++ d.zeroFrom 1
  else if d.op = opStopmm then fails [d.range 1 1 0 2] ++ d.zeroFrom 2
  else if d.op = opConv then
    fails [d.range 0 2 1 16384, d.range 2 2 1 16384, d.range 4 2 1 16384, d.range 6 2 1 16384, d.range 8 1 1 15
      , d.range 9 1 1 15, d.range 10 1 1 4, d.range 11 1 1 4, d.range 12 1 0 14, d.range 13 1 0 14] ++ d.zeroFrom 14
  else if d.op = opDwconv then
    fails [d.range 0 2 1 16384, d.range 2 2 1 16384, d.range 4 2 1 16384, d.range 6 1 1 9, d.range 7 1 1 9
      , d.range 8 1 1 4, d.range 9 1 1 4, d.range 10 1 0 8, d.range 11 1 0 8
      , (! [1, 2, 4].contains (d.par 12 1), 0x0002, 108), d.range 13 1 0 1] ++ d.zeroFrom 14
  else if d.op = opAttend then
    fails [d.range 0 1 1 64, d.range 1 1 0 1, d.range 2 2 16 256, (decide (d.par 2 2 % 16 ≠ 0), 0x0002, 98)
      , (!finite32 (d.par 4 4) || decide (d.par 4 4 % 2 ^ 31 = 0), 0x0002, 100)] ++ d.zeroFrom 12
  else if d.op = opDistance then
    fails [d.range 0 1 0 4, d.range 1 1 0 (if d.par 0 1 = 4 then 5 else 0)] ++ d.zeroFrom 2
  else if d.op = opChain then d.chainFails
  else if d.op = opRowstat ∨ d.op = opRowstat2 then
    fails [(!finite32 (d.par 0 4) || decide (2 ^ 31 < d.par 0 4), 0x0002, 96), d.range 4 1 0 1] ++ d.zeroFrom 5
  else if d.op = opPool then
    fails [d.range 0 2 1 16384, d.range 2 2 1 16384, d.range 4 2 1 16384, d.range 6 1 1 64, d.range 7 1 1 64
      , d.range 8 1 1 64, d.range 9 1 0 2, d.range 10 1 0 (d.par 6 1 - 1), d.range 11 1 0 (d.par 7 1 - 1)] ++ d.zeroFrom 12
  else if d.op = opRngfill then
    fails [d.range 0 1 0 3, d.range 1 1 0 0, d.range 2 2 0 0x7FFF
      , (d.par 0 1 == 0 && decide (d.par 4 4 ≠ 0), 0x0002, 100), (d.par 0 1 == 0 && decide (d.par 8 4 ≠ 0), 0x0002, 104)
      , ((d.par 0 1 == 1 || d.par 0 1 == 2) && !finite32 (d.par 4 4), 0x0002, 100)
      , (d.par 0 1 != 0 && !finite32 (d.par 8 4), 0x0002, 104)] ++ d.zeroFrom 12
  else if d.op = opGather then
    fails [(decide (d.par 0 4 = 0 ∨ d.par 0 4 = 0xFFFFFFFF), 0x0002, 96)] ++ d.zeroFrom 4
  else if d.op = opCopy then d.zeroFrom 0
  else []

/-- Opcodes and modes on which the accumulate bit is defined (R815). -/
def accumulateOps : List Nat := [0x01, 0x02, 0x03, 0x04, 0x06]

/-- Check 0x0002: reserved bits and fields. -/
def Desc.reservedFails (d : Desc) : List Fail :=
  let tr (i : Nat) : Bool :=
    ((d.op == opMatmul || d.op == opDistance) && decide (i < 3)) || (d.op == opConv && i == 1)
  fails [(decide (32 ≤ d.flags) || decide (bits d.flags 2 2 = 3), 0x0002, 1)
    , (d.accumulate && !accumulateOps.contains d.op, 0x0002, 1)
    , (decide (d.words ≠ 0) && !d.sources.contains 2, 0x0002, 24), (decide (8 ≤ d.multicast), 0x0002, 119)]
  ++ d.a.reservedFails 32 (tr 0) ++ d.b.reservedFails 48 (tr 1) ++ d.c.reservedFails 64 (tr 2 && d.c.kind != 4)
  ++ d.d.reservedFails 80 false ++ d.paramFails

/-- Formats that CHAIN takes (Table 10.2). -/
def chainFormats : List Nat := [0x01, 0x02, 0x03, 0x10, 0x11, 0x12, 0x13, 0x14, 0x20, 0x21, 0x22, 0x23]
def plainFloats : List Nat := [0x10, 0x11, 0x12, 0x13, 0x14]

/-- Allowed formats of A, B and the output (R410, chapters 8, 9, 10, 11, 13). -/
def Desc.formatsGood (d : Desc) : Bool × Bool × Bool :=
  let op := d.op
  if op = opMatmul ∨ op = opConv then
    let mxA := isMx d.fa && d.a.transposed
    let mxB := isMx d.fb && !d.b.transposed
    match pairing d.fa d.fb with
    | none => (false, true, (plainFloats ++ [0x02, 0x03]).contains d.fo)
    | some _ => (!mxA, !mxB, (if isInt d.fa then [0x02, 0x03] else plainFloats).contains d.fo)
  else if op = opStopmm then
    (d.fa == 0x01 || d.fa == 0x02, d.fb == d.fa
    , (if d.par 1 1 = 0 then [0x02, 0x03] else [0x01, 0x02] ++ plainFloats).contains d.fo)
  else if op = opDistance then
    let ints := [0x01, 0x02]
    let fl := [0x10, 0x11]
    let both := (ints.contains d.fa && ints.contains d.fb) || (fl.contains d.fa && fl.contains d.fb)
    (both, true, (if d.par 0 1 = 4 ∨ ints.contains d.fa then [0x03, 0x14] else [0x14, 0x12]).contains d.fo)
  else if op = opAttend then
    ([0x10, 0x11, 0x12, 0x13].contains d.fa, [0x10, 0x11, 0x12, 0x13].contains d.fb, [0x12, 0x13, 0x14].contains d.fo)
  else if op = opChain then
    (chainFormats.contains d.fa
    , if d.norm then d.fb == 0x14 else if d.readsB then chainFormats.contains d.fb else d.fb == 0
    , chainFormats.contains d.fo)
  else if op = opRowstat ∨ op = opRowstat2 then (chainFormats.contains d.fa && !isMx d.fa, d.fb == 0, d.fo == 0x14)
  else if op = opDwconv then
    if d.fa = 0x02 then (true, d.fb == 0x02, ([0x02, 0x03] ++ plainFloats).contains d.fo)
    else (plainFloats.contains d.fa, plainFloats.contains d.fb, plainFloats.contains d.fo)
  else if op = opPool then
    ((0x02 :: plainFloats).contains d.fa, d.fb == 0
    , plainFloats.contains d.fo || (d.fo == 0x02 && d.fa == 0x02 && d.par 9 1 == 0))
  else if op = opRngfill then
    (d.fa == 0, d.fb == 0
    , if d.par 0 1 = 0 then d.fo == 0x03 else if d.par 0 1 = 3 then ([0x01, 0x02] ++ plainFloats).contains d.fo
      else plainFloats.contains d.fo)
  else if op = opCopy then (d.fa == 0 || validFormat d.fa, d.fb == 0, d.fo == d.fa)
  else (d.fa == 0, d.fb == 0x03, d.fo == 0)

/-- Check 0x0003: formats and the numerics mode; accumulate with min-plus or max-plus (R336). -/
def Desc.formatFails (d : Desc) : List Fail :=
  let (a, b, c) := d.formatsGood
  fails [(!a, 0x0003, 2), (!b, 0x0003, 3), (!c, 0x0003, 4)
    , (decide (8 ≤ d.mode) || decide (d.mode % 4 = 3), 0x0003, 5)
    , ((d.op == opCopy || d.op == opGather) && d.mode != 0, 0x0003, 5)
    , (d.op == opRngfill && decide (d.mode % 4 = 1), 0x0003, 5)
    , (d.op == opDistance && d.accumulate && (d.par 0 1 == 2 || d.par 0 1 == 3), 0x0003, 1)]

/-- Operand kinds allowed at A, B, C and D. -/
def Desc.kinds (d : Desc) : List Nat × List Nat × List Nat × List Nat :=
  let op := d.op
  let need (b : Bool) : List Nat := if b then [1, 2] else [0]
  if op = opMatmul then ([1, 2, 5], [1, 2, 5], [1, 2, 4, 5], need (d.par 0 1 != 0))
  else if op = opConv ∨ op = opDistance then ([1, 2, 5], [1, 2, 5], [1, 2, 5], [0])
  else if op = opStopmm then ([1, 2, 5], [3], [1, 2, 4, 5], need (d.par 1 1 != 0))
  else if op = opAttend then ([1, 2, 5], [1, 4], [1, 2, 5], if d.b.kind = 1 then [1] else [0])
  else if op = opDwconv then ([1, 2], [1, 2], [1, 2], need (d.par 13 1 != 0))
  else if op = opChain then ([1, 2, 5], need (d.readsB || d.norm), [1, 2, 4, 5], need d.chainData)
  else if op = opRowstat ∨ op = opRowstat2 then ([1, 2, 5], [0], [1, 2], [0])
  else if op = opPool then ([1, 2], [0], [1, 2], [0])
  else if op = opRngfill then ([0], [0], [1, 2, 5], [0])
  else if op = opCopy then ([1, 2, 5], [0], [1, 2, 4, 5], [0])
  else ([1], [1, 2], [1, 2, 5], [0])

/-- Checks 0x0004 and 0x0014: kinds and the carried bit (R458). -/
def Desc.kindFails (d : Desc) : List Fail :=
  let (a, b, c, e) := d.kinds
  let car (o : Operand) (base : Nat) : Bool × Nat × Nat := (o.carried && o.kind != 2, 0x0014, base + 1)
  fails [(!a.contains d.a.kind, 0x0004, 32), (!b.contains d.b.kind, 0x0004, 48)
    , (!c.contains d.c.kind || (d.c.kind == 4 && d.accumulate), 0x0004, 64), (!e.contains d.d.kind, 0x0004, 80)
    , car d.a 32, car d.b 48, car d.c 64, car d.d 80, (d.c.carried && d.accumulate, 0x0014, 65)]

/-- Check 0x0005: shape sources. -/
def Desc.sourceFails (d : Desc) : List Fail :=
  fails ((List.range 4).flatMap (fun i =>
    let s := d.sources.getD i 0
    [(s == 3, 0x0005, 6), ((s == 1 || s == 2) && decide (15 < d.dims.getD i 0), 0x0005, 8 + 4 * i)
      , (s == 2 && d.words == 0, 0x0005, 24)]))

/-- Checks 0x0007 and 0x0008: tiles, K-split and loop order (Table 7.7). -/
def Desc.tileFails (d : Desc) : List Fail :=
  let bore := boreStopOps.contains d.op
  let vec := vectorOps.contains d.op
  let bad (v m lo hi : Nat) : Bool := decide (v % m ≠ 0 ∨ v < lo ∨ hi < v)
  let tk := if d.op = opDwconv then d.par 6 1 * d.par 7 1 else if d.op = opPool then d.par 6 1 * d.par 7 1 else 1
  fails [(if bore then bad d.tm 128 128 4096 else bad d.tm 1 1 4096, 0x0007, 112)
    , (if bore then bad d.tn 16 16 4096 else if vec then bad d.tn 16 16 8192 else bad d.tn 64 64 65536, 0x0007, 114)
    , (isMx d.fo && decide (d.tn % 32 ≠ 0), 0x0007, 114)
    , (d.op == opAttend && decide (d.par 2 2 ≠ 0 ∧ d.tn % d.par 2 2 ≠ 0), 0x0007, 114)
    , (if bore then bad d.tk 128 128 8192 else d.tk != tk, 0x0007, 116)
    , (d.q != 0xFF && (decide (16 < d.q) || !splitOps.contains d.op || decide (d.tk = 0 ∨ 128 * 2 ^ d.q % d.tk ≠ 0)), 0x0007, 7)
    , (decide (5 < d.order), 0x0008, 118)]

/-! Check 0x0006: dimensions. A dimension not yet bound is none. -/

/-- Limits of one dimension (Tables 7.5, 7.6). -/
def Desc.dimFails (d : Desc) (ds : List (Option Nat)) : List Fail :=
  let unitK := [0x10, 0x11, 0x12, 0x14, 0x20, 0x21].contains d.op
  fails ((List.range 4).map (fun i => match ds.getD i none with
    | none => (false, 0x0006, 0)
    | some v => (decide (v = 0 ∨ (if i = 3 then 65536 else 16777216) < v) || (i == 2 && unitK && v != 1)
        || (i == 3 && (d.op == opGather || d.c.kind == 4) && v != 1), 0x0006, 8 + 4 * i)))

/-- Bytes of a row of `n` elements; format 0 counts bytes. -/
def opRowBytes (code n : Nat) : Nat := if code = 0 then n else rowBytes code n

/-- A POOL window of some output row or column misses the map (R405). -/
def emptyWindow (outs stride pad k size : Nat) : Bool :=
  (List.range outs).any (fun y => decide (y * stride + k ≤ pad ∨ pad + size ≤ y * stride))

/-- Relations between M and parameters. -/
def Desc.relationM (d : Desc) (m : Nat) : List Fail :=
  let op := d.op
  if op = opConv then fails [(decide (d.par 6 2 = 0 ∨ m % d.par 6 2 ≠ 0), 0x0006, 8)]
  else if op = opDwconv then fails [(decide (d.par 4 2 = 0 ∨ m % d.par 4 2 ≠ 0), 0x0006, 8)]
  else if op = opPool then
    fails [(decide (d.par 4 2 = 0 ∨ m % d.par 4 2 ≠ 0), 0x0006, 8)
      , (emptyWindow (m / d.par 4 2) (d.par 8 1) (d.par 10 1) (d.par 6 1) (d.par 0 2)
          || emptyWindow (d.par 4 2) (d.par 8 1) (d.par 11 1) (d.par 7 1) (d.par 2 2), 0x0006, 8)]
  else []
/-- Relations between N and parameters. -/
def Desc.relationN (d : Desc) (n : Nat) : List Fail :=
  let op := d.op
  if op = opDwconv then fails [(decide (n % d.par 12 1 ≠ 0), 0x0006, 12)]
  else if op = opAttend then fails [(decide (n ≠ d.par 0 1 * d.par 2 2), 0x0006, 12)]
  else if op = opChain then
    let na := if d.gate1 then 2 * n else n
    fails [((isMx d.fa && decide (na % 32 ≠ 0)) || (d.readsB && isMx d.fb && decide (n % 32 ≠ 0))
        || (isMx d.fo && decide (n % 32 ≠ 0)), 0x0006, 12)
      , (d.gate1 && decide (d.a.stride ≠ 0 ∧ d.a.stride < rowBytes d.fa na), 0x0006, 34)]
  else if op = opRowstat ∨ op = opRowstat2 then
    fails [(decide (d.tn < n), 0x0007, 114), (d.par 4 1 == 1 && decide (n < 2), 0x0006, 12)]
  else if op = opCopy then fails [(isMx d.fa && decide (n % 32 ≠ 0), 0x0006, 12)]
  else if op = opGather then fails [(decide (n % 32 ≠ 0 ∨ n < 32 ∨ 4096 < n), 0x0006, 12)]
  else []
/-- Relations between K and parameters. -/
def Desc.relationK (d : Desc) (k : Nat) : List Fail :=
  let op := d.op
  if op = opMatmul then fails [((isMx d.fa || isMx d.fb) && decide (k % 32 ≠ 0), 0x0006, 16)]
  else if op = opConv then
    fails [(decide (k ≠ d.par 4 2 * d.par 8 1 * d.par 9 1), 0x0006, 16), (isMx d.fb && decide (k % 32 ≠ 0), 0x0006, 16)]
  else if op = opDwconv ∨ op = opPool then fails [(decide (k ≠ d.par 6 1 * d.par 7 1), 0x0006, 16)]
  else []

/-- Limits of the dimensions that are known and their relations to parameters: each check is made as soon as the dimension
that it uses is bound (R300, R409). -/
def Desc.boundFails (d : Desc) (ds : List (Option Nat)) : List Fail :=
  let on (i : Nat) (f : Nat → List Fail) : List Fail := ((ds.getD i none).map f).getD []
  d.dimFails ds ++ on 0 d.relationM ++ on 1 d.relationN ++ on 2 d.relationK
    ++ fails [(d.op == opConv && isMx d.fa && decide (d.par 4 2 % 32 ≠ 0), 0x0006, 16)]

/-- Dimensions known at registration. -/
def Desc.immediates (d : Desc) : List (Option Nat) :=
  (List.range 4).map (fun i => if d.sources.getD i 0 = 0 then some (d.dims.getD i 0) else none)

/-- Every failure of one descriptor at registration; `final` says that it is the last of its program. -/
def Desc.registrationFails (d : Desc) (final : Bool) : List Fail :=
  if !macroOps.contains d.op then [(0x0001, 0)]
  else
    d.reservedFails ++ d.formatFails ++ d.kindFails ++ d.sourceFails ++ d.boundFails d.immediates ++ d.tileFails
      ++ fails [(d.last != final, 0x0011, 1), (!d.crcGood, 0x0012, 126)]

/-- The failing descriptor with the lowest index (R301). -/
def firstFailing (check : Nat → Desc → List Fail) : Nat → List Desc → Option (Nat × Fail)
  | _, [] => none
  | i, d :: ds => match leastFail (check i d) with
    | some f => some (i, f)
    | none => firstFailing check (i + 1) ds

/-- The refusal of a descriptor failure (R129, R226, R301): byte 16 names packet byte 10 (assumption 25). -/
def descriptorRefusal (x : Nat × Fail) : Refuse :=
  { status := 0x12, reason := x.1, offset := 10
    tail := leBytes 2 x.2.1 ++ [1, byte x.2.2], violation := x.2.1 ≠ 0x000B && x.2.1 ≠ 0x0010 }

/-- Registration of a program: its first failure. -/
def registrationFailure (ds : List Desc) : Option (Nat × Fail) :=
  firstFailing (fun i d => d.registrationFails (decide (i + 1 = ds.length))) 0 ds

/-! Layouts and extents (R303, R308, R816). -/

structure Layout where
  /-- Descriptor byte offset of the operand field: 32, 48, 64 or 80. -/
  base : Nat
  kind : Nat
  addr : Nat
  carried : Bool
  transposed : Bool
  code : Nat
  /-- Stored rows of one batch and elements of one stored row. -/
  rows : Nat
  cols : Nat
  rowLen : Nat
  pitch : Nat
  batches : Nat
  deriving DecidableEq, Repr

def Layout.length (l : Layout) : Nat := (l.batches * l.rows - 1) * l.pitch + l.rowLen
def Layout.slot (l : Layout) : Nat := l.addr % 256
/-- The bytes of an operand row by row: its gaps of a stride are not accessed. -/
def Layout.rowRanges (l : Layout) : List Range :=
  if l.pitch = l.rowLen then [⟨l.addr, l.length⟩] else (List.range (l.batches * l.rows)).map (fun r => ⟨l.addr + r * l.pitch, l.rowLen⟩)
/-- The address space of an operand: memories of the group, CLM, the sequence, one slot. -/
def Layout.space (l : Layout) : Nat := if l.kind = 5 then 16 + l.slot else l.kind
/-- The extent in its space: a sequence is one place, a slot starts at byte 0. -/
def Layout.extent (l : Layout) : Range :=
  if l.kind = 4 then ⟨0, 1⟩ else if l.kind = 5 then ⟨0, l.length⟩ else ⟨l.addr, l.length⟩
def Range.meets (a b : Range) : Bool :=
  decide (a.start < b.start + b.len) && decide (b.start < a.start + a.len) && decide (0 < a.len) && decide (0 < b.len)
def Layout.meets (a b : Layout) : Bool := a.space == b.space && a.extent.meets b.extent

/-- The layout of an operand of `r` logical rows of `c` elements (exchanged when transposed). -/
def layout (o : Operand) (base code r c batches : Nat) : Layout :=
  let rows := if o.transposed then c else r
  let cols := if o.transposed then r else c
  let len := opRowBytes code cols
  { base := base, kind := o.kind, addr := o.addr, carried := o.carried, transposed := o.transposed, code := code
    rows := rows, cols := cols, rowLen := len, pitch := if o.stride = 0 then len else o.stride, batches := batches }

def isMemoryKind (k : Nat) : Bool := k == 1 || k == 2 || k == 4 || k == 5

/-- Operand A as it is stored; a transposed one has M contiguous (R305, R331; DEDUCED, assumption 103). -/
def Desc.layoutA (d : Desc) (x : Shape) : Option Layout :=
  let op := d.op
  if !isMemoryKind d.a.kind then none
  else if op = opMatmul ∨ op = opStopmm ∨ op = opDistance then some (layout d.a 32 d.fa x.m x.k x.g)
  else if op = opConv then some (layout d.a 32 d.fa (d.par 0 2 * d.par 2 2) (d.par 4 2) x.g)
  else if op = opDwconv then some (layout d.a 32 d.fa (d.par 0 2 * d.par 2 2) (x.n / d.par 12 1) x.g)
  else if op = opPool then some (layout d.a 32 d.fa (d.par 0 2 * d.par 2 2) x.n x.g)
  else if op = opChain then some (layout d.a 32 d.fa x.m (if d.gate1 then 2 * x.n else x.n) x.g)
  else if op = opGather then some (layout d.a 32 0 (d.par 0 4) x.n 1)
  else some (layout d.a 32 d.fa x.m x.n x.g)

def Desc.layoutB (d : Desc) (x : Shape) : Option Layout :=
  let op := d.op
  if !(d.b.kind == 1 || d.b.kind == 2 || d.b.kind == 5 || (d.b.kind == 4 && op == opAttend)) then none
  else if op = opMatmul ∨ op = opDistance then some (layout d.b 48 d.fb x.k x.n x.g)
  else if op = opConv ∨ op = opDwconv then some (layout d.b 48 d.fb x.k x.n 1)
  else if op = opAttend then some (layout d.b 48 d.fb (d.par 0 1 * x.k) (d.par 2 2) x.g)
  else if op = opChain then
    if d.norm then some (layout d.b 48 0 x.m 16 x.g) else some (layout d.b 48 d.fb x.m x.n x.g)
  else if op = opGather then some (layout d.b 48 0x03 1 x.m 1)
  else none

def Desc.layoutC (d : Desc) (x : Shape) : Option Layout :=
  let op := d.op
  if op = opRowstat ∨ op = opRowstat2 then some (layout d.c 64 0 x.m 16 x.g)
  else if op = opGather then some (layout d.c 64 0 x.m x.n 1)
  else some (layout d.c 64 d.fo x.m x.n x.g)

def Desc.layoutD (d : Desc) (x : Shape) : Option Layout :=
  let op := d.op
  if !(d.d.kind == 1 || d.d.kind == 2) then none
  else if op = opMatmul then some (layout d.d 80 0x14 (if d.par 0 1 = 1 then 1 else x.m) x.n 1)
  else if op = opStopmm then some (layout d.d 80 0x14 (d.par 1 1) x.n 1)
  else if op = opDwconv then some (layout d.d 80 0x14 1 x.n 1)
  else if op = opAttend then some (layout d.d 80 d.fb (d.par 0 1 * x.k) (d.par 2 2) x.g)
  else if op = opChain then some (layout d.d 80 0 1 (64 + 4 * d.vectors * x.n) 1)
  else none

/-- Input layouts; C too where accumulate reads it. -/
def Desc.inputs (d : Desc) (x : Shape) : List Layout := [d.layoutA x, d.layoutB x, d.layoutD x].filterMap id
def Desc.layouts (d : Desc) (x : Shape) : List Layout := d.inputs x ++ (d.layoutC x).toList

/-! Footprint (R312). -/

/-- Bytes of a tile of `r` rows of `c` elements. -/
def tileBytes (code r c : Nat) : Nat :=
  if code = 0 then r * c else ceilDiv (r * c * formatBits code) 8 + (if isMx code then r * c / 32 else 0)

/-- Rounded-up base-2 logarithm. -/
def ceilLog2 (n : Nat) : Nat := if n ≤ 1 then 0 else Nat.log2 (n - 1) + 1

/-- Chunks of one work unit. -/
def Desc.unitChunks (d : Desc) (k : Nat) : Nat :=
  if d.q = 0xFF then ceilDiv k 128 else min (ceilDiv k 128) (2 ^ d.q)

/-- Two buffers of one tile of each input operand that is fetched into CLM, of kind 1, 4 or 5, and the accumulator stack. -/
def Desc.scratchBytes (d : Desc) (x : Shape) : Nat :=
  let op := d.op
  let bore := boreStopOps.contains op
  let held (l : Option Layout) : Bool := match l with
    | some y => y.kind == 1 || y.kind == 4 || y.kind == 5
    | none => false
  let a := if op = opGather then d.tm * d.tn else if op = opAttend then tileBytes d.fa d.tm d.tn
    else if bore then tileBytes d.fa d.tm d.tk
    else if op = opDwconv ∨ op = opPool then tileBytes d.fa (d.tm * d.tk) d.tn
    else if op = opCopy then d.tm * d.tn
    else tileBytes d.fa d.tm (if d.gate1 then 2 * d.tn else d.tn)
  let b := if op = opGather then 4 * d.tm else if bore ∨ op = opDwconv then tileBytes d.fb d.tk d.tn
    else if d.norm then 16 * d.tm else tileBytes d.fb d.tm d.tn
  let e := if op = opMatmul then 4 * d.tn * (if d.par 0 1 = 1 then 1 else d.tm)
    else if op = opStopmm then 4 * d.tn * d.par 1 1 else if op = opDwconv then 4 * d.tn
    else if op = opAttend then tileBytes d.fb d.tk d.tn else 64 + 4 * d.vectors * d.tn
  let buf := (if held (d.layoutA x) then a else 0) + (if held (d.layoutB x) then b else 0) + (if held (d.layoutD x) then e else 0)
  let stack := if op = opCopy ∨ op = opGather then 0 else d.tm * d.tn * 4 * (ceilLog2 (d.unitChunks x.k) + 1)
  2 * buf + stack

def programArea : Nat := 0x3F0000

/-! Ranges as sets. -/

/-- Insertion by start. -/
def insertRange (r : Range) : List Range → List Range
  | [] => [r]
  | x :: xs => if r.start ≤ x.start then r :: x :: xs else x :: insertRange r xs
/-- Touching and overlapping neighbours of a sorted list joined. -/
def joinRanges : Range → List Range → List Range
  | c, [] => [c]
  | c, r :: rs =>
    if r.start ≤ c.start + c.len then joinRanges ⟨c.start, max (c.start + c.len) (r.start + r.len) - c.start⟩ rs
    else c :: joinRanges r rs
/-- The union as disjoint ranges, ascending. -/
def unionRanges (rs : List Range) : List Range :=
  match ((rs.filter (fun r => decide (0 < r.len))).foldl (fun a r => insertRange r a) []) with
  | [] => []
  | c :: r => joinRanges c r
def totalLen (rs : List Range) : Nat := (unionRanges rs).foldl (fun n r => n + r.len) 0
/-- The parts that two unions share. -/
def sharedRanges (a b : List Range) : List Range :=
  (unionRanges a).flatMap (fun x => (unionRanges b).filterMap (fun y =>
    let s := max x.start y.start
    let e := min (x.start + x.len) (y.start + y.len)
    if s < e then some ⟨s, e - s⟩ else none))

/-- CLM operands of a program: run data and carried (R312; a byte counts once, whichever operands name it). -/
def clmRanges (carried : Bool) (ps : List (Desc × Shape)) : List Range :=
  ps.flatMap (fun (d, x) => ((d.layouts x).filter (fun l => l.kind == 2 && l.carried == carried)).map (·.extent))
def footprint (ps : List (Desc × Shape)) (d : Desc) (x : Shape) : Nat :=
  d.scratchBytes x + totalLen (clmRanges false ps) + 2 * totalLen (clmRanges true ps)

/-- The whole units of `u` bytes that a range touches. -/
def Range.aligned (u : Nat) (r : Range) : Range := ⟨r.start / u * u, ceilDiv (r.start + r.len) u * u - r.start / u * u⟩
/-- The in-place lines of HBM and units of a spill window (R542). -/
def journalLines (reads writes : List Range) : List Range :=
  (sharedRanges reads writes).map (fun r => r.aligned (if isSpill r.start then spillUnit else 64))

/-! Stop images (R352 to R354, Tables 9.3, 9.4). -/

structure StopMatrix where
  k : Nat
  n : Nat
  first : Nat
  km : Nat
  deriving DecidableEq, Repr

def stopWn (code : Nat) : Nat := if code = 0x01 then 512 else 256
def StopMatrix.nm (m : StopMatrix) : Nat := 8 / m.km
def StopMatrix.nKs (m : StopMatrix) : Nat := ceilDiv m.k (512 * m.km)
def StopMatrix.nNs (m : StopMatrix) (code : Nat) : Nat := ceilDiv m.n (stopWn code * m.nm)

def slabBytes : Nat := 1048576
def stopMatrix (header : List Byte) (j : Nat) : StopMatrix :=
  let o := 64 + 16 * j
  { k := field header o 4, n := field header (o + 4) 4, first := field header (o + 8) 2, km := field header (o + 10) 1 }

/-- The image byte offset of the first failing field of a Stop image header (R352, R353, R355). -/
def stopImageFault (header : List Byte) (length format : Nat) : Option Nat :=
  let s := field header 2 2
  let n := field header 5 1
  let ms := (List.range n).map (stopMatrix header)
  let runOf (m : StopMatrix) : Range := ⟨m.first, m.nKs * m.nNs format⟩
  let entry (j : Nat) : Option Nat :=
    let m := ms.getD j ⟨0, 0, 0, 0⟩
    let o := 64 + 16 * j
    if m.k < 1 ∨ 16777216 < m.k then some o else if m.n < 1 ∨ 16777216 < m.n then some (o + 4)
    else if ! [1, 2, 4, 8].contains m.km then some (o + 10)
    else if s < m.first + m.nKs * m.nNs format ∨ (ms.take j).any (fun y => (runOf y).meets (runOf m)) then some (o + 8)
    else (firstNonZero header (o + 11) 5).map (fun _ => o + 11)
  if field header 0 2 ≠ 1 then some 0 else if s < 1 ∨ 256 < s ∨ length ≠ 4096 + s * slabBytes then some 2
  else if field header 4 1 ≠ format ∨ (format ≠ 0x01 ∧ format ≠ 0x02) then some 4
  else if n < 1 ∨ 252 < n then some 5
  else ((firstNonZero header 6 58).map (fun _ => 6)).orElse (fun _ =>
    ((List.range n).findSome? entry).orElse (fun _ => firstNonZero header (64 + 16 * n) (4096 - 64 - 16 * n)))

/-! Binding (R317) and the checks made at command checking. -/

/-- What the checking of a command knows. -/
structure Ctx where
  train : Nat
  opcode : Nat
  /-- Slot reference fields in parameter order. -/
  refs : List SlotRef
  /-- Heads, head width, format and tokens per page of the sequence's pool. -/
  history : Option (Nat × Nat × Nat × Nat) := none
  /-- The program may run folded (R603). -/
  folds : Bool := false
  deriving DecidableEq, Repr

/-- Cores that a program of the group may name (R567). -/
def State.groupCores (s : State) (t : Nat) : Nat := 16 * s.groupSize t * (if s.consort.member then s.consort.members else 1)

/-- A descriptor that folds onto a smaller group: no STOPMM and no carried operand (R603). -/
def Desc.foldable (d : Desc) (x : Shape) : Bool := d.op != opStopmm && !(d.layouts x).any (fun l => l.kind == 2 && l.carried)

/-- A dimension of a descriptor: immediate, shape register or memory word. -/
def State.bindDim (s : State) (t : Nat) (d : Desc) (i : Nat) : Nat :=
  let v := d.dims.getD i 0
  match d.sources.getD i 0 with
  | 1 => (s.train t).objects.shapes.getD v 0
  | 2 => leVal (s.hbmRead t (d.words + 4 * v) 4)
  | _ => v
def State.bindShape (s : State) (t : Nat) (d : Desc) : Shape :=
  { m := s.bindDim t d 0, n := s.bindDim t d 1, k := s.bindDim t d 2, g := s.bindDim t d 3 }
def Desc.usesWords (d : Desc) : Bool := d.sources.contains 2

def State.residency? (s : State) (t fn h : Nat) : Option Residency :=
  (s.train t).objects.residencies.find? (fun r => r.handle == h && r.fn == fn)
def State.model? (s : State) (t fn h : Nat) : Option Model :=
  (s.train t).objects.models.find? (fun m => m.handle == h && m.fn == fn)

/-- The Stop image header behind a residency. -/
def State.residencyHeader (s : State) (t : Nat) (r : Residency) : List Byte :=
  match (s.train t).objects.models.find? (·.handle == r.model) with
  | some m => s.hbmRead t m.addr 4096
  | none => []

/-- Checks of STOPMM that need its residency (R349, R360, R361, R374). Weights of the other width than format B is no pairing that
STOPMM accepts (DEDUCED, assumption 114). -/
def State.stopFails (s : State) (t fn : Nat) (d : Desc) (x : Shape) : List Fail :=
  if d.op ≠ opStopmm then []
  else match s.residency? t fn (d.b.addr % 2 ^ 32) with
    | none => [(0x000E, 56)]
    | some r =>
      let h := s.residencyHeader t r
      let m := stopMatrix h (d.par 0 1)
      let known := decide (d.par 0 1 < field h 5 1)
      let wn := stopWn (field h 4 1)
      fails [(r.broken, 0x000E, 56), (decide (d.first ≠ r.firstCore), 0x000E, 120), (decide (d.cores ≠ r.cores), 0x000E, 122)
        , (decide (d.fb ≠ field h 4 1), 0x0003, 3), (!known, 0x0006, 96), (known && decide (x.n ≠ m.n), 0x0006, 12), (known && decide (x.k ≠ m.k), 0x0006, 16)
        , (known && decide (d.tn ≠ wn * m.nm), 0x0007, 114), (known && decide (d.tk ≠ 512 * m.km), 0x0007, 116)
        , (known && decide (d.q = 0xFF ∨ 2 ^ d.q ≠ 4 * m.km), 0x0007, 7)]

/-- Opcodes whose kind 1 operands may lie in a spill window (R496). -/
def spillOps : List Nat := [0x01, 0x03, 0x06, 0x02, 0x10, 0x11, 0x12, 0x04, 0x13, 0x14, 0x20]

/-- The alignment of an HBM operand, which needs no dimension (R183, R481). -/
def Desc.alignFails (d : Desc) (o : Operand) (base : Nat) : List Fail :=
  let table := d.op == opGather && base == 32
  fails [(o.kind == 1 && !isSpill o.addr && decide (o.addr % (if table then 32 else 64) ≠ 0), 0x000A, base + 8)
    , (o.kind == 1 && table && decide (o.stride % 32 ≠ 0), 0x000A, base + 2)]

/-- Check 0x000A and 0x000B of one operand. -/
def State.hbmFails (s : State) (t : Nat) (d : Desc) (l : Layout) : List Fail :=
  if l.kind ≠ 1 then []
  else if isSpill l.addr then
    fails [(!(spillOps.contains d.op) || decide (l.addr % 64 ≠ 0) || !s.spillUsable t l.addr l.length, 0x000A, l.base + 8)]
  else
    let table := d.op == opGather && l.base == 32
    fails [(table && decide (l.pitch % 32 ≠ 0), 0x000A, l.base + 2)
      , (decide (l.addr % (if table then 32 else 64) ≠ 0) || !s.inGroup t l.addr l.length, 0x000A, l.base + 8)
      , (s.rangeRetired t l.addr l.length, 0x000B, l.base + 8)]

/-- Check 0x0013 of one operand (R304). -/
def slotFails (cx : Ctx) (l : Layout) : List Fail :=
  if l.kind ≠ 5 then []
  else
    let r := cx.refs.getD l.slot { region := 0, slot := 0, gen := 0, dir := 0 }
    fails [(noSlot r || decide (r.dir ≠ (if l.base = 64 then 1 else 0)), 0x0013, l.base + 8)]

/-- Checks of operands of kind 4 (R304, R458, R459). -/
def sequenceFails (cx : Ctx) (d : Desc) (x : Shape) : List Fail :=
  let runs := cx.opcode == 0x60 || cx.opcode == 0x52
  fails [(d.b.kind == 4 && !runs, 0x0013, 48), (d.c.kind == 4 && !runs, 0x0013, 64)]
  ++ (match cx.history with
    | none => []
    | some (h, dh, fmt, pt) =>
      (if d.c.kind = 4 then
        fails [(decide (d.fo ≠ fmt), 0x0003, 4), (decide (x.n ≠ 2 * h * dh), 0x0006, 12)
          , (decide (x.m ≠ (if cx.opcode = 0x60 then 1 else pt)), 0x0006, 8)] else [])
      ++ (if d.b.kind = 4 then
        fails [(decide (d.fb ≠ fmt), 0x0003, 3), (decide (x.n ≠ h * dh ∨ d.par 2 2 ≠ dh), 0x0006, 12)] else []))

/-- Check 0x000F: the output meets an input, other than exactly in place in a CHAIN (R308). -/
def overlapFails (d : Desc) (x : Shape) : List Fail :=
  match d.layoutC x with
  | none => []
  | some c => fails ((d.inputs x).map (fun l =>
      (l.meets c && !(d.op == opChain && l.space == c.space && l.extent == c.extent), 0x000F, 72)))

/-- Check 0x0010: with no barrier, this descriptor and the next (R309). -/
def barrierFails (d : Desc) (x : Shape) (next : Option (Desc × Shape)) : List Fail :=
  match next with
  | none => []
  | some (e, y) =>
    let hit := ((d.layoutC x).toList.any (fun c => (e.layouts y).any (·.meets c)))
      || ((e.layoutC y).toList.any (fun c => (d.layouts x).any (·.meets c)))
    fails [(d.noBarrier && hit, 0x0010, 1)]

/-- Dimensions that are bound although the shape words cannot be read. -/
def State.boundWithoutWords (s : State) (t : Nat) (d : Desc) : List (Option Nat) :=
  (List.range 4).map (fun i => if d.sources.getD i 0 = 2 then none else some (s.bindDim t d i))

/-- Every failure of one descriptor at command checking (R300). Where its shape words cannot be read, a dimension that they
give is not bound, and only what needs no such dimension is checked beside them (assumption 94). -/
def State.checkingFails (s : State) (cx : Ctx) (fn : Nat) (ps : List (Desc × Shape)) (i : Nat) (d : Desc) (x : Shape) :
    List Fail :=
  let t := cx.train
  let scr : Range := ⟨4096 * d.scratch, d.scratchBytes x⟩
  let clm := clmRanges false ps ++ clmRanges true ps
  let binding := fails [(d.usesWords && (decide (d.words % 64 ≠ 0) || isSpill d.words || !s.inGroup t d.words 64), 0x000A, 24)
      , (d.usesWords && s.rangeRetired t d.words 64, 0x000B, 24)]
  if binding ≠ [] then
    binding ++ d.boundFails (s.boundWithoutWords t d) ++ fails [(decide (d.cores = 0), 0x0009, 122)
      , (decide (s.groupCores t < d.first + d.cores) && !cx.folds, 0x0009, 120)]
      ++ d.alignFails d.a 32 ++ d.alignFails d.b 48 ++ d.alignFails d.c 64 ++ d.alignFails d.d 80
  else d.boundFails [some x.m, some x.n, some x.k, some x.g]
    ++ fails [(decide (d.cores = 0), 0x0009, 122), (decide (s.groupCores t < d.first + d.cores) && !(cx.folds && d.foldable x), 0x0009, 120)
      , (decide (programArea < scr.start + scr.len), 0x000C, 124), (decide (programArea < footprint ps d x), 0x000D, 112)
      , (clm.any (·.meets scr), 0x0015, 124)]
    ++ (d.layouts x).flatMap (fun l => s.hbmFails t d l ++ slotFails cx l
      ++ fails [(l.kind == 2 && (decide (l.addr % 64 ≠ 0) || decide (programArea < l.addr + l.length)), 0x000C, l.base + 8)])
    ++ s.stopFails t fn d x ++ sequenceFails cx d x ++ overlapFails d x ++ barrierFails d x ps[i + 1]?

/-- The first failure of a program at command checking. -/
def State.checkingFailure (s : State) (cx : Ctx) (fn : Nat) (ps : List (Desc × Shape)) : Option (Nat × Fail) :=
  firstFailing (fun i d => s.checkingFails cx fn ps i d ((ps.getD i (d, ⟨1, 1, 1, 1⟩)).2)) 0 (ps.map (·.1))

/-- Reads and writes of HBM by a program, spill windows included (R541). -/
def programReads (ps : List (Desc × Shape)) : List Range :=
  ps.flatMap (fun (d, x) => ((d.inputs x).filter (·.kind == 1)).map (·.extent)
    ++ (if d.accumulate then ((d.layoutC x).toList.filter (·.kind == 1)).map (·.extent) else []))
def programWrites (ps : List (Desc × Shape)) : List Range :=
  ps.flatMap (fun (d, x) => ((d.layoutC x).toList.filter (·.kind == 1)).map (·.extent))

/-- In-place bytes (R542). -/
def inPlaceBytes (reads writes : List Range) : Nat := totalLen (journalLines reads writes)

/-- Bytes that a program writes to each of its slots: the largest output extent naming it. -/
def slotOutput (ps : List (Desc × Shape)) (ordinal : Nat) : Nat :=
  ps.foldl (fun n (d, x) => match d.layoutC x with
    | some l => if l.kind = 5 ∧ l.slot = ordinal then max n l.length else n
    | none => n) 0

/-- Models that a program uses, in order of first use (R433). -/
def State.programModels (s : State) (t fn : Nat) (ps : List (Desc × Shape)) : List Model :=
  let ms := (s.train t).objects.models
  let uses := ps.flatMap (fun (d, x) =>
    (if d.b.kind = 3 then ((s.residency? t fn (d.b.addr % 2 ^ 32)).bind (fun r => ms.find? (·.handle == r.model))).toList else [])
    ++ ((d.layouts x).filter (·.kind == 1)).filterMap (fun l =>
      ms.find? (fun m => decide (m.addr ≤ l.addr) && decide (l.addr + l.length ≤ m.addr + m.length))))
  uses.eraseDups

/-- The replay token (Table 11.7). -/
def State.replayToken (s : State) (t fn seed : Nat) (ps : List (Desc × Shape)) : List Byte :=
  let flags := flag (ps.any (fun (d, _) => d.fastStage)) + 2 * flag (ps.any (fun (d, _) => decide (d.mode % 4 = 1)))
  leBytes 2 1 ++ leBytes 2 1 ++ leBytes 2 1 ++ leBytes 2 flags ++ leBytes 8 seed
    ++ sha256 ((s.programModels t fn ps).flatMap (·.digest)) ++ s.firmwareDigest ++ leBytes 2 (s.train t).n5 ++ zeros 46

/-- The replay token identifier (R432). -/
def tokenId (token : List Byte) : List Byte := (sha256 token).take 8

end Sys2Proof.Machine
end

