-- ==== Sys2Proof/Machine/Cost.lean ====
section
/-! DEFINITION. Cost estimates: the tile walk, the compute and memory terms, energy, Bellows and history charges, the paced
estimate (R55 to R58, R179, R312 to R322, R341, R347, R360 to R363, R408, R446, R462, R499, R543). -/

namespace Sys2Proof.Machine

/-! Times in ns as fractions; cycles are rounded up (R179, R321). -/

structure Frac where
  num : Nat
  den : Nat := 1
  deriving DecidableEq, Repr

def Frac.add (a b : Frac) : Frac := ⟨a.num * b.den + b.num * a.den, a.den * b.den⟩
/-- Core cycles of a time in ns at a power step. -/
def Frac.cycles (a : Frac) (step : Nat) : Nat := ceilDiv (a.num * clockOf step) (a.den * 100)

/-- Bellows payload throughput of the whole link at x16, in GB/s times 32 (Tables 5.6, 24.5). -/
def linkRate (gen : Nat) : Nat :=
  if gen = 6 then 3200 else if gen = 5 then 1600 else if gen = 4 then 800 else if gen = 3 then 400
  else if gen = 2 then 200 else 100
/-- Time in ns of `n` bytes at the share of a group of `size` partitions (R179). -/
def shareTime (gen width size n : Nat) : Frac := ⟨n * 32 * 256, max 1 (linkRate gen * width * size)⟩
def State.bellowsTime (s : State) (t n : Nat) : Frac := shareTime s.dev.linkGen s.dev.linkWidth (s.groupSize t) n
/-- Cycles of one input slot of slot size `n`, and of one output of `n` bytes (R179). -/
def State.inputCharge (s : State) (t n : Nat) : Nat := (Frac.add ⟨2000, 1⟩ (s.bellowsTime t n)).cycles (s.train t).step
def State.outputCharge (s : State) (t n : Nat) : Nat := (Frac.add ⟨250, 1⟩ (s.bellowsTime t n)).cycles (s.train t).step

/-- HBM bandwidth of a group in GB/s (Table 3.3). -/
def groupBandwidth (n : Nat) : Nat :=
  if n = 1 then 614 else if n = 2 then 1228 else if n = 4 then 2460 else if n = 8 then 4910 else 9830
/-- The charge of one run of HBM bytes (R321). -/
def runCharge (n : Nat) : Nat := ceilDiv (max n 2048) 64 * 64

/-! Energy in fJ (Tables 1.5, 7.10, 8.10). -/

def opEnergy (cls : Nat) : Nat := if cls = 0 then 56 else if cls = 1 then 104 else if cls = 2 then 210 else 1600
def laneEnergy : Nat := 1500
def sfuEnergy (precise : Bool) : Nat := if precise then 10000 else 3000
def byteEnergy : Nat := 30000
def gatherEnergy : Nat := 1500000
/-- Energy of a byte sent to another card (R572). -/
def linkEnergy : Nat := 60000
/-- Two lists added place by place; the longer one's rest stays. -/
def addLists : List Nat → List Nat → List Nat
  | [], bs => bs
  | as, [] => as
  | a :: as, b :: bs => (a + b) :: addLists as bs

/-! The tile walk (R313 to R316). -/

structure TileUnit where
  g : Nat
  i : Nat
  j : Nat
  u : Nat
  deriving DecidableEq, Repr

/-- (i, j, u) in loop order (Table 7.8). -/
def loopOrder (o nm nn nu : Nat) : List (Nat × Nat × Nat) :=
  let nest (a b c : Nat) : List (Nat × Nat × Nat) :=
    (List.range a).flatMap (fun x => (List.range b).flatMap (fun y => (List.range c).map (fun z => (x, y, z))))
  if o = 0 then nest nm nn nu
  else if o = 1 then (nest nm nu nn).map (fun (i, u, j) => (i, j, u))
  else if o = 2 then (nest nn nm nu).map (fun (j, i, u) => (i, j, u))
  else if o = 3 then (nest nn nu nm).map (fun (j, u, i) => (i, j, u))
  else if o = 4 then (nest nu nm nn).map (fun (u, i, j) => (i, j, u))
  else (nest nu nn nm).map (fun (u, j, i) => (i, j, u))

/-- Columns that Tn divides: bytes of a row for COPY and GATHER. -/
def Desc.columns (d : Desc) (x : Shape) : Nat := if d.op = opCopy then opRowBytes d.fa x.n else x.n

def Desc.hasK (d : Desc) : Bool := splitOps.contains d.op
def Desc.splitUnits (d : Desc) (x : Shape) : Nat :=
  if d.hasK ∧ d.q ≠ 0xFF then ceilDiv (ceilDiv x.k 128) (2 ^ d.q) else 1
def Desc.units (d : Desc) (x : Shape) : List TileUnit :=
  let l := loopOrder d.order (ceilDiv x.m d.tm) (ceilDiv (d.columns x) d.tn) (d.splitUnits x)
  (List.range x.g).flatMap (fun g => l.map (fun (i, j, u) => ⟨g, i, j, u⟩))

/-- The core, within the core set, that runs unit `w`: the rotation of R313, or the slab's core (R361). -/
def Desc.coreOf (d : Desc) (mat : StopMatrix) (w : Nat) (v : TileUnit) : Nat :=
  if d.op = opStopmm then mat.first + v.j * mat.nKs + v.u else if d.cores = 0 then 0 else w % d.cores

/-- Steps of K of a unit. -/
def Desc.kSteps (d : Desc) (x : Shape) (u : Nat) : List (Nat × Nat) :=
  if d.hasK then
    let lo := if d.q = 0xFF then 0 else u * 2 ^ d.q * 128
    let hi := if d.q = 0xFF then x.k else min x.k (lo + 2 ^ d.q * 128)
    (List.range (ceilDiv (hi - lo) d.tk)).map (fun i => (lo + i * d.tk, min hi (lo + (i + 1) * d.tk)))
  else [(0, 1)]

/-! HBM runs that a fetch or write touches. -/

/-- The byte ranges of logical rows r0 to r1 and columns c0 to c1 of an operand. -/
def Layout.tile (l : Layout) (g r0 r1 c0 c1 : Nat) : List Range :=
  let (sr0, sr1, sc0, sc1) := if l.transposed then (c0, c1, r0, r1) else (r0, r1, c0, c1)
  let base := l.addr + (if 1 < l.batches then g else 0) * l.rows * l.pitch
  let w := if l.code = 0 then 8 else formatBits l.code
  if sr1 ≤ sr0 ∨ sc1 ≤ sc0 then []
  else if sc0 = 0 ∧ l.cols ≤ sc1 ∧ l.pitch = l.rowLen then [⟨base + sr0 * l.pitch, (sr1 - sr0) * l.pitch⟩]
  else
    (List.range (sr1 - sr0)).flatMap (fun i =>
      let row := base + (sr0 + i) * l.pitch
      let lo := sc0 * w / 8
      let el : Range := ⟨row + lo, ceilDiv (min sc1 l.cols * w) 8 - lo⟩
      if isMx l.code then
        [el, ⟨row + l.cols * w / 8 + sc0 / 32, ceilDiv (min sc1 l.cols) 32 - sc0 / 32⟩] else [el])

/-- Geometry of a convolution window. -/
structure Window where
  inH : Nat
  inW : Nat
  outW : Nat
  kw : Nat
  stride : Nat
  dilation : Nat
  padTop : Nat
  padLeft : Nat
  deriving DecidableEq, Repr

def Desc.window (d : Desc) : Window :=
  if d.op = opConv then ⟨d.par 0 2, d.par 2 2, d.par 6 2, d.par 9 1, d.par 10 1, d.par 11 1, d.par 12 1, d.par 13 1⟩
  else if d.op = opDwconv then
    ⟨d.par 0 2, d.par 2 2, d.par 4 2, d.par 7 1, d.par 8 1, d.par 9 1, d.par 10 1, d.par 11 1⟩
  else ⟨d.par 0 2, d.par 2 2, d.par 4 2, d.par 7 1, d.par 8 1, 1, d.par 10 1, d.par 11 1⟩

/-- The input pixel of tap `p` of output pixel `m`; none outside the map (R335). -/
def Window.pixel (v : Window) (m p : Nat) : Option Nat :=
  let y : Int := (m / v.outW * v.stride : Nat) + (p / v.kw * v.dilation : Nat) - (v.padTop : Int)
  let x : Int := (m % v.outW * v.stride : Nat) + (p % v.kw * v.dilation : Nat) - (v.padLeft : Int)
  if 0 ≤ y ∧ y < v.inH ∧ 0 ≤ x ∧ x < v.inW then some (y.toNat * v.inW + x.toNat) else none

/-- The ranges of the implicit patch of pixels m0 to m1, taps p0 to p1 and channels c0 to c1. -/
def Layout.patch (l : Layout) (v : Window) (g m0 m1 p0 p1 c0 c1 : Nat) : List Range :=
  unionRanges ((List.range (m1 - m0)).flatMap (fun i => (List.range (p1 - p0)).flatMap (fun j =>
    match v.pixel (m0 + i) (p0 + j) with
    | some px => l.tile g px (px + 1) c0 c1
    | none => [])))

/-! Fetches. -/

structure Fetch where
  base : Nat
  key : List Nat
  ranges : List Range
  deriving DecidableEq, Repr

/-- A fetch of an operand of kind 1; others touch no HBM. -/
def fetchOf (l : Option Layout) (key : List Nat) (f : Layout → List Range) : List Fetch :=
  match l with
  | some y => if y.kind = 1 then [⟨y.base, key, f y⟩] else []
  | none => []

/-- Input fetches of the steps of one unit, in order (R316). -/
def Desc.unitFetches (d : Desc) (x : Shape) (v : TileUnit) : List (List Fetch) :=
  let A := d.layoutA x
  let B := d.layoutB x
  let D := d.layoutD x
  let r0 := v.i * d.tm
  let r1 := min x.m (r0 + d.tm)
  let c0 := v.j * d.tn
  let c1 := min (d.columns x) (c0 + d.tn)
  let op := d.op
  let whole (l : Layout) : List Range := l.tile v.g r0 r1 c0 c1
  if op = opAttend then
    let dh := max 1 (d.par 2 2)
    let heads := (List.range (ceilDiv (c1 - c0) dh)).map (· + c0 / dh)
    let ks := (List.range (ceilDiv x.k d.tk)).map (fun i => (i * d.tk, min x.k ((i + 1) * d.tk)))
    let q := fetchOf A [v.g, v.i, v.j] whole
    let keys (l : Option Layout) (h : Nat) (k : Nat × Nat) : List Fetch :=
      fetchOf l [v.g, h, k.1] (fun y => y.tile v.g (h * x.k + k.1) (h * x.k + k.2) 0 dh)
    heads.flatMap (fun h => (ks ++ ks).map (fun k => q ++ keys B h k) ++ ks.map (fun k => q ++ keys D h k))
  else
    let dEnd : List Fetch :=
      if v.u ≠ 0 then []
      else if op = opMatmul then
        (if d.par 0 1 = 1 then fetchOf D [0, v.j] (fun y => y.tile 0 0 1 c0 c1)
         else fetchOf D [v.i, v.j] (fun y => y.tile 0 r0 r1 c0 c1))
      else if op = opStopmm then fetchOf D [v.j] (fun y => y.tile 0 0 (d.par 1 1) c0 c1)
      else if op = opDwconv then fetchOf D [v.j] (fun y => y.tile 0 0 1 c0 c1)
      else if op = opChain then fetchOf D [v.j] (fun y => unionRanges
        (⟨y.addr, 64⟩ :: (List.range d.vectors).map (fun q => ⟨y.addr + 64 + 4 * (q * x.n + c0), 4 * (c1 - c0)⟩)))
      else []
    let steps := d.kSteps x v.u
    let per (k : Nat × Nat) : List Fetch :=
      if op = opMatmul ∨ op = opDistance then
        fetchOf A [v.g, v.i, k.1] (fun y => y.tile v.g r0 r1 k.1 k.2) ++ fetchOf B [v.g, k.1, v.j] (fun y => y.tile v.g k.1 k.2 c0 c1)
      else if op = opStopmm then fetchOf A [v.g, v.i, k.1] (fun y => y.tile v.g r0 r1 k.1 k.2)
      else if op = opConv then
        let cin := max 1 (d.par 4 2)
        fetchOf A [v.g, v.i, k.1] (fun y => y.patch d.window v.g r0 r1 (k.1 / cin) (ceilDiv k.2 cin) 0 cin)
          ++ fetchOf B [k.1, v.j] (fun y => y.tile 0 k.1 k.2 c0 c1)
      else if op = opDwconv then
        let mu := max 1 (d.par 12 1)
        fetchOf A [v.g, v.i, v.j] (fun y => y.patch d.window v.g r0 r1 0 x.k (c0 / mu) (ceilDiv c1 mu))
          ++ fetchOf B [v.j] (fun y => y.tile 0 0 x.k c0 c1)
      else if op = opPool then fetchOf A [v.g, v.i, v.j] (fun y => y.patch d.window v.g r0 r1 0 x.k c0 c1)
      else if op = opChain then
        fetchOf A [v.g, v.i, v.j] (fun y => whole y ++ (if d.gate1 then y.tile v.g r0 r1 (x.n + c0) (x.n + c1) else []))
          ++ (if d.norm then fetchOf B [v.g, v.i] (fun y => y.tile v.g r0 r1 0 16) else fetchOf B [v.g, v.i, v.j] whole)
      else if op = opGather then fetchOf B [v.i] (fun y => y.tile 0 0 1 r0 r1)
      else if op = opRngfill then []
      else if op = opCopy then
        fetchOf A [v.g, v.i, v.j] (fun y => ({ y with code := 0, cols := d.columns x }).tile v.g r0 r1 c0 c1)
      else fetchOf A [v.g, v.i, v.j] whole
    (steps.dropLast.map per) ++ [per (steps.getLastD (0, 1)) ++ dEnd]

/-- Fetches that a core issues: those whose tile differs from the operand's previous one; each with its step index. -/
def issuedFetches : Nat → List (Nat × List Nat) → List (List Fetch) → List (Nat × Fetch)
  | _, _, [] => []
  | n, prev, fs :: rest =>
    let (prev', out) := fs.foldl (fun (acc : List (Nat × List Nat) × List (Nat × Fetch)) f =>
      if acc.1.any (fun p => p.1 == f.base && p.2 == f.key) then acc
      else ((f.base, f.key) :: acc.1.filter (·.1 != f.base), acc.2 ++ [(n, f)])) (prev, [])
    out ++ issuedFetches (n + 1) prev' rest

/-- The multicast bit of an operand (Table 7.3). -/
def Desc.multicasts (d : Desc) (base : Nat) : Bool :=
  bit d.multicast (if base = 32 then 0 else if base = 48 then 1 else 2)

/-- Multicast fetches of one compute tile at one step are served once (R316). -/
def dedupe (seen : List (Nat × Nat × Nat × List Nat)) (d : Desc) : List (Nat × Nat × Fetch) → List (Nat × Fetch)
  | [] => []
  | (ct, n, f) :: r =>
    if d.multicasts f.base then
      (if seen.contains (ct, n, f.base, f.key) then dedupe seen d r else (ct, f) :: dedupe ((ct, n, f.base, f.key) :: seen) d r)
    else (ct, f) :: dedupe seen d r

/-- The tile of C of a unit, in HBM. -/
def Desc.outputRanges (d : Desc) (x : Shape) (v : TileUnit) : List Range :=
  let r0 := v.i * d.tm
  let r1 := min x.m (r0 + d.tm)
  let c0 := v.j * d.tn
  let c1 := min (d.columns x) (c0 + d.tn)
  match d.layoutC x with
  | some l => if l.kind ≠ 1 then []
    else if d.op = opRowstat ∨ d.op = opRowstat2 then l.tile v.g r0 r1 0 16
    else if d.op = opCopy then ({ l with code := 0, cols := d.columns x }).tile v.g r0 r1 c0 c1
    else l.tile v.g r0 r1 c0 c1
  | none => []

/-! Terms. -/

structure HistoryCost where
  heads : Nat
  dh : Nat
  bytes : Nat
  pt : Nat
  pageLen : Nat
  /-- The end position at checking, the logical numbers of the pages spilled then, the new pages that may spill, and whether
  the append may write a spilled page (R463). -/
  last : Nat
  spilled : List Nat
  newPages : Nat
  spillWrite : Bool
  tokens : Nat
  deriving DecidableEq, Repr

/-- Pages of a window of `k` positions that are counted as spilled (R463). -/
def HistoryCost.spilledIn (h : HistoryCost) (k : Nat) : Nat :=
  (h.spilled.filter (fun l => decide ((h.last - k) / h.pt ≤ l))).length + h.newPages

/-- What a consort group's cost depends on beside its descriptors: the number of its first core on a card, its cores on
one card, and the cards (R571, R572); one card otherwise. -/
structure Cards where
  first : Nat
  cores : Nat
  count : Nat
  deriving DecidableEq, Repr

/-- The compute tile of the core at an index of the group, counted over the cards. -/
def Cards.tileOf (k : Cards) (core : Nat) : Nat := core / k.cores * 4 + (k.first + core % k.cores) / 64
def Cards.cardOf (k : Cards) (core : Nat) : Nat := core / k.cores
/-- The card that holds the bytes of a list of ranges: of HBM bits 43 to 40 of the address, of a spill window the leader (R567). -/
def cardOfRanges (rs : List Range) : Nat :=
  match rs with
  | r :: _ => if isSpill r.start then 0 else r.start / 2 ^ 40
  | [] => 0

structure Cost where
  compute : Nat
  /-- HBM long-burst bytes charged, GATHER accesses, spill bytes read and written. -/
  bytes : Nat
  accesses : Nat
  spillRead : Nat
  spillWritten : Nat
  /-- Bytes that pass between cards (R572). -/
  remote : Nat
  /-- Cycles charged separately. -/
  extra : Nat
  /-- Energy by card. -/
  energy : List Nat
  deriving DecidableEq, Repr

/-- Cycles of a block of `c` streamed columns in a pairing class (R324). -/
def blockCycles (cls c : Nat) : Nat :=
  max (if cls = 0 then ceilDiv c 2 else if cls = 1 then c else if cls = 2 then 2 * c else 16 * c) 128

def Desc.pairClass (d : Desc) : Nat :=
  if d.op = opDistance then 1
  else if d.op = opAttend then (if formatBits d.fa = 8 ∧ formatBits d.fb = 8 then 1 else 2)
  else (pairing d.fa d.fb).getD 3

/-- The unit cost (Table 7.9, R341, R363). -/
def Desc.unitCost (d : Desc) (x : Shape) (v : TileUnit) : Nat :=
  let op := d.op
  if op = opMatmul ∨ op = opConv ∨ op = opDistance then
    128 + ceilDiv d.tm 128 * ceilDiv ((d.kSteps x v.u).length * d.tk) 128 * blockCycles d.pairClass d.tn
  else if op = opStopmm then 64 + (if d.fb = 0x01 then 64 else 128) * d.tm
  else if op = opAttend then
    let dh := max 1 (d.par 2 2)
    let heads := d.tn / dh
    let score := ceilDiv d.tm 128 * ceilDiv dh 128 * blockCycles d.pairClass d.tk
    let value := ceilDiv d.tm 128 * ceilDiv d.tk 128 * blockCycles 2 dh
    128 + heads * (ceilDiv x.k d.tk * (2 * score + value + (16 + ceilDiv (d.tm * d.tk) 128) + (16 + ceilDiv (d.tm * d.tk) 32))
      + (16 + ceilDiv (d.tm * dh) 128))
  else if op = opCopy ∨ op = opGather then 0
  else
    let lanes := if d.preciseStage ∨ (op = opRngfill ∧ d.par 0 1 = 2) then 32 else 128
    let p := if op = opRowstat2 then 2 else if op = opDwconv ∨ op = opPool then d.tk else 1
    16 + p * ceilDiv (d.tm * d.tn) lanes

/-- Energy of one unit without memory (R322, R347, R408, R446). ATTEND's vector passes are charged one stage each and a
precise result for each exponential (DEDUCED: assumption 28). -/
def Desc.unitEnergy (d : Desc) (x : Shape) (v : TileUnit) : Nat :=
  let op := d.op
  let els := d.tm * d.tn
  if op = opMatmul ∨ op = opConv ∨ op = opDistance then
    2 * 128 * ceilDiv d.tm 128 * d.tn * 128 * ceilDiv ((d.kSteps x v.u).length * d.tk) 128
      * (if op = opDistance then 110 else opEnergy d.pairClass)
  else if op = opStopmm then 2 * d.tm * d.tn * d.tk * (if d.fb = 0x01 then 22 else 85)
  else if op = opAttend then
    let dh := max 1 (d.par 2 2)
    let heads := d.tn / dh
    let score := 2 * 128 * ceilDiv d.tm 128 * d.tk * 128 * ceilDiv dh 128 * opEnergy d.pairClass
    let value := 2 * 128 * ceilDiv d.tm 128 * dh * 128 * ceilDiv d.tk 128 * opEnergy 2
    heads * (ceilDiv x.k d.tk * (2 * score + value + d.tm * d.tk * (2 * laneEnergy + sfuEnergy true)) + d.tm * dh * laneEnergy)
  else if op = opChain then
    els * max 1 d.stages.length * laneEnergy + (if d.sfuStage?.isSome then els * sfuEnergy d.preciseStage else 0)
  else if op = opRowstat then els * 3 * laneEnergy + d.tm * sfuEnergy true
  else if op = opRowstat2 then els * 4 * laneEnergy + d.tm * sfuEnergy true
  else if op = opDwconv then els * (d.tk + flag (d.par 13 1 != 0 || d.accumulate)) * laneEnergy
  else if op = opPool then els * d.tk * laneEnergy
  else if op = opRngfill then els * 2 * laneEnergy + (if d.par 0 1 = 2 then els * 3 * sfuEnergy true else 0)
  else 0

/-- Bytes of the whole spill units that a list of ranges touches (R499). -/
def spillUnits (rs : List Range) : Nat :=
  totalLen ((rs.filter (fun r => isSpill r.start && decide (0 < r.len))).map (Range.aligned spillUnit))

/-- HBM bytes charged and spill bytes in whole units of a list of ranges. -/
def chargeOf (rs : List Range) : Nat × Nat :=
  (((unionRanges rs).filter (fun r => !isSpill r.start)).foldl (fun n r => n + runCharge r.len) 0, spillUnits rs)

/-- Bytes of the spill units that a list of ranges covers in part: such a unit is read once when it is written (R499). -/
def partialUnits (rs : List Range) : Nat :=
  let whole (r : Range) : Nat := (r.start + r.len) / spillUnit * spillUnit - ceilDiv r.start spillUnit * spillUnit
  spillUnits rs - ((unionRanges rs).filter (fun r => isSpill r.start)).foldl (fun n r => n + whole r) 0

/-- Bytes of HBM of a list of ranges: those that a core of card `card` reads or writes on another card (R572). -/
def remoteBytes (card : Nat) (rs : List Range) : Nat :=
  ((unionRanges rs).filter (fun r => !isSpill r.start && r.start / 2 ^ 40 != card)).foldl (fun n r => n + r.len) 0

/-- The cost of one descriptor in one run (R319 to R322, R571, R572). -/
def Desc.cost (d : Desc) (x : Shape) (cards : Cards) (mat : StopMatrix) (hist : Option HistoryCost) (share : Nat → Nat → Nat) :
    Cost :=
  let us := d.units x
  let core (c : Nat) : Nat := (d.first + c) % (cards.cores * cards.count)
  let owned := (us.zip (List.range us.length)).map (fun (v, w) => (core (d.coreOf mat w v), v))
  let cores := (((List.range d.cores).map core).eraseDups).filter (fun c => owned.any (·.1 == c))
  let mine (c : Nat) : List TileUnit := (owned.filter (·.1 == c)).map (·.2)
  let combine := ceilDiv (d.tm * d.tn) 128
  let ownerOf (v : TileUnit) : Nat :=
    ((owned.find? (fun (_, y) => y.g == v.g && y.i == v.i && y.j == v.j && y.u == 0)).map (·.1)).getD 0
  let owners := (us.filter (fun v => v.u != 0)).map ownerOf
  let compute := cores.foldl (fun m c =>
    max m ((mine c).foldl (fun n v => n + d.unitCost x v) 0 + (owners.filter (· == c)).length * combine)) 0
  let issued := cores.flatMap (fun c =>
    (issuedFetches 0 [] ((mine c).flatMap (d.unitFetches x))).map (fun (n, f) => (cards.tileOf c, n, f)))
  let fetched := dedupe [] d issued
  let rd := fetched.map (fun f => chargeOf f.2.ranges)
  let first := owned.filter (·.2.u == 0)
  let outs := first.map (fun v => d.outputRanges x v.2)
  let wr := outs.map chargeOf
  let sum (l : List Nat) : Nat := l.foldl (· + ·) 0
  let partial' := sum (outs.map partialUnits)
  let accB := if d.accumulate then 2 else 1
  let k4 := match hist with
    | none => (0, 0)
    | some h =>
      let page := h.heads * max (2 * h.pt * h.dh * h.bytes) 2048
      let pages := ceilDiv x.k h.pt + 1
      let far := min pages (h.spilledIn x.k)
      let rdPart := if d.b.kind = 4 then ((pages - far) * page, far * share 2000 h.pageLen) else (0, 0)
      let wrPart := if d.c.kind = 4 then
        (if h.spillWrite then (0, share 250 (2 * h.heads * h.tokens * h.dh * h.bytes)) else (page, 0)) else (0, 0)
      (rdPart.1 + wrPart.1, rdPart.2 + wrPart.2)
  let bytes := sum (rd.map (·.1)) + accB * sum (wr.map (·.1)) + k4.1
  let sr := sum (rd.map (·.2)) + (accB - 1) * sum (wr.map (·.2)) + (if d.accumulate then 0 else partial')
  let sw := sum (wr.map (·.2))
  let acc := if d.op = opGather then x.m * x.n / 32 else 0
  let at_ (c : Nat) : Nat := cards.cardOf c
  let table := (((d.layoutA x).map (fun l => if isSpill l.addr then 0 else l.addr / 2 ^ 40)).getD 0)
  -- what is sent, by the card that sends it: to the reader, to the owner of a tile, to the card written
  let sent : List (Nat × Nat) :=
    (fetched.map (fun (tile, f) => (cardOfRanges f.ranges, remoteBytes (tile / 4) f.ranges)))
    ++ ((first.zip outs).flatMap (fun (v, rs) =>
      let n := remoteBytes (at_ v.1) rs
      (at_ v.1, n) :: (if d.accumulate then [(cardOfRanges rs, n)] else [])))
    ++ ((owned.filter (·.2.u != 0)).map (fun (c, v) => (at_ c, if at_ c = at_ (ownerOf v) then 0 else d.tm * d.tn * 4)))
    ++ (if d.op = opGather then owned.map (fun (c, v) => (table, if at_ c = table then 0 else
          (min x.m ((v.i + 1) * d.tm) - v.i * d.tm) * (min x.n ((v.j + 1) * d.tn) - v.j * d.tn))) else [])
  let on (k : Nat) (l : List (Nat × Nat)) : Nat := sum ((l.filter (·.1 == k)).map (·.2))
  let moved : List (Nat × Nat) :=
    ((fetched.zip rd).map (fun (f, b, p) => (cardOfRanges f.2.ranges, b + p)))
    ++ ((outs.zip wr).map (fun (rs, b, p) => (cardOfRanges rs, accB * (b + p) + (if d.accumulate then 0 else partialUnits rs))))
    ++ [(0, k4.1)]
  { compute := compute, bytes := bytes, accesses := acc, spillRead := sr, spillWritten := sw
    remote := sum (sent.map (·.2)), extra := k4.2
    energy := (List.range cards.count).map (fun k =>
      (owned.filter (fun v => at_ v.1 == k)).foldl (fun n v => n + d.unitEnergy x v.2) 0 + on k moved * byteEnergy
        + (if k = table then acc * gatherEnergy else 0) + on k sent * linkEnergy) }

/-- Ligature time of remote bytes in ns (R572): 2 us, and the share of the group on one card. -/
def remoteTime (torus : Bool) (size n : Nat) : Frac :=
  if n = 0 then ⟨0, 1⟩ else Frac.add ⟨2000, 1⟩ ⟨n * (if torus then 2 else 4), 25 * max 1 size⟩

/-- Cycles of a descriptor: 40 and the larger of its terms. -/
def State.descCycles (s : State) (t : Nat) (c : Cost) : Nat :=
  let n := s.groupSize t
  let T := Frac.add ⟨c.bytes, groupBandwidth n⟩ ⟨c.accesses * 100, 15 * n⟩
  let T := if c.spillRead = 0 then T else (T.add ⟨2000, 1⟩).add (s.bellowsTime t c.spillRead)
  let T := if c.spillWritten = 0 then T else (T.add ⟨250, 1⟩).add (s.bellowsTime t c.spillWritten)
  let T := T.add (remoteTime (s.consort.topology == 1) n c.remote)
  40 + max c.compute (T.cycles (s.train t).step + c.extra)

/-- An estimate: core cycles and fJ (R55). -/
structure Estimate where
  cycles : Nat := 0
  energy : Nat := 0
  deriving DecidableEq, Repr

def Estimate.add (a b : Estimate) : Estimate := ⟨a.cycles + b.cycles, a.energy + b.energy⟩

/-- The estimate of step `k` of a command: a last step that is shorter is charged at its own length (R179, R216). -/
def Work.stepCost (w : Work) (k : Nat) : Estimate :=
  match w.lastStep with
  | some (c, e) => if k + 1 = w.steps then ⟨c, e⟩ else ⟨w.cycles, w.energy⟩
  | none => ⟨w.cycles, w.energy⟩

/-- The matrix that a STOPMM names. -/
def State.stopMatrixOf (s : State) (t : Nat) (d : Desc) : StopMatrix :=
  match (s.train t).objects.residencies.find? (·.handle == d.b.addr % 2 ^ 32) with
  | some r => stopMatrix (s.residencyHeader t r) (d.par 0 1)
  | none => ⟨0, 0, 0, 1⟩

/-- The cards of a group. -/
def State.cardsOf (s : State) (t : Nat) : Cards :=
  { first := 16 * t, cores := 16 * s.groupSize t, count := if s.consort.member then s.consort.members else 1 }

/-- One run of a program: cycles, and energy by card. `first` is false for the later runs of SCORE, which skip kind 4 writes
(R458); `journal` holds the in-place bytes charged with the first descriptor (R543). -/
def State.runEstimate (s : State) (t : Nat) (ps : List (Desc × Shape)) (hist : Option HistoryCost) (first : Bool)
    (journal : Nat) : Nat × List Nat :=
  let share (lat n : Nat) : Nat := (Frac.add ⟨lat, 1⟩ (s.bellowsTime t n)).cycles (s.train t).step
  let used := ps.filter (fun (d, _) => first || d.c.kind != 4)
  let j := if journal = 0 then 0 else 2 * runCharge journal
  ((used.zip (List.range used.length)).map (fun ((d, x), i) =>
    let c := d.cost x (s.cardsOf t) (s.stopMatrixOf t d) hist share
    let c := if i = 0 then { c with bytes := c.bytes + j, energy := modAt c.energy 0 (· + j * byteEnergy) } else c
    (s.descCycles t c, c.energy))).foldl (fun a b => (a.1 + b.1, addLists a.2 b.2)) (0, [])

/-- The allowance S of a group: the sum of its members' shares (R89, R101). -/
def State.groupShare (s : State) (t : Nat) : Nat := (s.members t).foldl (fun n p => n + (s.part p).share) 0

/-- The paced estimate (R57): energy over the allowance per core cycle, at a power step and share. -/
def pacedAt (e : Estimate) (share step : Nat) : Nat :=
  max e.cycles (ceilDiv (e.energy * 256 * clockOf step) (max 1 share * 150000000000))
def State.paced (s : State) (t : Nat) (e : Estimate) : Nat := pacedAt e (s.groupShare t) (s.train t).step
/-- The ceiling of an empty Breath of train `t`. -/
def State.ceilingOf (s : State) (t : Nat) : Nat := ceiling (s.train t).n5 (s.train t).step

/-- STEP_TOO_LONG (R64, Table 4.6). -/
def tooLong (paced ceil : Nat) : Refuse :=
  { status := 0x32, tail := leBytes 4 (min paced 0xFFFFFFFF) ++ leBytes 4 (min ceil 0xFFFFFFFF) }
def State.stepFits (s : State) (t : Nat) (e : Estimate) : Option Refuse :=
  if s.ceilingOf t < s.paced t e then some (tooLong (s.paced t e) (s.ceilingOf t)) else none

/-- Slot charges of a command (R179): inputs at their slot size, outputs at their output size. -/
def State.slotCharges (s : State) (t fn : Nat) (refs : List SlotRef) (out : Nat → Nat) : Nat :=
  (namedSlots refs).foldl (fun n (i, r) =>
    n + (if r.dir = 0 then s.inputCharge t ((((s.fn fn).region? r.region).map (·.slotSize)).getD 0)
      else s.outputCharge t (out i))) 0

/-- The charge of `n` bytes of HBM at the group's bandwidth (R216). -/
def State.fillEstimate (s : State) (t n : Nat) : Estimate :=
  ⟨(Frac.mk n (groupBandwidth (s.groupSize t))).cycles (s.train t).step, n * byteEnergy⟩
/-- The largest multiple of 64 KiB, up to 4 MiB, whose paced estimate fits an empty Breath (R216). -/
def State.fillStep (s : State) (t : Nat) : Nat :=
  (((List.range 64).map (fun i => (i + 1) * 65536)).filter (fun n => decide (s.paced t (s.fillEstimate t n) ≤ s.ceilingOf t))).foldl
    max 65536

/-- Bytes of the last of the steps of `unit` bytes that cover `n` bytes. -/
def lastLen (n unit : Nat) : Nat := n - (ceilDiv n unit - 1) * unit
/-- A command of `n` bytes in steps of `unit` bytes, each charged by `cost` at its length (R179, R216). -/
def Work.inSteps (w : Work) (n unit : Nat) (cost : Nat → Estimate) : Work :=
  let e := cost (min n unit)
  let l := cost (lastLen n unit)
  { w with
    cycles := e.cycles, energy := e.energy, steps := max 1 (ceilDiv n unit)
    lastStep := if lastLen n unit = min n unit then none else some (l.cycles, l.energy) }

end Sys2Proof.Machine
end

