-- ==== Sys2Proof/Machine/History.lean ====
section
/-! DEFINITION. History pages: pools, their control area in HBM, sequences, appends and the rows that descriptors read and
write (chapter 12). -/

namespace Sys2Proof.Machine

def noRef : Nat := 0xFFFFFFFF

/-- Tokens per page of a page-size code (Table 6.18). -/
def pageTokens (code : Nat) : Nat := 128 * 2 ^ code
def roundUp (n m : Nat) : Nat := ceilDiv n m * m

/-- Bytes of an element of the pool's format. -/
def Pool.elem (p : Pool) : Nat := formatBits p.format / 8
def Pool.pt (p : Pool) : Nat := pageTokens p.pageSize
/-- Bytes of one page that hold rows, and Pb (R449). -/
def Pool.used (p : Pool) : Nat := 2 * p.heads * p.pt * p.headWidth * p.elem
def Pool.pageLen (p : Pool) : Nat := roundUp p.used 65536
def Pool.controlLen (p : Pool) : Nat := roundUp (64 + 16 * (p.pages + p.spills) + 64 * p.capacity) 65536
def Pool.length (p : Pool) : Nat := p.controlLen + p.pages * p.pageLen
def Pool.pageAt (p : Pool) (i : Nat) : Nat := p.base + p.controlLen + i * p.pageLen
def Pool.entryAt (p : Pool) (i : Nat) : Nat := p.base + 64 + 16 * i
def Pool.seqAt (p : Pool) (j : Nat) : Nat := p.base + 64 + 16 * (p.pages + p.spills) + 64 * j

/-- A pool as HIST_POOL's descriptor `d` and parameters describe it (Table 12.1). -/
def poolOf (fn base pages size handle : Nat) (d : List Byte) : Pool :=
  { handle := handle, fn := fn, base := base, pages := pages, pageSize := size, heads := field d 2 1, format := field d 3 1
    headWidth := field d 4 2, capacity := field d 8 4, spills := field d 12 4, cap := field d 16 4 }

/-- The descriptor byte offset of the first failing field of a pool descriptor (Table 12.1, R450). -/
def poolDescriptorFault (d : List Byte) (pages : Nat) : Option Nat :=
  let dh := field d 4 2
  let bad : List (Bool × Nat) :=
    [(field d 0 2 != 1, 0), (decide (field d 2 1 < 1 ∨ 64 < field d 2 1), 2), (! [0x10, 0x11, 0x12, 0x13].contains (field d 3 1), 3)
    , (decide (dh < 16 ∨ 256 < dh ∨ dh % 16 ≠ 0), 4), (field d 6 2 != 0, 6)
    , (decide (field d 8 4 < 1 ∨ 1048576 < field d 8 4), 8), (decide (65536 < field d 12 4), 12), (decide (pages < field d 16 4), 16)]
  ((bad.find? (·.1)).map (·.2)).orElse (fun _ => (firstNonZero d 20 44).map (fun _ => 20))

/-! Page table entries and sequence descriptors (Tables 12.2, 12.3). -/

structure PageEntry where
  state : Nat
  kind : Nat
  slot : Nat
  owner : Nat
  next : Nat
  logical : Nat
  deriving DecidableEq, Repr

structure Sequence where
  state : Nat
  policy : Nat
  region : Nat
  handle : Nat
  key : Nat
  base : Nat
  last : Nat
  first : Nat
  newest : Nat
  poolPages : Nat
  spilled : Nat
  recycles : Nat
  deriving DecidableEq, Repr

def State.entry (s : State) (t : Nat) (p : Pool) (i : Nat) : PageEntry :=
  let b := s.hbmRead t (p.entryAt i) 16
  { state := field b 0 1, kind := field b 1 1, slot := field b 2 2, owner := field b 4 4, next := field b 8 4
    logical := field b 12 4 }
def PageEntry.bytes (e : PageEntry) : List Byte :=
  [byte e.state, byte e.kind] ++ leBytes 2 e.slot ++ leBytes 4 e.owner ++ leBytes 4 e.next ++ leBytes 4 e.logical
def State.setEntry (s : State) (t : Nat) (p : Pool) (i : Nat) (e : PageEntry) : State :=
  s.hbmWrite t (p.entryAt i) e.bytes

/-- The entry of a free page. -/
def freeEntry (p : Pool) (i : Nat) : PageEntry :=
  { state := 0, kind := flag (decide (p.pages ≤ i)), slot := 0, owner := noRef, next := noRef, logical := 0 }

def State.seqRead (s : State) (t : Nat) (p : Pool) (j : Nat) : Sequence :=
  let b := s.hbmRead t (p.seqAt j) 64
  { state := field b 0 1, policy := field b 1 1, region := field b 2 2, handle := field b 4 4, key := field b 8 8
    base := field b 16 8, last := field b 24 8, first := field b 32 4, newest := field b 36 4, poolPages := field b 40 4
    spilled := field b 44 4, recycles := field b 48 4 }
def Sequence.bytes (q : Sequence) : List Byte :=
  [byte q.state, byte q.policy] ++ leBytes 2 q.region ++ leBytes 4 q.handle ++ leBytes 8 q.key ++ leBytes 8 q.base
    ++ leBytes 8 q.last ++ leBytes 4 q.first ++ leBytes 4 q.newest ++ leBytes 4 q.poolPages ++ leBytes 4 q.spilled
    ++ leBytes 4 q.recycles ++ zeros 12
/-- Base and end as a record carries them (R468). -/
def Sequence.positions (q : Sequence) : List Byte := leBytes 8 q.base ++ leBytes 8 q.last
def State.seqWrite (s : State) (t : Nat) (p : Pool) (j : Nat) (q : Sequence) : State := s.hbmWrite t (p.seqAt j) q.bytes

/-- The pools of a function in a group. -/
def State.poolsOf (s : State) (t fn : Nat) : List Pool := (s.train t).objects.pools.filter (·.fn == fn)
def State.pool? (s : State) (t fn h : Nat) : Option Pool := (s.poolsOf t fn).find? (·.handle == h)

/-- The broken pool that held a sequence (R466). -/
def State.lostSequence (s : State) (t fn h : Nat) : Option Pool := (s.poolsOf t fn).find? (·.lost.contains h)

/-- The pool, index and descriptor of an open or damaged sequence. -/
def State.sequence? (s : State) (t fn h : Nat) : Option (Pool × Nat × Sequence) :=
  ((s.poolsOf t fn).filter (!·.broken)).findSome? (fun p =>
    ((List.range p.capacity).find? (fun j => decide ((s.seqRead t p j).state ≠ 0) && (s.seqRead t p j).handle == h)).map
      (fun j => (p, j, s.seqRead t p j)))

/-- The chain of pages from reference `r`; `n` bounds the walk. -/
def State.chain (s : State) (t : Nat) (p : Pool) : Nat → Nat → List Nat
  | 0, _ => []
  | n + 1, r => if p.pages + p.spills ≤ r then [] else r :: State.chain s t p n (s.entry t p r).next
def State.pagesOf (s : State) (t : Nat) (p : Pool) (q : Sequence) : List Nat :=
  s.chain t p (q.poolPages + q.spilled) q.first

/-- The page that holds position `pos`, if retained. -/
def State.pageOf (s : State) (t : Nat) (p : Pool) (q : Sequence) (pos : Nat) : Option Nat :=
  (s.pagesOf t p q).find? (fun r => (s.entry t p r).logical == pos / p.pt % 2 ^ 32)

/-- Offset within its page of the row of position `pos` in a head's key (0) or value (1) plane (R453). -/
def Pool.rowOffset (p : Pool) (head plane pos : Nat) : Nat :=
  ((2 * head + plane) * p.pt + pos % p.pt) * p.headWidth * p.elem
def Pool.rowLen (p : Pool) : Nat := p.headWidth * p.elem

/-- The spill offset of a spilled page's byte `off`. -/
def State.spillPage (s : State) (p : Pool) (q : Sequence) (slot off : Nat) : Nat :=
  slot * (((s.spillRegion? p.fn q.region).map (·.slotSize)).getD 65536) + off

/-- One row of a retained position. -/
def State.rowRead (s : State) (t : Nat) (p : Pool) (q : Sequence) (head plane pos : Nat) : List Byte :=
  match s.pageOf t p q pos with
  | none => zeros p.rowLen
  | some r =>
    if r < p.pages then s.hbmRead t (p.pageAt r + p.rowOffset head plane pos) p.rowLen
    else s.spillRead p.fn q.region (s.spillPage p q (s.entry t p r).slot (p.rowOffset head plane pos)) p.rowLen

def State.rowWrite (s : State) (t : Nat) (p : Pool) (q : Sequence) (head plane pos : Nat) (bs : List Byte) : State :=
  match s.pageOf t p q pos with
  | none => s
  | some r =>
    if r < p.pages then s.hbmWrite t (p.pageAt r + p.rowOffset head plane pos) bs
    else s.spillWrite p.fn q.region (s.spillPage p q (s.entry t p r).slot (p.rowOffset head plane pos)) bs

/-- The DMA address and slot of a unit of a spilled page in the window of the last `k` positions whose check fails
(R176, R459). -/
def State.windowBad (s : State) (t : Nat) (p : Pool) (q : Sequence) (k : Nat) : Option (Nat × Nat) :=
  let lo := (q.last - k) / p.pt
  let pages := (List.range ((q.last + p.pt - 1) / p.pt - lo)).map (fun i => (lo + i) % 2 ^ 32)
  ((s.pagesOf t p q).filter (fun r => decide (p.pages ≤ r) && pages.contains (s.entry t p r).logical)).findSome? (fun r =>
    s.spillBad p.fn q.region (s.spillPage p q (s.entry t p r).slot 0) p.used)

/-- The same of a unit that an append to position `pos` merges (R498). -/
def State.appendBad (s : State) (t : Nat) (p : Pool) (q : Sequence) (pos : Nat) : Option (Nat × Nat) :=
  match s.pageOf t p q pos with
  | none => none
  | some r =>
    if r < p.pages then none
    else (List.range p.heads).findSome? (fun h => [0, 1].findSome? (fun plane =>
      s.mergeBad p.fn q.region (s.spillPage p q (s.entry t p r).slot (p.rowOffset h plane pos)) p.rowLen))

/-! Appending (R455, R456). -/

/-- HISTORY_FULL (Table 12.5). -/
def historyFull (reason : Nat) (q : Sequence) : Refuse :=
  { status := 0x31, reason := reason, tail := leBytes 4 q.handle ++ leBytes 8 q.last }

/-- What an append did: the state, and the SCORE flag bits 0 (WINDOW recycle) and 1 (spill page). -/
structure Appended where
  s : State
  flags : Nat := 0

/-- A page linked as the newest of sequence `j`. -/
def State.linkPage (s : State) (t : Nat) (p : Pool) (j r slot : Nat) : State :=
  let q := s.seqRead t p j
  let logical := q.last / p.pt % 2 ^ 32
  let spill := decide (p.pages ≤ r)
  let s := s.setEntry t p r { state := 1, kind := flag spill, slot := slot, owner := j, next := noRef, logical := logical }
  let s := if q.newest = noRef then s else s.setEntry t p q.newest { s.entry t p q.newest with next := r }
  s.seqWrite t p j { q with
    first := if q.first = noRef then r else q.first, newest := r
    poolPages := q.poolPages + flag (!spill), spilled := q.spilled + flag spill }

/-- The page that a new page boundary obtains (R455, Table 12.4). -/
def State.obtainPage (s : State) (t : Nat) (p : Pool) (j : Nat) : Except Refuse Appended :=
  let q := s.seqRead t p j
  let capped := decide (p.cap ≠ 0 ∧ p.cap ≤ q.poolPages)
  let free := (List.range p.pages).find? (fun i => (s.entry t p i).state == 0)
  match if capped then none else free with
  | some r => .ok ⟨s.linkPage t p j r 0, 0⟩
  | none =>
    if q.policy = 1 then .error (historyFull (if capped then 0x0C02 else 0x0C01) q)
    else if q.policy = 0 then
      if q.poolPages = 0 then .error (historyFull 0x0C04 q)
      else
        let old := s.entry t p q.first
        let s := s.seqWrite t p j { q with
          first := old.next, newest := if old.next = noRef then noRef else q.newest, poolPages := q.poolPages - 1
          base := q.base + p.pt, recycles := min (q.recycles + 1) 0xFFFFFFFF }
        .ok ⟨s.linkPage t p j q.first 0, 1⟩
    else
      let e := ((List.range p.spills).map (· + p.pages)).find? (fun i => (s.entry t p i).state == 0)
      match e, (s.spillRegion? p.fn q.region).bind (·.freeSlot) with
      | some r, some slot => match s.claimSlot p.fn q.region slot with
        | some s => .ok ⟨s.linkPage t p j r slot, 2⟩
        | none => .error (historyFull 0x0C03 q)
      | _, _ => .error (historyFull 0x0C03 q)

/-- One position appended (R455): its rows are zero in every head. A unit of a spilled page is checked before the rows are
merged into it (R176, R498). -/
def State.appendOne (s : State) (t : Nat) (p : Pool) (j : Nat) : Except Refuse Appended :=
  let q := s.seqRead t p j
  let got := if q.last % p.pt = 0 then s.obtainPage t p j else .ok ⟨s, 0⟩
  match got with
  | .error r => .error r
  | .ok a =>
    let q := a.s.seqRead t p j
    match a.s.appendBad t p q q.last with
    | some (x, _) => .error (spillPoison x)
    | none =>
      let s := (List.range p.heads).foldl (fun s h =>
        (s.rowWrite t p q h 0 q.last (zeros p.rowLen)).rowWrite t p q h 1 q.last (zeros p.rowLen)) a.s
      .ok ⟨s.seqWrite t p j { s.seqRead t p j with last := q.last + 1 }, a.flags⟩

/-- After a MEM_POISON 0x0520, the slot of the failing unit is not used again (R176). -/
def State.dropPoisoned (s : State) (fn h : Nat) (r : Refuse) : State :=
  match s.spillRegion? fn h with
  | some g => if r.reason = 0x0520 then s.badSlot fn h ((leVal (r.tail.take 8) - g.payloadBase) / g.slotSize) else s
  | none => s

/-- `n` positions appended. -/
def State.appendMany (t : Nat) (p : Pool) (j : Nat) : Nat → State → Nat → Except Refuse Appended
  | 0, s, fl => .ok ⟨s, fl⟩
  | n + 1, s, fl => match s.appendOne t p j with
    | .error r => .error r
    | .ok a => State.appendMany t p j n a.s (Nat.lor fl a.flags)

/-! Opening and closing (R454, R465). -/

/-- The lowest-indexed free sequence descriptor. -/
def State.freeSequence (s : State) (t : Nat) (p : Pool) : Option Nat :=
  (List.range p.capacity).find? (fun j => (s.seqRead t p j).state == 0)

def State.openSequence (s : State) (t : Nat) (p : Pool) (j policy region key handle : Nat) : State :=
  let s := s.seqWrite t p j
    { state := 1, policy := policy, region := region, handle := handle, key := key, base := 0, last := 0, first := noRef
      newest := noRef, poolPages := 0, spilled := 0, recycles := 0 }
  if policy = 2 then
    s.modFn p.fn (fun f => f.modRegion region (fun r => { r with memoryUse := some false }))
  else s

/-- A sequence closed: its pages and spill slots free, a retired page stays retired. -/
def State.closeSequence (s : State) (t : Nat) (p : Pool) (j : Nat) : State :=
  let q := s.seqRead t p j
  let s := (List.range (p.pages + p.spills)).foldl (fun s i =>
    let e := s.entry t p i
    if e.state = 1 ∧ e.owner = j then
      (if p.pages ≤ i then s.releaseSlot p.fn q.region e.slot else s).setEntry t p i (freeEntry p i)
    else s) s
  s.seqWrite t p j { q with state := 0 }

/-- The spill slots that the sequences of a pool hold: region and slot. -/
def State.spillSlotsOf (s : State) (t : Nat) (p : Pool) : List (Nat × Nat) :=
  ((List.range p.spills).map (· + p.pages)).filterMap (fun i =>
    let e := s.entry t p i
    if e.state = 1 then some ((s.seqRead t p e.owner).region, e.slot) else none)

/-- A pool closed with every sequence (R251, R466): of a broken pool, whose control area is not readable any more, the spill
slots noted when it broke are released. -/
def State.closePool (s : State) (t : Nat) (p : Pool) : State :=
  if p.broken then p.lostSlots.foldl (fun s (h, k) => s.releaseSlot p.fn h k) s
  else (List.range p.capacity).foldl (fun s j => if (s.seqRead t p j).state ≠ 0 then s.closeSequence t p j else s) s

/-- A retired page of an open pool (R466): its group-local page address. -/
def State.retireInPool (s : State) (t : Nat) (p : Pool) (a : Nat) : State :=
  if p.broken ∨ a < p.base ∨ p.base + p.length ≤ a then s
  else if a < p.base + p.controlLen then
    let lost := (((List.range p.capacity).map (s.seqRead t p)).filter (fun q => decide (q.state ≠ 0))).map (·.handle)
    s.modTrain t (fun x => { x with objects := { x.objects with
      pools := x.objects.pools.map (fun y => if y.handle == p.handle then { y with broken := true, lost := lost, lostSlots := s.spillSlotsOf t p } else y) } })
  else
    let i := (a - p.base - p.controlLen) / p.pageLen
    let e := s.entry t p i
    let s := if e.state = 1 then s.seqWrite t p e.owner { s.seqRead t p e.owner with state := 2 } else s
    s.setEntry t p i { e with state := 2, owner := noRef }

/-- The first retired page of a sequence, as a range (R466). -/
def State.retiredPage (s : State) (t : Nat) (p : Pool) (q : Sequence) : Range :=
  ⟨p.pageAt (((s.pagesOf t p q).find? (fun i => decide (i < p.pages) && (s.entry t p i).state == 2)).getD 0), p.pageLen⟩

/-- MEM_POISON 0x0C10 with the retired page's address (R466). -/
def State.damaged (s : State) (t : Nat) (p : Pool) (q : Sequence) : Option Refuse :=
  if q.state = 2 then
    let r := s.retiredPage t p q
    let pages := (s.members t).flatMap (fun m =>
      (s.dev.retired.filter (·.1 == m)).map (fun x => unmapHbm t (s.groupSize t) m (x.2 * pageBytes)))
    some { status := 0x51, reason := 0x0C10, tail := leBytes 8 ((pages.find? (fun a => r.meets ⟨a, pageBytes⟩)).getD r.start) }
  else none

/-- The history side of a command's cost (R462, R463): the pages that are spilled now, and the new ones that accepted
appends `pending` and its own `own` appends may claim; `tokens` are appended before one run. -/
def State.historyCost (s : State) (t : Nat) (p : Pool) (q : Sequence) (tokens own pending : Nat) : HistoryCost :=
  let crossed := (q.last + pending + own + p.pt - 1) / p.pt - (q.last + p.pt - 1) / p.pt
  { heads := p.heads, dh := p.headWidth, bytes := p.elem, pt := p.pt, pageLen := p.pageLen, last := q.last
    spilled := ((s.pagesOf t p q).filter (fun r => decide (p.pages ≤ r))).map (fun r => (s.entry t p r).logical)
    newPages := if q.policy = 2 then crossed else 0
    spillWrite := decide (q.policy = 2) && (decide (0 < crossed) || decide (p.pages ≤ q.newest ∧ q.newest ≠ noRef))
    tokens := tokens }

/-! Restoring ranges of the group's HBM (R464, R540). -/

/-- `m` with the bytes of the selected addresses as `old` holds them. -/
def Memory.mix (m old : Memory) (sel : Nat → Bool) : Memory :=
  ({ cells := m.cells.filter (fun c => !sel c.1) } : Memory).writeCells (old.cells.filter (fun c => sel c.1))

/-- The members' HBM, in partition order. -/
def State.groupHbm (s : State) (t : Nat) : List Memory := (s.members t).map (fun p => (s.part p).hbm)

/-- Ranges of group-local HBM restored from a saved copy. -/
def State.restoreHbm (s : State) (t : Nat) (old : List Memory) (rs : List Range) : State :=
  (s.members t).foldl (fun s p => s.modPart p (fun x => { x with
    hbm := x.hbm.mix (old.getD (p - t) {}) (fun l =>
      let g := unmapHbm t (s.groupSize t) p l
      rs.any (fun r => decide (r.start ≤ g) && decide (g < r.start + r.len))) })) s

/-- The HBM that sequence `j` holds: its descriptor, its page table entries and its pages. -/
def State.sequenceRanges (s : State) (t : Nat) (p : Pool) (j : Nat) : List Range :=
  ⟨p.seqAt j, 64⟩ :: ((List.range (p.pages + p.spills)).filter (fun i => (s.entry t p i).state == 1 && (s.entry t p i).owner == j)).flatMap
    (fun i => ⟨p.entryAt i, 16⟩ :: (if i < p.pages then [⟨p.pageAt i, p.pageLen⟩] else []))

/-- The group's HBM replaced by a saved copy. -/
def State.withHbm (s : State) (t : Nat) (old : List Memory) : State :=
  (s.members t).foldl (fun s p => s.modPart p (fun x => { x with hbm := old.getD (p - t) {} })) s

/-- A sequence as a saved copy of the group's HBM holds it; spill slots that it claimed since are released (R464). -/
def State.undoSequence (s : State) (t : Nat) (old : List Memory) (p : Pool) (j : Nat) : State :=
  let o := s.withHbm t old
  let slots := ((List.range p.spills).map (· + p.pages)).filterMap (fun i =>
    let e := s.entry t p i
    let e0 := o.entry t p i
    if e.state = 1 ∧ e.owner = j ∧ !(e0.state == 1 && e0.owner == j) then some e.slot else none)
  let region := (s.seqRead t p j).region
  slots.foldl (fun s k => s.releaseSlot p.fn region k) (s.restoreHbm t old (s.sequenceRanges t p j ++ o.sequenceRanges t p j))

end Sys2Proof.Machine
end

