-- ==== Sys2Proof/Machine/Stop.lean ====
section
/-! DEFINITION. What a Reed core holds beside its memories: vector registers, Bore cells, and the Stop macros' check planes and
reference sums with the checks made on them (R290, R348, R356, R364 to R372, R378, R532). -/

namespace Sys2Proof.Machine

/-! Vector registers and Bore cells (Table 7.1, R378). A descriptor run leaves values in them of which no rule says more
than that no result depends on them (R379): free values of the run (DESIGN CHOICE, assumption 113). -/

/-- The 32 bits of a lane of register V`v`; lane l holds element n of a row segment when n mod 128 = l. -/
def Core.lane (c : Core) (v l : Nat) : Nat :=
  match c.vectorRun with
  | none => 0
  | some run => Config.vectorFill run v l % 2 ^ 32
/-- Tile view of a register, row-major: 16 by 16 values of 16 bits, and 16 by 8 of 32 bits. -/
def Core.tile16 (c : Core) (v i j : Nat) : Nat := c.lane v ((16 * i + j) / 2) / 2 ^ (16 * ((16 * i + j) % 2)) % 2 ^ 16
def Core.tile32 (c : Core) (v i j : Nat) : Nat := c.lane v (8 * i + j)
/-- The element in a cell of the Bore: plane 0 the cells, plane 1 the shadow plane. -/
def Core.boreCell (c : Core) (plane row col : Nat) : Nat :=
  match c.boreRun with
  | none => 0
  | some run => Config.boreFill run plane row col % 2 ^ 32

/-! Stored weights, check planes and reference sums (R348, R354, R356, R371, R532). -/

/-- The weights in the byte at offset `a` of a bank: macro, row, weight column and value. -/
def bankWeights (format a : Nat) (b : Byte) : List (Nat × Nat × Nat × Int) :=
  let mac := a / 131072
  let row := a % 131072 / 256
  let k := a % 256
  if format = 0x01 then
    [(mac, row, 2 * k, signed 4 (b.toNat % 16)), (mac, row, 2 * k + 1, signed 4 (b.toNat / 16))]
  else [(mac, row, k, signed 8 b.toNat)]

/-- The residue of an integer modulo 3. -/
def mod3 (z : Int) : Nat := (z % 3).toNat
/-- Where the check plane holds a weight's residue. -/
def planeAt (mac row col : Nat) : Nat := 262144 * mac + 512 * row + col

/-- The check plane of some macros as the weights of the bank give it. -/
def checkCells (format : Nat) (bank : Memory) (macs : List Nat) : List Host.Cell :=
  bank.cells.flatMap (fun c => (bankWeights format c.1 c.2).filterMap (fun (m, r, k, z) =>
    if macs.contains m ∧ mod3 z ≠ 0 then some (planeAt m r k, byte (mod3 z)) else none))

/-- The sums of a macro's weights over each quarter of its rows, by quarter and column. -/
def quarterSums (format : Nat) (bank : Memory) (mac : Nat) : List Int :=
  let wn := stopWn format
  (bank.cells.flatMap (fun c => (bankWeights format c.1 c.2).filter (·.1 == mac))).foldl
    (fun acc w => modAt acc (w.2.1 / 128 * wn + w.2.2.1) (· + w.2.2.2)) (List.replicate (4 * wn) 0)

/-- Check planes and reference sums of macros just written (R356). -/
def Core.fillChecks (c : Core) (format : Nat) (macs : List Nat) : Core :=
  { c with
    check := (macs.foldl (fun (m : Memory) k => m.clear (planeAt k 0 0) 262144) c.check).writeCells (checkCells format c.stop macs)
    sums := macs.map (fun m => (m, quarterSums format c.stop m)) ++ c.sums.filter (fun x => !macs.contains x.1) }

/-- A slab written to the bank (R356). -/
def Core.writeSlab (c : Core) (format : Nat) (bytes : List Byte) : Core :=
  ({ c with stop := ({} : Memory).write 0 bytes }).fillChecks format (List.range 8)

/-- One macro of a bank written anew (R372). -/
def Core.writeMacro (c : Core) (format mac : Nat) (bytes : List Byte) : Core :=
  ({ c with stop := c.stop.write (mac * 131072) bytes }).fillChecks format [mac]

/-- The bank emptied: no weights, no check plane, no reference sums (R357). -/
def Core.emptyStop (c : Core) : Core := { c with stop := {}, check := {}, sums := [] }

/-- The result of test vector `j` in column `k`, from the sums of the quarters (R371): T0 to T3 drive one quarter with +1, T4
every row with −1. -/
def vectorResult (wn : Nat) (q : List Int) (j k : Nat) : Int :=
  if j < 4 then q.getD (j * wn + k) 0 else -((List.range 4).foldl (fun z i => z + q.getD (i * wn + k) 0) 0)

/-- The known-sum test of a macro: the first vector whose results differ from the reference sums (R371). -/
def Core.knownSum (c : Core) (format mac : Nat) : Option Nat :=
  let wn := stopWn format
  let now := quarterSums format c.stop mac
  let ref := ((c.sums.find? (·.1 == mac)).map (·.2)).getD []
  (List.range 5).find? (fun j => (List.range wn).any (fun k => decide (vectorResult wn now j k ≠ vectorResult wn ref j k)))

/-! Residencies and the cores that hold their slabs (R355, R361, R368, R567). -/

/-- The chip-wide core of core `c` of a group, counted over the cards; none on another card. -/
def State.slabCore (s : State) (t c : Nat) : Option Nat :=
  let n := 16 * s.groupSize t
  if s.consort.member then (if c / n = s.consort.card then some (16 * t + c % n) else none)
  else if c < n then some (16 * t + c) else none
/-- The number within the group, counted over the cards, of a chip-wide core of it. -/
def State.groupCore (s : State) (t core : Nat) : Nat :=
  (if s.consort.member then s.consort.card * (16 * s.groupSize t) else 0) + (core - 16 * t)

/-- The residency whose slab a chip-wide core of the group holds. -/
def State.residencyAt (s : State) (t core : Nat) : Option Residency :=
  let g := s.groupCore t core
  (s.train t).objects.residencies.find? (fun r => decide (r.firstCore ≤ g ∧ g < r.firstCore + r.cores))
def State.modelOf (s : State) (t : Nat) (r : Residency) : Option Model :=
  (s.train t).objects.models.find? (·.handle == r.model)

/-- The bytes of slab `i` of a Stop image. -/
def State.slabImage (s : State) (t : Nat) (m : Model) (i : Nat) : List Byte :=
  s.hbmRead t (m.addr + 4096 + i * slabBytes) slabBytes

/-- Slab `i` of a model written to its bank, when the bank is on this card; `c` is its core of the group. -/
def State.writeSlab (s : State) (t : Nat) (m : Model) (c i : Nat) : State :=
  match s.slabCore t c with
  | some core => s.modCore core (fun y => y.writeSlab m.format (s.slabImage t m i))
  | none => s

/-- The place of weight W[k][n] of a matrix: slab, macro, row and weight column (R353, R354). -/
structure WeightPlace where
  slab : Nat
  mac : Nat
  row : Nat
  col : Nat
  deriving DecidableEq, Repr

def StopMatrix.place (m : StopMatrix) (format k n : Nat) : WeightPlace :=
  let wn := stopWn format
  { slab := m.first + n / (wn * m.nm) * m.nKs + k / (512 * m.km)
    mac := n % (wn * m.nm) / wn * m.km + k % (512 * m.km) / 512, row := k % 512, col := n % wn }

/-- The byte of a slab that holds a weight. -/
def WeightPlace.offset (w : WeightPlace) (format : Nat) : Nat :=
  w.mac * 131072 + w.row * 256 + (if format = 0x01 then w.col / 2 else w.col)

/-- The weight W[k][n] as the banks of a residency hold it, decoded as its image is; a bank of another card holds what that card
pinned of the image (R354, R368). -/
def State.stopWeight (s : State) (t : Nat) (r : Residency) (m : StopMatrix) (model : Model) (k n : Nat) : Int :=
  let w := m.place model.format k n
  let off := w.offset model.format
  let b := match s.slabCore t (r.firstCore + w.slab) with
    | some core => (s.core core).stop.get off
    | none => s.hbmByte t (model.addr + 4096 + w.slab * slabBytes + off)
  if model.format = 0x01 then signed 4 (bits b.toNat (4 * (w.col % 2)) 4) else signed 8 b.toNat

/-! Performance counters of the cores (R733, R740, Table 22.5). -/

/-- Counts added to a core's counters, by index (R733). -/
def CoreCounters.add (c : CoreCounters) (v : Nat → Nat) : CoreCounters :=
  let sums := [c.active + v 0, c.bore + v 1, c.stop + v 2, c.vector + v 3, c.stall + v 4, c.hbmLines + v 5, c.stopRows + v 6
    , c.gather + v 7]
  let at_ (i : Nat) : Nat := sums.getD i 0 % 2 ^ 40
  { c with
    active := at_ 0, bore := at_ 1, stop := at_ 2, vector := at_ 3, stall := at_ 4, hbmLines := at_ 5, stopRows := at_ 6
    gather := at_ 7
    wrapped := (sums.mapIdx (fun i x => if 2 ^ 40 ≤ x then 2 ^ i else 0)).foldl Nat.lor c.wrapped }

def State.modCounters (s : State) (core : Nat) (g : CoreCounters → CoreCounters) : State :=
  s.modPart (core / 16) (fun p => { p with perf := { p.perf with cores := modAt p.perf.cores (core % 16) g } })
def State.counters (s : State) (core : Nat) : CoreCounters := (s.part (core / 16)).perf.cores.getD (core % 16) {}

/-- COUNTER_WRAP of a core with wrapped counters (R740). -/
def State.raiseWrap (s : State) (core : Nat) : State :=
  let w := (s.counters core).wrapped
  if w = 0 then s
  else
    let (ok, s) := s.once 0x0106 core
    if ok then
      (s.raiseO 0x0106 0 (core / 16) core 0xFF 0 (leBytes 2 w)).modCounters core (fun c => { c with wrapped := 0 })
    else s

/-- Rows driven counted, in units of 256 with the remainder kept (Table 22.5). -/
def State.countRows (s : State) (core n : Nat) : State :=
  let sum := (s.counters core).stopRowsRest + n
  ((s.modCounters core (fun c => { c with stopRowsRest := sum % 256 })).modCounters core (fun c =>
    c.add (fun j => if j = 6 then sum / 256 else 0))).raiseWrap core
/-- Narrow gather accesses counted (Table 22.5). -/
def State.countGatherAccesses (s : State) (core n : Nat) : State :=
  (s.modCounters core (fun c => c.add (fun j => if j = 7 then n else 0))).raiseWrap core

/-! The checks of a STOPMM run (R365, R369). -/

/-- Magnitude planes of an input element (R364). -/
def magnitude (z : Int) : Nat := z.natAbs
/-- Rows driven by the inputs of one macro, summed over the planes (R365). -/
def drivenRows (xs : List Int) : Nat :=
  xs.foldl (fun n z => n + ((List.range 8).filter (fun p => bit (magnitude z) p)).length) 0

/-- The blocks of a matrix that hold weights: K block and N block of whole macros. -/
def StopMatrix.blocks (m : StopMatrix) (format : Nat) : List (Nat × Nat) :=
  (List.range (ceilDiv m.k 512)).flatMap (fun kb => (List.range (ceilDiv m.n (stopWn format))).map (fun nb => (kb, nb)))

/-- The macros in which the residue of some column sum differs from the residue path's (R369): core and macro. `rows` are the
input rows. -/
def State.residueFails (s : State) (t : Nat) (r : Residency) (m : StopMatrix) (format : Nat) (rows : List (List Int)) :
    List (Nat × Nat) :=
  let wn := stopWn format
  (m.blocks format).filterMap (fun (kb, nb) =>
    let w := m.place format (512 * kb) (wn * nb)
    match s.slabCore t (r.firstCore + w.slab) with
    | none => none
    | some c =>
      let core := s.core c
      let weight (i k : Nat) : Int :=
        let p : WeightPlace := { w with row := i, col := k }
        let b := core.stop.get (p.offset format)
        if format = 0x01 then signed 4 (bits b.toNat (4 * (k % 2)) 4) else signed 8 b.toNat
      let bad (xs : List Int) (k : Nat) : Bool :=
        let ins := xs.zip (List.range 512)
        let sum := ins.foldl (fun z (x, i) => z + x * weight i k) 0
        let path := ins.foldl (fun z (x, i) => z + x * ((core.check.get (planeAt w.mac i k)).toNat : Int)) 0
        decide (mod3 sum ≠ mod3 path)
      if rows.any (fun row => let xs := (row.drop (512 * kb)).take 512; (List.range wn).any (bad xs)) then some (c, w.mac) else none)

/-- Rows driven in each core of this card by a run (R365, Table 22.5): every macro of a slab meets its K block of each input
row (DEDUCED, assumption 38). -/
def State.rowsDriven (s : State) (t : Nat) (r : Residency) (m : StopMatrix) (format : Nat) (rows : List (List Int)) :
    List (Nat × Nat) :=
  (m.blocks format).filterMap (fun (kb, nb) =>
    (s.slabCore t (r.firstCore + (m.place format (512 * kb) (stopWn format * nb)).slab)).map (fun c =>
      (c, rows.foldl (fun n row => n + drivenRows ((row.drop (512 * kb)).take 512)) 0)))

/-! Latched failures (R534, R536, R371). -/

/-- A check failure latched: Stop macros will be repaired, hardware events are raised at once. `vector` is the failing vector of
a known-sum test where the model has computed it, and a free value otherwise. -/
def State.latchFailure (s : State) (t cause core unit : Nat) (vector : Option Nat := none) : State :=
  let stop := decide (5 ≤ cause ∧ cause ≤ 7) && decide (unit < 8) && decide (core < 256)
  let s := s.modTrain t (fun x => { x with
    causes := Nat.lor x.causes (2 ^ cause), core := core, unit := unit
    repairs := if stop && !x.repairs.contains (core, unit) then x.repairs ++ [(core, unit)] else x.repairs })
  if cause = 7 then
    let (v, s) := s.fresh
    s.raiseO 0x0303 2 (if core < 256 then core / 16 else 0xFF) core unit 0 [byte (vector.getD (v % 5))]
  else if cause = 10 then
    let (v, s) := s.fresh
    s.raiseO 0x0403 2 (if core < 256 then core / 16 else 0xFF) core unit 0 (leBytes 4 (v % 0x400000))
  else s

/-! The known-sum tests of the Drone slot (R370). -/

/-- The core within its partition and the macro of a test index. -/
def testedMacro (i : Nat) : Nat × Nat := (i / 8, i % 8)
/-- The two indices that each partition tests in the Drone slot of Breath `b`. -/
def testedIndices (b : Nat) : List Nat := [2 * (b % 64), 2 * (b % 64) + 1]

/-- The known-sum test of one macro of a chip-wide core; an unpinned macro is skipped. -/
def State.testMacro (s : State) (t core mac : Nat) : State :=
  match (s.residencyAt t core).bind (s.modelOf t) with
  | none => s
  | some m => match (s.core core).knownSum m.format mac with
    | some v => s.latchFailure t 7 core mac (some v)
    | none => s

/-- The tests of the group's members in a Breath. -/
def State.droneTests (s : State) (t : Nat) : State :=
  (s.members t).foldl (fun s p => (testedIndices (s.breathOf t)).foldl (fun s i =>
    s.testMacro t (16 * p + (testedMacro i).1) (testedMacro i).2) s) s

/-- A macro of a slab rewritten from its model, its check plane computed anew and compared with the reference sums, and tested
(R356, R372): the first vector that fails. -/
def State.rewriteFrom (s : State) (t : Nat) (m : Model) (core slab mac : Nat) : State × Option Nat :=
  let bs := s.hbmRead t (m.addr + 4096 + slab * slabBytes + mac * 131072) 131072
  let old := (s.core core).sums
  let s := s.modCore core (fun c =>
    let c := c.writeMacro m.format mac bs
    if old.any (·.1 == mac) then { c with sums := old } else c)
  (s, (s.core core).knownSum m.format mac)

/-- A pinned macro rewritten from the model of its residency (R372), with the residency. -/
def State.rewriteMacro (s : State) (t core mac : Nat) : State × Option (Option Nat × Residency) :=
  match s.residencyAt t core with
  | none => (s, none)
  | some r => match s.modelOf t r with
    | none => (s, none)
    | some m =>
      let e := s.rewriteFrom t m core (s.groupCore t core - r.firstCore) mac
      (e.1, some (e.2, r))

/-- A macro repaired at the start of a re-run (R372). -/
def State.repairMacro (s : State) (t core mac : Nat) : State :=
  match s.rewriteMacro t core mac with
  | (s, none) => s
  | (s, some (v, r)) =>
    let s := s.raiseO 0x0304 1 (core / 16) core mac 0 (leBytes 4 r.handle)
    if v.isSome then s.latchFailure t 7 core mac v else s

/-! The known-sum tests that end a pin (R356). -/

/-- The known-sum test of a macro just pinned: one that fails is rewritten from HBM once and tested again. Whether the second test
fails too. -/
def State.testPinned (s : State) (t : Nat) (m : Model) (core slab mac : Nat) : State × Bool :=
  match (s.core core).knownSum m.format mac with
  | none => (s, false)
  | some v =>
    let event (s : State) (v : Nat) : State := s.raiseO 0x0303 2 (core / 16) core mac 0 [byte v]
    match (event s v).rewriteFrom t m core slab mac with
    | (s, none) => (s, false)
    | (s, some v) => (event s v, true)

/-- The tests of every pinned macro of `n` slabs whose banks lie on this card: the first macro that fails twice. -/
def State.testPins (s : State) (t : Nat) (m : Model) (first n : Nat) : State × Option (Nat × Nat) :=
  (List.range n).foldl (fun a i => match s.slabCore t (first + i) with
    | none => a
    | some core => (List.range 8).foldl (fun (a : State × Option (Nat × Nat)) mac => match a.2 with
      | some _ => a
      | none =>
        let e := a.1.testPinned t m core i mac
        (e.1, if e.2 then some (core, mac) else none)) a) (s, none)

/-- The end of a pin whose macro failed twice (R356): its banks are released, and the partition that owns the core faults. -/
def State.releasePin (s : State) (t first n core : Nat) : State :=
  ((List.range n).foldl (fun s i => match s.slabCore t (first + i) with
    | some c => s.modCore c Core.emptyStop
    | none => s) s).modPart (core / 16) (fun p => { p with fault := if p.fault = 0 then 1 else p.fault })
/-- INTERNAL 0x0090 with the group-local core and the macro. -/
def pinRefuse (t core mac : Nat) : Refuse := { status := 0x7F, reason := 0x0090, tail := leBytes 2 (core - 16 * t) ++ [byte mac] }

end Sys2Proof.Machine
end

