-- ==== Sys2Proof/Machine/Datapath.lean ====
section
/-! DEFINITION. The datapaths: what one run of one descriptor computes, reads and writes (chapters 8, 9, 10, 11 and the
memory opcodes of chapter 13). Every operand is read before the output is written (R308, R329). -/

namespace Sys2Proof.Machine

/-- What a run knows besides the state. -/
structure RunCtx where
  t : Nat
  fn : Nat
  work : Nat
  tag : Nat
  seed : Nat
  /-- The refinement-step coordinate (R440). -/
  step : Nat
  index : Nat
  /-- Pool and index of the command's sequence, and the tokens of the current append. -/
  seq : Option (Pool × Nat) := none
  tokens : Nat := 1
  /-- Byte offset of this prefill step's records in slot 0 (R461). -/
  record : Nat := 0
  /-- The chip-wide cores that run the units of the output tile in hand, by unit of K: each reads its own CLM (R292, R314). -/
  cores : List Nat := []

/-! CLM (R292 to R295). -/

/-- Chip-wide numbers of the cores of a descriptor's core set that lie on this card (R567), folded where the set reaches
beyond the group (R603). -/
def State.coreSet (s : State) (t : Nat) (d : Desc) : List Nat :=
  (((List.range d.cores).map (fun i => (i + d.first) % s.groupCores t)).eraseDups).filterMap (s.slabCore t)

/-- A byte of the working copy of a command's carried ranges, by declared offset (R295). -/
def carriedByte (car : List Carried) (core a : Nat) : Byte :=
  match car.find? (fun c => c.core == core && decide (c.off ≤ a) && decide (a < c.off + c.len)) with
  | some c => c.working.get a
  | none => 0

/-- Bytes written to the working copy in the named cores. -/
def Carried.put (c : Carried) (cores : List Nat) (a : Nat) (bs : List Byte) : Carried :=
  if cores.contains c.core ∧ c.off ≤ a ∧ a + bs.length ≤ c.off + c.len then { c with working := c.working.write a bs } else c

/-- A byte of CLM as a run reads it: run-data and scratch lines not written in the run read zero (R294). -/
def Core.readByte (c : Core) (a : Nat) : Byte := if c.lines.contains (a / 64) then c.clm.get a else 0

/-- A byte of CLM written: the first write to a line zeroes its other bytes (R294). -/
def Core.writeByte (c : Core) (a : Nat) (b : Byte) : Core :=
  if c.lines.contains (a / 64) then { c with clm := c.clm.put a b }
  else { c with clm := (c.clm.clear (a / 64 * 64) 64).put a b, lines := a / 64 :: c.lines }

def Core.writeBytes (c : Core) (a : Nat) : List Byte → Core
  | [] => c
  | b :: bs => Core.writeBytes (c.writeByte a b) (a + 1) bs

/-! Operand access. -/

def State.carriedOf (s : State) (t id : Nat) : List Carried := ((s.work? t id).map (·.carried)).getD []
def State.heldOf (s : State) (t id ordinal : Nat) : Option HeldSlot :=
  (s.work? t id).bind (fun w => w.held.find? (·.ordinal == ordinal))

/-- Bytes of an operand from byte `off` of its extent: of CLM, those of the core that reads. -/
def State.operandRead (s : State) (x : RunCtx) (d : Desc) (l : Layout) (off k : Nat) : List Byte :=
  if l.kind = 1 then
    (if isSpill l.addr then s.spillRead (x.t + 1) (spillHandle l.addr) (spillOffset l.addr + off) k
     else s.hbmRead x.t (l.addr + off) k)
  else if l.kind = 2 then
    let c := x.cores.headD ((s.coreSet x.t d).headD 0)
    let car := s.carriedOf x.t x.work
    (List.range k).map (fun i => if l.carried then carriedByte car c (l.addr + off + i) else (s.core c).readByte (l.addr + off + i))
  else if l.kind = 5 then
    match s.heldOf x.t x.work l.slot with
    | some h =>
      let o := (if h.ref.dir = 0 ∧ l.slot = 0 then x.record else 0) + off
      slice (if h.ref.dir = 0 then h.bytes.take h.length else h.bytes) o k
    | none => zeros k
  else zeros k

/-- The stored rows of an operand, batch after batch (R816). -/
def State.operandRows (s : State) (x : RunCtx) (d : Desc) (l : Layout) : List (List Byte) :=
  (List.range (l.batches * l.rows)).map (fun r => s.operandRead x d l (r * l.pitch) l.rowLen)

def transpose {α : Type} (dflt : α) (n : Nat) (rows : List (List α)) : List (List α) :=
  (List.range n).map (fun c => rows.map (fun r => r.getD c dflt))

def Elt.zero (code : Nat) : Elt := if isInt code then .int 0 else .num .zero

/-- The logical matrix of batch `g`. -/
def Layout.matrix (l : Layout) (rows : List (List Byte)) (g : Nat) : List (List Elt) :=
  let mine := (rows.drop ((if 1 < l.batches then g else 0) * l.rows)).take l.rows
  let m := mine.map (fun row => (List.range l.cols).map (eltAt l.code l.cols row))
  if l.transposed then transpose (Elt.zero l.code) l.cols m else m

/-- Bytes written at byte `off` of the output's extent. -/
def State.operandWrite (s : State) (x : RunCtx) (d : Desc) (l : Layout) (off : Nat) (bs : List Byte) : State :=
  if l.kind = 1 then
    (if isSpill l.addr then s.spillWrite (x.t + 1) (spillHandle l.addr) (spillOffset l.addr + off) bs
     else s.hbmWrite x.t (l.addr + off) bs)
  else if l.kind = 2 then
    if l.carried then
      s.modWork x.t x.work (fun w => { w with carried := w.carried.map (·.put (s.coreSet x.t d) (l.addr + off) bs) })
    else (s.coreSet x.t d).foldl (fun s c => s.modCore c (fun k => k.writeBytes (l.addr + off) bs)) s
  else if l.kind = 5 then
    match s.heldOf x.t x.work l.slot with
    | none => s
    | some h =>
      let s := s.modWork x.t x.work (fun w => { w with held := w.held.map (fun y =>
        if y.ordinal == l.slot then { y with bytes := splice y.bytes off bs } else y) })
      match (s.fn x.fn).region? h.ref.region with
      | some r => s.slotWrite x.fn r (r.payloadAt h.ref.slot + off) bs true
      | none => s
  else s

/-- Key and value rows written for position end − t + m (R458). -/
def State.sequenceWrite (s : State) (x : RunCtx) (m : Nat) (bs : List Byte) : State :=
  match x.seq with
  | none => s
  | some (p, j) =>
    if x.tokens ≤ m then s
    else
      let q := s.seqRead x.t p j
      let pos := q.last - x.tokens + m
      (List.range p.heads).foldl (fun s h =>
        (s.rowWrite x.t p q h 0 pos (slice bs (h * p.rowLen) p.rowLen)).rowWrite x.t p q h 1 pos
          (slice bs ((p.heads + h) * p.rowLen) p.rowLen)) s

/-- Stored rows written, batch after batch. -/
def State.writeRows (s : State) (x : RunCtx) (d : Desc) (l : Layout) (rows : List (List Byte)) : State :=
  (rows.zip (List.range rows.length)).foldl (fun s (bs, r) =>
    if l.kind = 4 then s.sequenceWrite x r bs else s.operandWrite x d l (r * l.pitch) bs) s

/-! Conversion of completed elements (R418 to R422). -/

/-- The stochastic value of element (g, m, n) of descriptor `index` (R421); 0 under other roundings. -/
def RunCtx.random (x : RunCtx) (d : Desc) (g m n : Nat) : Nat :=
  if d.mode % 4 = 1 then streamValue x.seed (streamAddress x.step (0x8000 + x.index) g m n) 0 else 0

/-- Blocks of 32 of an MX row: the patterns and then the scales. -/
def mxRow (code mode : Nat) : Nat → List (Num × Nat) → List Nat × List Nat
  | 0, _ => ([], [])
  | _, [] => ([], [])
  | n + 1, xs =>
    let blk := xs.take 32
    let (e, ps) := mxBlock code mode (blk.map (·.1)) (blk.map (·.2))
    let (a, b) := mxRow code mode n (xs.drop 32)
    (ps ++ a, e :: b)

def Elt.float (x : Elt) : Num :=
  match x with
  | .num y => y
  | .int z => intToNum z 0

/-- The bytes of one logical row (g, m) of completed elements. -/
def RunCtx.outRow (x : RunCtx) (d : Desc) (g m : Nat) (vs : List Elt) : List Byte :=
  let idx := vs.zip (List.range vs.length)
  if isMx d.fo then
    let (ps, es) := mxRow d.fo d.mode vs.length (idx.map (fun (v, n) => (v.float, x.random d g m n)))
    packRow d.fo ps ++ es.map byte
  else packRow d.fo (idx.map (fun (v, n) => convertOut d.fo d.mode (x.random d g m n) v))

/-- Completed matrices, one per batch, written to C. -/
def State.writeMatrices (s : State) (x : RunCtx) (d : Desc) (l : Layout) (ms : List (List (List Elt))) : State :=
  let rows := (ms.zip (List.range ms.length)).flatMap (fun (mat, g) =>
    if l.transposed then
      let pat := (mat.zip (List.range mat.length)).map (fun (row, m) =>
        (row.zip (List.range row.length)).map (fun (v, n) => convertOut d.fo d.mode (x.random d g m n) v))
      (transpose 0 l.rows pat).map (packRow d.fo)
    else (mat.zip (List.range mat.length)).map (fun (row, m) => x.outRow d g m row))
  s.writeRows x d l rows

/-! Reductions. -/

/-- A total with the saturation of any of its steps (R328). -/
structure Total where
  value : Elt
  sat : Bool := false

/-- The canonical reduction of products (R425 to R427). -/
def dot (isI : Bool) (a b : List Elt) : Total :=
  let ps := chunks (a.zip b)
  if isI then
    let r := tree Sat.add ⟨0, false⟩ (ps.map (fun c => saturate32 (c.foldl (fun z (p, q) =>
      z + (match p, q with | .int u, .int v => u * v | _, _ => 0)) 0) false))
    ⟨.int r.value, r.sat⟩
  else ⟨.num (tree Num.add .zero (ps.map (fun c => chunkFloat (c.map (fun (p, q) => (p.float, q.float)))))), false⟩

/-- An exact difference or sum of two finite values. -/
def exactSum (a b : Num) : Num :=
  match a, b with
  | .fin x m, .fin y n =>
    let z := Num.int (.fin x m) + Num.int (.fin y n)
    .fin (if z = 0 then x && y else decide (z < 0)) z.natAbs
  | _, _ => a.add b

/-- −0 before +0 (R387). -/
def Num.before (a b : Num) : Bool := a.lt b || (a.isZero && b.isZero && a.neg && !b.neg)
def Num.max (a b : Num) : Num := if a.isNan || b.isNan then .nan else if a.before b then b else a
def Num.min (a b : Num) : Num := if a.isNan || b.isNan then .nan else if b.before a then b else a

/-- A comparison of mode 4 (Table 8.5). -/
def compareHolds (c : Nat) (a b : Elt) : Bool :=
  let x := a.float
  let y := b.float
  if c = 0 then x.eq y else if c = 1 then !x.eq y else if c = 2 then x.lt y else if c = 3 then x.lt y || x.eq y
  else if c = 4 then y.lt x else y.lt x || x.eq y

def bigInt (f : Int → Int → Int) : List Int → Int
  | [] => 0
  | z :: zs => zs.foldl f z
def bigNum (f : Num → Num → Num) : List Num → Num
  | [] => .zero
  | z :: zs => zs.foldl f z

/-- The reduction of a distance mode (Table 8.6, R337). -/
def distance (mode cmp : Nat) (isI : Bool) (a b : List Elt) : Total :=
  let ps := a.zip b
  let z (e : Elt) : Int := match e with | .int v => v | _ => 0
  let sums (f : Elt × Elt → Int) : Total :=
    let r := tree Sat.add ⟨0, false⟩ ((chunks ps).map (fun c => saturate32 (c.foldl (fun n p => n + f p) 0) false))
    ⟨.int r.value, r.sat⟩
  if mode = 4 then sums (fun (p, q) => if compareHolds cmp p q then 1 else 0)
  else if isI then
    if mode = 0 then sums (fun (p, q) => (z p - z q).natAbs)
    else if mode = 1 then sums (fun (p, q) => (z p - z q) * (z p - z q))
    else ⟨.int (bigInt (if mode = 2 then min else max) (ps.map (fun (p, q) => z p + z q))), false⟩
  else
    let diff (p : Elt × Elt) : Num := exactSum p.1.float p.2.float.negate
    let fl (f : Elt × Elt → Num × Num) : Total :=
      ⟨.num (tree Num.add .zero ((chunks ps).map (fun c => chunkFloat (c.map f)))), false⟩
    if mode = 0 then fl (fun p => ((diff p).abs, .fin false (2 ^ 149)))
    else if mode = 1 then fl (fun p => (diff p, diff p))
    else
      let r := bigNum (if mode = 2 then Num.min else Num.max) (ps.map (fun (p, q) => exactSum p.float q.float))
      ⟨.num (match r with | .fin n m => toNum n m 149 | y => y), false⟩

/-! Completion (R329, R351). -/

/-- The FP32 value that an INT32 accumulator takes as an integer (R329). -/
def biasInt (x : Num) : Int := signed 32 (convertOut 0x03 0 0 (.num x))

/-- Addition in the accumulator's arithmetic. -/
def Total.plus (a : Total) (y : Elt) : Total :=
  match a.value, y with
  | .int u, .int v => let r := saturate32 (u + v) a.sat; ⟨.int r.value, r.sat⟩
  | .int u, .num v => let r := saturate32 (u + biasInt v) a.sat; ⟨.int r.value, r.sat⟩
  | .num u, y => ⟨.num (u.add y.float), a.sat⟩

/-- Element (m, n) of a logical matrix. -/
def elem (m : List (List Elt)) (i j : Nat) : Elt := (m.getD i []).getD j (.int 0)

/-- What a descriptor computes, before it is written: completed elements by batch, row and column, or whole rows of bytes. -/
inductive Computed where
  | elements (ms : List (List (List Total)))
  | bytes (rows : List (List Byte))

/-- Completed elements that cannot saturate on the way. -/
def Computed.plain (ms : List (List (List Elt))) : Computed :=
  .elements (ms.map (fun mat => mat.map (fun row => row.map (fun v => { value := v }))))

/-- Steps 2 and 3 of R329 over every total. -/
def complete (totals : List (List (List Total))) (bias : Nat → Nat → Option Elt) (old : Option (List (List (List Elt)))) :
    Computed :=
  let elemOf (g m n : Nat) (v : Total) : Total :=
    let v := match bias m n with
      | some b => v.plus b
      | none => v
    match old with
    | some o => v.plus (elem (o.getD g []) m n)
    | none => v
  .elements (totals.mapIdx (fun g mat => mat.mapIdx (fun m row => row.mapIdx (fun n v => elemOf g m n v))))

/-! The run of one descriptor. -/

/-- What a run leaves: the state, saturated elements, clamped accesses, and the observed values of a STOPMM. -/
structure RunResult where
  s : State
  sat : Nat := 0
  clamped : Nat := 0
  observed : List (List (List Elt)) := []

/-- The existing values of C, where accumulate reads them. -/
def State.oldOutput (s : State) (x : RunCtx) (d : Desc) (c : Layout) (g : Nat) : Option (List (List (List Elt))) :=
  if d.accumulate then
    let rows := s.operandRows x d c
    some ((List.range g).map (fun i => c.matrix rows i))
  else none

def State.matrices (s : State) (x : RunCtx) (d : Desc) (l : Option Layout) (g : Nat) : List (List (List Elt)) :=
  match l with
  | some y => let rows := s.operandRows x d y; (List.range g).map (fun i => y.matrix rows i)
  | none => (List.range g).map (fun _ => [])

/-- Totals of every row of A with every column of B. -/
def products (f : List Elt → List Elt → Total) (A B : List (List (List Elt))) (n : Nat) : List (List (List Total)) :=
  (A.zip B).map (fun (a, b) =>
    let cols := transpose (.int 0) n b
    a.map (fun row => cols.map (f row)))

/-- The implicit patch matrix of a convolution (R334, R335). -/
def patchMatrix (v : Window) (zero : Elt) (m k cin : Nat) (input : List (List Elt)) : List (List Elt) :=
  (List.range m).map (fun i => (List.range k).map (fun j =>
    match v.pixel i (j / cin) with
    | some px => elem input px (j % cin)
    | none => zero))

/-- Matrices read by the units of K: column `k` of each (row `k`, where `byRow` says so) as the core of the unit of `k` reads it. -/
def RunCtx.byUnit (x : RunCtx) (d : Desc) (byRow : Bool) (read : RunCtx → List (List (List Elt))) : List (List (List Elt)) :=
  match x.cores with
  | c :: c' :: cs =>
    let all := (c :: c' :: cs).map (fun c => read { x with cores := [c] })
    let pick (k : Nat) : List (List (List Elt)) := all.getD (k / (128 * 2 ^ d.q)) []
    (all.headD []).mapIdx (fun g mat => mat.mapIdx (fun i row =>
      if byRow then ((pick i).getD g []).getD i []
      else row.mapIdx (fun j e => (((pick j).getD g []).getD i []).getD j e)))
  | _ => read x

def State.computeMatmul (s : State) (x : RunCtx) (d : Desc) (sh : Shape) (c : Layout) : Computed :=
  let A := x.byUnit d false (fun x =>
    let A := s.matrices x d (d.layoutA sh) sh.g
    if d.op = opConv then A.map (patchMatrix d.window (Elt.zero d.fa) sh.m sh.k (max 1 (d.par 4 2))) else A)
  let B := x.byUnit d true (fun x => s.matrices x d (d.layoutB sh) sh.g)
  let D := (s.matrices x d (d.layoutD sh) 1).headD []
  let isI := isInt d.fa
  let f := if d.op = opDistance then distance (d.par 0 1) (d.par 1 1) isI else dot isI
  let bias (m n : Nat) : Option Elt :=
    if d.op ≠ opMatmul ∨ d.par 0 1 = 0 then none else some (elem D (if d.par 0 1 = 1 then 0 else m) n)
  complete (products f A B sh.n) bias (s.oldOutput x d c sh.g)

/-- Input rows of a STOPMM as integers, batch after batch. -/
def State.stopInputs (s : State) (x : RunCtx) (d : Desc) (sh : Shape) : List (List Int) :=
  (x.byUnit d false (fun x => s.matrices x d (d.layoutA sh) sh.g)).flatMap (fun mat => mat.map (fun row =>
    row.map (fun e => match e with
      | .int z => z
      | .num _ => 0)))

def State.computeStopmm (s : State) (x : RunCtx) (d : Desc) (sh : Shape) (c : Layout) : Computed :=
  match (s.train x.t).objects.residencies.find? (·.handle == d.b.addr % 2 ^ 32) with
  | none => .elements []
  | some r => match s.modelOf x.t r with
    | none => .elements []
    | some model =>
      let mat := s.stopMatrixOf x.t d
      let A := x.byUnit d false (fun x => s.matrices x d (d.layoutA sh) sh.g)
      let W := (List.range sh.k).map (fun k => (List.range sh.n).map (fun n => Elt.int (s.stopWeight x.t r mat model k n)))
      let D := (s.matrices x d (d.layoutD sh) 1).headD []
      let mode := d.par 1 1
      let tot := products (dot true) A (A.map (fun _ => W)) sh.n
      let scaled := if mode = 0 then tot else tot.map (fun mt => mt.map (fun row =>
        (row.zip (List.range row.length)).map (fun (v, n) =>
          let y := v.value.float.mul (elem D 0 n).float
          ({ value := .num (if mode = 2 then y.add (elem D 1 n).float else y), sat := v.sat } : Total))))
      complete scaled (fun _ _ => none) (s.oldOutput x d c sh.g)

/-- What a STOPMM run leaves beside its output: failed residue checks, and the rows driven (R365, R369). -/
def State.checkStopmm (s : State) (x : RunCtx) (d : Desc) (sh : Shape) : State :=
  match (s.train x.t).objects.residencies.find? (·.handle == d.b.addr % 2 ^ 32) with
  | none => s
  | some r => match s.modelOf x.t r with
    | none => s
    | some model =>
      let mat := s.stopMatrixOf x.t d
      let rows := s.stopInputs x d sh
      let s := (s.residueFails x.t r mat model.format rows).foldl (fun s (core, mac) => s.latchFailure x.t 5 core mac) s
      (s.rowsDriven x.t r mat model.format rows).foldl (fun s (core, n) => s.countRows core n) s

/-- One head's output row (R340). `keys` lists (permitted, key row, value row) in ascending position. -/
def attendRow (scale : Num) (q : List Elt) (keys : List (Bool × List Elt × List Elt)) (dh : Nat) : List Num :=
  let score (k : List Elt) : Num := scale.mul (dot false q k).value.float
  let ss := keys.map (fun (ok, k, _) => (ok, if ok then score k else Num.zero))
  let seen := (ss.filter (·.1)).map (·.2)
  if seen = [] then (List.range dh).map (fun _ => Num.zero)
  else
    let top := bigNum Num.max seen
    let ps := ss.map (fun (ok, v) =>
      if ok then
        (match decodeElt 0x12 (convertOut 0x12 0 0 (.num (sfuPrecise 0 (v.sub top)))) 0 with
         | .num y => y
         | .int _ => Num.zero)
      else Num.zero)
    let one : Num := .fin false (2 ^ 149)
    let red (w : List Num) : Num := tree Num.add .zero ((chunks (ps.zip w)).map chunkFloat)
    let total := red (ps.map (fun _ => one))
    (List.range dh).map (fun j => (red (keys.map (fun (_, _, v) => (v.getD j (.int 0)).float))).div total)

def State.computeAttend (s : State) (x : RunCtx) (d : Desc) (sh : Shape) (_c : Layout) : Computed :=
  let H := d.par 0 1
  let dh := d.par 2 2
  let causal := d.par 1 1 == 1
  let base := d.par 8 4
  let A := s.matrices x d (d.layoutA sh) sh.g
  let B := if d.b.kind = 4 then [] else s.matrices x d (d.layoutB sh) sh.g
  let V := s.matrices x d (d.layoutD sh) sh.g
  let q := x.seq.map (fun (p, j) => (p, s.seqRead x.t p j))
  let row (bs : List Byte) : List Elt := (List.range dh).map (eltAt d.fb dh bs)
  let keysOf (g h m : Nat) : List (Bool × List Elt × List Elt) :=
    (List.range sh.k).map (fun (k : Nat) =>
      if d.b.kind = 4 then
        match q with
        | some (p, sq) =>
          let pos : Int := (sq.last : Int) - sh.k + k
          if (sq.base : Int) ≤ pos ∧ 0 ≤ pos then
            (!causal || decide (pos ≤ base + m), row (s.rowRead x.t p sq h 0 pos.toNat), row (s.rowRead x.t p sq h 1 pos.toNat))
          else (false, [], [])
        | none => (false, [], [])
      else (!causal || decide (k ≤ base + m), (B.getD g []).getD (h * sh.k + k) [], (V.getD g []).getD (h * sh.k + k) []))
  let out := (A.zip (List.range A.length)).map (fun (mat, g) =>
    (mat.zip (List.range mat.length)).map (fun (qr, m) =>
      (List.range H).flatMap (fun h =>
        (attendRow (f32 (d.par 4 4)) ((qr.drop (h * dh)).take dh) (keysOf g h m) dh).map Elt.num)))
  .plain out

/-! CHAIN (R380 to R393). -/

/-- The firmware release that runs (R391, Table 20.3). -/
def State.firmwareRelease (s : State) : Nat := field (s.bank s.dev.activeBank).image 6 2

/-- The chain data of column `n` (R384). -/
def Desc.chainValue (d : Desc) (data : List Byte) (ncols arg n : Nat) (b : Num) (next : Nat) : Num :=
  let _ := d
  if arg / 64 = 0 then f32 (field data (4 * (arg % 16 + next)) 4)
  else if arg / 64 = 1 then f32 (field data (64 + 4 * ((arg % 8 + next) * ncols + n)) 4)
  else b

/-- One stage over the running value. `stat` is the row record of B, `g` the gate partner. -/
def Desc.stage (d : Desc) (release : Nat) (data : List Byte) (ncols n : Nat) (b g : Num) (stat : Num × Num) (v : Num) (st : ChainStage) : Num :=
  let a := d.chainValue data ncols st.arg n b 0
  let c := st.code
  if c = 0x01 then v.add a else if c = 0x02 then v.mul a
  else if c = 0x03 then v.fma a (d.chainValue data ncols st.arg n b 1)
  else if c = 0x04 then v.max a else if c = 0x05 then v.min a else if c = 0x06 then v.abs
  else if c = 0x07 then v.negate else if c = 0x08 then v.mul v else if c = 0x09 then v.max .zero
  else if c = 0x0A then
    if v.isNan || a.isNan then .nan else if v.lt .zero then v.mul a else v
  else if c = 0x0B then (v.sub stat.1).mul stat.2
  else if c = 0x20 then sfu release (st.arg % 16) (bit st.arg 4) v
  else (sfu release (st.arg % 16) (bit st.arg 4) v).mul g

def State.computeChain (s : State) (x : RunCtx) (d : Desc) (sh : Shape) (_c : Layout) : Computed :=
  let A := s.matrices x d (d.layoutA sh) sh.g
  let B := if d.norm then (List.range sh.g).map (fun _ => []) else s.matrices x d (d.layoutB sh) sh.g
  let recs := if d.norm then (match d.layoutB sh with | some l => s.operandRows x d l | none => []) else []
  let data := match d.layoutD sh with
    | some l => s.operandRead x d l 0 l.rowLen
    | none => []
  let out := (A.zip (List.range A.length)).map (fun (mat, g) =>
    (mat.zip (List.range mat.length)).map (fun (row, m) =>
      let r := recs.getD (g * sh.m + m) []
      let stat := (f32 (field r 0 4), f32 (field r 8 4))
      (List.range sh.n).map (fun n =>
        let b := (elem (B.getD g []) m n).float
        let gp := if d.gate1 then (row.getD (sh.n + n) (.int 0)).float else b
        Elt.num (d.stages.foldl (fun v st => d.stage s.firmwareRelease data sh.n n b gp stat v st) (row.getD n (.int 0)).float))))
  .plain out

/-! ROWSTAT and ROWSTAT2 (R394 to R397). -/

/-- The block sum (R395): each chunk is a tree of 128 leaves, filled with +0. -/
def blockSum (xs : List Num) : Num :=
  tree Num.add .zero ((chunks xs).map (fun c => tree Num.add .zero (c ++ List.replicate (128 - c.length) Num.zero)))

def natNum (n : Nat) : Num := toNum false n 0

/-- The row record (Table 10.5). -/
def rowRecord (two : Bool) (eps : Num) (sample : Bool) (xs : List Num) : List Byte :=
  let n := natNum xs.length
  if xs.any (fun v => v.isNan || v.isInf) then
    (List.range 3).flatMap (fun _ => leBytes 4 0x7FC00000) ++ leBytes 4 4
  else
    let c := if two then (blockSum xs).div n else xs.headD .zero
    let d := xs.map (fun v => v.sub c)
    let s1 := blockSum d
    let s2 := blockSum (d.map (fun v => v.mul v))
    let a := s1.div n
    let mean := c.add a
    let q := s2.sub (s1.mul a)
    let clamp := q.lt .zero
    let q := if clamp then Num.zero else q
    let var := q.div (if sample then natNum (xs.length - 1) else n)
    let rstd := sfuPrecise 5 (var.add eps)
    let m2 := mean.mul mean
    let cancel := match var, m2 with
      | .fin _ v, .fin _ w => decide (v * 2 ^ 16 < w)
      | a, b => a.lt b
    leBytes 4 (encode32 mean) ++ leBytes 4 (encode32 var) ++ leBytes 4 (encode32 rstd) ++ leBytes 4 (flag cancel + 2 * flag clamp)

def State.computeRowstat (s : State) (x : RunCtx) (d : Desc) (sh : Shape) (_c : Layout) : Computed :=
  let A := s.matrices x d (d.layoutA sh) sh.g
  let rows := A.flatMap (fun mat => mat.map (fun row =>
    rowRecord (d.op == opRowstat2) (f32 (d.par 0 4)) (d.par 4 1 == 1) (row.map Elt.float)))
  .bytes rows

/-! DWCONV and POOL (R400 to R407). -/

def State.computeDwconv (s : State) (x : RunCtx) (d : Desc) (sh : Shape) (c : Layout) : Computed :=
  let A := s.matrices x d (d.layoutA sh) sh.g
  let W := (s.matrices x d (d.layoutB sh) 1).headD []
  let D := (s.matrices x d (d.layoutD sh) 1).headD []
  let old := s.oldOutput x d c sh.g
  let mu := max 1 (d.par 12 1)
  let out := (A.zip (List.range A.length)).map (fun (mat, g) =>
    (List.range sh.m).map (fun m => (List.range sh.n).map (fun n =>
      let acc := (List.range sh.k).foldl (fun acc k =>
        let a := match d.window.pixel m k with
          | some px => (elem mat px (n / mu)).float
          | none => Num.zero
        a.fma (elem W k n).float acc) Num.zero
      let acc := if d.par 13 1 = 1 then acc.add (elem D 0 n).float else acc
      let acc := match old with
        | some o => acc.add (elem (o.getD g []) m n).float
        | none => acc
      Elt.num acc)))
  .plain out

def State.computePool (s : State) (x : RunCtx) (d : Desc) (sh : Shape) (_c : Layout) : Computed :=
  let A := s.matrices x d (d.layoutA sh) sh.g
  let mode := d.par 9 1
  let out := A.map (fun mat => (List.range sh.m).map (fun m => (List.range sh.n).map (fun n =>
    let taps := (List.range sh.k).map (fun k => (d.window.pixel m k).map (fun px => (elem mat px n).float))
    let inside := taps.filterMap id
    if mode = 0 then Elt.num (bigNum Num.max inside)
    else
      let vs := if mode = 1 then taps.map (fun v => v.getD .zero) else inside
      let sum := match vs with
        | [] => Num.zero
        | v :: r => r.foldl Num.add v
      Elt.num (sum.mul (natNum (if mode = 1 then sh.k else inside.length)).recip))))
  .plain out

/-! RNGFILL (R439 to R445). -/

def randomElement (x : RunCtx) (d : Desc) (g m n : Nat) : Elt :=
  let A := streamAddress x.step (d.par 2 2) g m n
  let u := streamValue x.seed A 0
  let p1 := f32 (d.par 4 4)
  let p2 := f32 (d.par 8 4)
  let dist := d.par 0 1
  if dist = 0 then .int (signed 32 u)
  else if dist = 1 then .num ((p2.sub p1).fma (uniform u) p1)
  else if dist = 2 then .num (p2.fma (gaussian u (streamValue x.seed A 1)) p1)
  else .num (if u < d.par 4 4 then p2 else .zero)

def computeRngfill (x : RunCtx) (d : Desc) (sh : Shape) (_c : Layout) : Computed :=
  .plain ((List.range sh.g).map (fun g => (List.range sh.m).map (fun m => (List.range sh.n).map (randomElement x d g m))))

/-! COPY and GATHER (R481, R482, R484). -/

def State.computeCopy (s : State) (x : RunCtx) (d : Desc) (sh : Shape) (_c : Layout) : Computed :=
  match d.layoutA sh with
  | some a => .bytes (s.operandRows x d a)
  | none => .bytes []

/-- The indices of a GATHER. -/
def State.gatherIndices (s : State) (x : RunCtx) (d : Desc) (sh : Shape) : List Nat :=
  match d.layoutB sh with
  | some b =>
    let ib := s.operandRead x d b 0 b.rowLen
    (List.range sh.m).map (fun m => field ib (4 * m) 4)
  | none => []

def State.computeGather (s : State) (x : RunCtx) (d : Desc) (sh : Shape) (_c : Layout) : Computed :=
  match d.layoutA sh with
  | some a => .bytes ((s.gatherIndices x d sh).map (fun i => if i < d.par 0 4 then s.operandRead x d a (i * a.pitch) sh.n else zeros sh.n))
  | none => .bytes []

/-- What one descriptor computes (Table 7.5). -/
def State.computeDesc (s : State) (x : RunCtx) (d : Desc) (sh : Shape) (c : Layout) : Computed :=
  let op := d.op
  if op = opMatmul ∨ op = opConv ∨ op = opDistance then s.computeMatmul x d sh c
  else if op = opStopmm then s.computeStopmm x d sh c
  else if op = opAttend then s.computeAttend x d sh c
  else if op = opChain then s.computeChain x d sh c
  else if op = opRowstat ∨ op = opRowstat2 then s.computeRowstat x d sh c
  else if op = opDwconv then s.computeDwconv x d sh c
  else if op = opPool then s.computePool x d sh c
  else if op = opRngfill then computeRngfill x d sh c
  else if op = opCopy then s.computeCopy x d sh c
  else s.computeGather x d sh c

/-! The cores that run a descriptor (R292, R313, R314). -/

/-- The chip-wide core that runs unit `v` at position `w`; on another card the first core of the set here stands for it. -/
def State.unitCore (s : State) (t : Nat) (d : Desc) (mat : StopMatrix) (w : Nat) (v : TileUnit) : Nat :=
  (s.slabCore t ((d.first + d.coreOf mat w v) % s.groupCores t)).getD ((s.coreSet t d).headD 0)

/-- The cores of the units of each output tile, by batch and tile. -/
def State.tileCores (s : State) (t : Nat) (d : Desc) (sh : Shape) : List ((Nat × Nat × Nat) × List Nat) :=
  let mat := s.stopMatrixOf t d
  let us := ((d.units sh).mapIdx (fun w v => (v, s.unitCore t d mat w v)))
  ((us.filter (fun p => p.1.u == 0)).map (fun p => (p.1.g, p.1.i, p.1.j))).map (fun (g, i, j) =>
    ((g, i, j), (List.range (d.splitUnits sh)).map (fun u =>
      ((us.find? (fun p => p.1 == ⟨g, i, j, u⟩)).map (·.2)).getD ((s.coreSet t d).headD 0))))

/-- What the CLM operands read by a descriptor show in one core. -/
def State.clmView (s : State) (x : RunCtx) (d : Desc) (sh : Shape) (core : Nat) : List (List Byte) :=
  let ins := d.inputs sh ++ (if d.accumulate then (d.layoutC sh).toList else [])
  (ins.filter (·.kind == 2)).map (fun l => s.operandRead { x with cores := [core] } d l 0 l.length)

/-- The element or byte at a place of what one assignment of cores computes. -/
def Computed.at (r : Computed) (g m n : Nat) : Total :=
  match r with
  | .elements ms => ((ms.getD g []).getD m []).getD n { value := .int 0 }
  | .bytes _ => { value := .int 0 }
def Computed.byteAt (r : Computed) (row n : Nat) : Byte :=
  match r with
  | .elements _ => 0
  | .bytes rows => (rows.getD row []).getD n 0

/-- What a descriptor computes when each core reads its own CLM: where all cores of the set show the same, one computation;
else each output tile as its own cores compute it (R292). -/
def State.computeAll (s : State) (x : RunCtx) (d : Desc) (sh : Shape) (c : Layout) : Computed :=
  let views := (s.coreSet x.t d).map (s.clmView x d sh)
  if views.all (· == views.headD []) then s.computeDesc x d sh c
  else
    let tiles := s.tileCores x.t d sh
    let all := ((tiles.map (·.2)).eraseDups).map (fun cs => (cs, s.computeDesc { x with cores := cs } d sh c))
    let of (g i j : Nat) : Computed :=
      (((tiles.find? (fun p => p.1 == (g, i, j))).bind (fun p => all.find? (fun q => q.1 == p.2))).map (·.2)).getD (.bytes [])
    match all with
    | (_, .elements ms) :: _ => .elements (ms.mapIdx (fun g mat => mat.mapIdx (fun m row => row.mapIdx (fun n _ =>
        (of g (m / d.tm) (n / d.tn)).at g m n))))
    | (_, .bytes rows) :: _ => .bytes (rows.mapIdx (fun r row => row.mapIdx (fun n _ =>
        (of (r / max 1 sh.m) (r % max 1 sh.m / d.tm) (n / d.tn)).byteAt r n)))
    | [] => .bytes []

/-- The vector registers and Bore cells of the cores of a descriptor as its run leaves them (R378, R379). -/
def State.loadUnits (s : State) (x : RunCtx) (d : Desc) : State :=
  let run := s.dev.freeIndex
  let s := s.modDev (fun y => { y with freeIndex := run + 1 })
  (s.coreSet x.t d).foldl (fun s c => s.modCore c (fun k =>
    if d.op = opMatmul ∨ d.op = opConv ∨ d.op = opDistance ∨ d.op = opAttend then { k with vectorRun := some run, boreRun := some run }
    else if vectorOps.contains d.op ∨ d.op = opStopmm then { k with vectorRun := some run } else k)) s

/-- Narrow gather accesses counted in the cores that run the units: one for each sector of each record read (R483). -/
def State.countGather (s : State) (x : RunCtx) (d : Desc) (sh : Shape) : State :=
  let idx := s.gatherIndices x d sh
  let mat := s.stopMatrixOf x.t d
  ((d.units sh).mapIdx (fun w v => (v, s.unitCore x.t d mat w v))).foldl (fun s (v, core) =>
    let rows := ((idx.drop (v.i * d.tm)).take d.tm).filter (fun i => decide (i < d.par 0 4))
    let bytes := min sh.n ((v.j + 1) * d.tn) - v.j * d.tn
    s.countGatherAccesses core (rows.length * (bytes / 32))) s

/-- One descriptor of a run. -/
def State.runDesc (s : State) (x : RunCtx) (d : Desc) (sh : Shape) : RunResult :=
  match d.layoutC sh with
  | none => { s := s }
  | some c =>
    let r := s.computeAll x d sh c
    let s := s.loadUnits x d
    match r with
    | .elements ms =>
      let mats := ms.map (fun mat => mat.map (fun row => row.map (·.value)))
      let s := if d.op = opStopmm then s.checkStopmm x d sh else s
      { s := s.writeMatrices x d c mats
        sat := ms.foldl (fun n mat => mat.foldl (fun n row => n + (row.filter (·.sat)).length) n) 0
        observed := if d.op = opStopmm then mats else [] }
    | .bytes rows =>
      let idx := if d.op = opGather then s.gatherIndices x d sh else []
      { s := (if d.op = opGather then s.countGather x d sh else s).writeRows x d c rows
        clamped := (idx.filter (fun i => decide (d.par 0 4 ≤ i) && i != 0xFFFFFFFF)).length }

/-! Range monitors (R376). -/

/-- The observations of one run added to a monitor's open window; a full window waits for the seal. -/
def Monitor.observe (m : Monitor) (d : Desc) (obs : List (List (List Elt))) : Monitor :=
  if m.residency ≠ d.b.addr % 2 ^ 32 ∨ m.matrix ≠ d.par 0 1 ∨ m.window ≤ m.runs then m
  else
    let vs := obs.flatMap (fun mat => mat.flatMap (fun row => (row.drop m.column).take m.columns))
    let units (e : Elt) : Int := match e with
      | .int z => z * 2 ^ 149
      | .num y => y.int
    { m with
      sum := vs.foldl (fun z e => z + (if m.statistic = 1 then units e * units e else units e * 2 ^ 149)) m.sum
      count := m.count + vs.length
      largest := vs.foldl (fun n e => max n (units e).natAbs) m.largest
      special := vs.foldl (fun n e =>
        let k := match e with
          | .int _ => 0
          | .num y => if y.isNan then 3 else if !y.isInf then 0 else if m.statistic = 0 ∧ y.neg then 2 else 1
        if n = 0 then k else if k = 0 ∨ k = n then n else 3) m.special
      runs := m.runs + 1 }

/-- The statistic of a full window, rounded once to FP32. -/
def Monitor.value (m : Monitor) : Num :=
  if m.special ≠ 0 then (if m.special = 3 then .nan else .inf (m.special == 2))
  else if m.statistic = 2 then toNum false m.largest 149
  else
    let s := 40 + bitLen m.count
    toNum (decide (m.sum < 0)) (m.sum.natAbs * 2 ^ s / max 1 m.count) (298 + s) (m.sum.natAbs * 2 ^ s % max 1 m.count != 0)

/-- The window opened anew. -/
def Monitor.reopen (m : Monitor) : Monitor := { m with sum := 0, count := 0, largest := 0, special := 0, runs := 0 }
def Monitor.outside (m : Monitor) : Bool := m.value.lt (f32 m.lower) || (f32 m.upper).lt m.value

end Sys2Proof.Machine
end

