-- ==== Sys2Proof/Machine/Check.lean ====
section
/-! DEFINITION. Step 14 of the checking order: the checks of each opcode's entry, and what a command that passes them
carries into its Breath (chapter 6; R158, R296, R299, R541, R542). The order of the checks within step 14 is the model's
(assumption 31). -/

namespace Sys2Proof.Machine

def failIf (bad : Bool) (r : Refuse) : Except Refuse Unit := if bad then .error r else .ok ()
def failWith : Option Refuse → Except Refuse Unit
  | some r => .error r
  | none => .ok ()

/-! Handles (R182). -/

/-- The kind of the object a handle names in its group for its function: 0 model, 1 residency, 2 program, 3 pool,
4 sequence, 5 session. -/
def State.handleKind (s : State) (t fn h : Nat) : Option Nat :=
  let o := (s.train t).objects
  if o.models.any (fun x => x.handle == h && x.fn == fn) then some 0
  else if o.residencies.any (fun x => x.handle == h && x.fn == fn) then some 1
  else if o.programs.any (fun x => x.handle == h && x.fn == fn) then some 2
  else if o.pools.any (fun x => x.handle == h && x.fn == fn) then some 3
  else if o.sessions.any (fun x => x.handle == h && x.fn == fn) then some 5
  else if (s.sequence? t fn h).isSome ∨ (s.lostSequence t fn h).isSome then some 4 else none

/-- The handle that a command releases. -/
def releasesOf : Command → Option Nat
  | .stopRelease h | .modelRelease h | .progRelease h | .histClose h | .vidClose h => some h
  | _ => none

/-- A command that has passed checking releases the handle (R465, case 6.4). -/
def State.closing (s : State) (t fn h : Nat) : Bool :=
  (s.train t).works.any (fun w => w.fn == fn && w.status == 0 && releasesOf w.cmd == some h)

/-- The handle in the parameter at packet offset `off` names an object of one of the kinds (Table 6.2). A handle of another kind
is answered 0x0602 also where the opcode's entry does not list that reason (DESIGN CHOICE, assumption 108). -/
def State.needHandle (s : State) (t fn : Nat) (kinds : List Nat) (h off : Nat) : Except Refuse Unit :=
  match s.handleKind t fn h with
  | none => .error (badParam 0x0601 off)
  | some k =>
    if !kinds.contains k then .error (badParam 0x0602 off)
    else if s.closing t fn h then .error (badParam 0x0601 off) else .ok ()

/-- A command in progress names the object. -/
def State.inUse (s : State) (t h : Nat) : Bool := (s.train t).works.any (fun w => w.uses.contains h)
/-- A command of the other ring of the function names it (R465). -/
def State.otherRing (s : State) (t fn h : Nat) (bulk : Bool) : Bool :=
  (s.train t).works.any (fun w => w.fn == fn && w.bulk != bulk && w.uses.contains h)

/-! HBM ranges (R183, R299, R541). -/

def ceil16 (n : Nat) : Nat := ceilDiv n 16
/-- Bytes of one frame buffer (R508). -/
def frameBytes (w h pitch : Nat) : Nat := pitch * h + pitch * (h / 2) + ceil16 w * ceil16 h
/-- Q, the bytes of one presentation buffer (R509). -/
def presentBytes (w h format : Nat) : Nat := roundUp (4096 + w * h * 3 * (formatBits format / 8)) 65536
def Session.ranges (x : Session) : List Range :=
  x.buffers.map (fun b => ⟨b, frameBytes x.width x.height x.pitch⟩) ++ [⟨x.present, 2 * presentBytes x.outW x.outH x.format⟩]

/-- Ranges in use by objects and by commands in progress (reason 0x0603). -/
def State.lockedRanges (s : State) (t : Nat) : List Range :=
  let o := (s.train t).objects
  o.models.map (fun m => ⟨m.addr, m.length⟩) ++ o.programs.map (fun p => ⟨p.addr, 128 * p.count⟩)
    ++ o.pools.map (fun p => ⟨p.base, p.length⟩) ++ o.sessions.flatMap (·.ranges) ++ (s.train t).works.flatMap (·.locks)
def State.locked (s : State) (t : Nat) (r : Range) : Bool := (s.lockedRanges t).any (·.meets r)

/-- The extents of a command clash with those of another (R541). -/
def State.extentClash (s : State) (t : Nat) (reads writes : List Range) : Bool :=
  let hit (a b : List Range) : Bool := a.any (fun x => b.any (·.meets x))
  (s.train t).works.any (fun w => hit writes (w.reads ++ w.writes) || hit reads w.writes)

/-- A range in a command parameter: alignment, group, retired pages (R183, R492, R496). -/
def State.needRange (s : State) (t a len align off : Nat) : Except Refuse Unit := do
  failIf (isSpill a || decide (a % align ≠ 0) || !s.inGroup t a len) (badParam 0x0604 off)
  failIf (s.rangeRetired t a len) (badParam 0x0607 off)

/-! Slots (R158, first stage). -/

def sameSlot (a b : SlotRef) : Bool := a.region == b.region && a.slot == b.slot

/-- The region that a command may name by a handle: one that its function registered for its group (R83, R182); the device
commands of the PF use each of the PF's regions (R151; DEDUCED, assumption 104). -/
def State.regionFor (s : State) (w : Work) (h : Nat) : Option Region :=
  ((s.fn w.fn).region? h).filter (fun r => r.train == w.train || w.train == adminTrain)

/-- The reason with which a reference is refused. -/
def State.slotProblem (s : State) (w : Work) (earlier : List SlotRef) (r : SlotRef) (out : Nat) : Option Nat :=
  match s.regionFor w r.region with
  | none => some 0x0501
  | some g =>
    if g.spill then some 0x0507 else if g.count ≤ r.slot then some 0x0502
    else if g.retired.contains r.slot then some 0x0503
    else if earlier.any (sameSlot r) || s.allWorks.any (fun o => o.fn == w.fn && o.slots.contains (r.region, r.slot)) then some 0x0505
    else if r.dir = 1 ∧ g.slotSize < out then some 0x0506 else none

/-- The packet offset of the `i`th slot reference of a command (chapter 6). -/
def refOffset (c : Command) (i : Nat) : Nat :=
  match c with
  | .progRun .. | .histPrefill .. => 26 + 8 * i
  | .score .. | .jobSubmit .. => 34 + 8 * i
  | .vidDecode .. => 14 + 8 * i
  | .attest .. => 42
  | _ => 10

/-- The refusal of a slot reference whose field begins at packet byte `o` (Tables 4.6, 5.5): the region in bytes 0 and 1, the
slot in bytes 2 and 3 of the reference. -/
def slotRefusal (e o region slot : Nat) : Refuse :=
  bellowsBad e region slot (if e = 0x0502 ∨ e = 0x0503 ∨ e = 0x0505 then o + 2 else o)

/-- The refusal of the first bad reference; `out` gives the output size by ordinal. -/
def State.slotsFailure (s : State) (w : Work) (out : Nat → Nat) : List SlotRef → List (Nat × SlotRef) → Option Refuse
  | _, [] => none
  | earlier, (i, r) :: rest =>
    match s.slotProblem w earlier r (out i) with
    | some e => some (slotRefusal e (refOffset w.cmd i) r.region r.slot)
    | none => s.slotsFailure w out (r :: earlier) rest
/-- Every reference of a command is good. -/
def State.needSlots (s : State) (w : Work) (out : Nat → Nat) : Except Refuse Unit :=
  failWith (s.slotsFailure w out [] (namedSlots w.refs))
/-- The first slot of an image is good; the field lies at packet byte `off` (R256, R258, R260). -/
def State.needImage (s : State) (w : Work) (h first dir off : Nat) : Except Refuse Unit :=
  failWith ((s.slotProblem w [] { region := h, slot := first, gen := 0, dir := dir } 0).map (fun e => slotRefusal e off h first))

def State.slotSizeOf (s : State) (fn : Nat) (r : SlotRef) : Nat := (((s.fn fn).region? r.region).map (·.slotSize)).getD 0

/-- The command holds or names a slot of a region: by a reference or an image, by the spill windows that it reads or writes
(R495), or by a SPILL sequence (R175). -/
def State.namesRegion (s : State) (w : Work) (fn h : Nat) : Bool :=
  (w.fn == fn && w.slots.any (·.1 == h))
    || (w.train + 1 == fn && (w.reads ++ w.writes).any (fun r => isSpill r.start && spillHandle r.start == h))
    || (w.fn == fn && w.uses.any (fun q => (s.sequence? w.train fn q).any (fun x => x.2.2.policy == 2 && x.2.2.region == h)))
/-- A slot of a region is held or named by a command in progress (R170). -/
def State.regionInUse (s : State) (fn h : Nat) : Bool := s.allWorks.any (fun w => s.namesRegion w fn h)

/-! Programs. -/

def State.readDescs (s : State) (t addr count : Nat) : List Desc :=
  (List.range count).map (fun i => Desc.ofBytes (s.hbmRead t (addr + 128 * i) 128))

/-- Descriptors of an indirect program up to its last one, at most `n`. -/
def State.readIndirect (s : State) (t : Nat) : Nat → Nat → List Desc
  | 0, _ => []
  | n + 1, a =>
    let d := Desc.ofBytes (s.hbmRead t a 128)
    if d.last then [d] else d :: s.readIndirect t n (a + 128)

/-- Step 10 for an indirect program (R129). -/
def State.indirectProblem (s : State) (t addr : Nat) : Option Refuse :=
  if addr % 128 ≠ 0 ∨ isSpill addr ∨ !s.inGroup t addr 128 then some (badParam 0x0604 10)
  else if s.rangeRetired t addr 128 then some (badParam 0x0607 10)
  else
    let ds := s.readIndirect t 4096 addr
    if !s.inGroup t addr (128 * ds.length) then some (badParam 0x0604 10)
    else if s.rangeRetired t addr (128 * ds.length) then some (badParam 0x0607 10)
    else (registrationFailure ds).map descriptorRefusal

/-- The program that a packet's first eight parameter bytes name: its address, its descriptors and its handle. -/
def State.programOf (s : State) (t fn : Nat) (flags ref : Nat) : Option (Nat × List Desc × Nat) :=
  if bit flags 3 then some (ref, s.readIndirect t 4096 ref, 0)
  else
    ((s.train t).objects.programs.find? (fun p => p.handle == ref % 2 ^ 32 && p.fn == fn)).map
      (fun p => (p.addr, s.readDescs t p.addr p.count, p.handle))

/-- The distinct shape-word blocks of a program, in order of use (Table 18.4). -/
def wordBlocks (ds : List Desc) : List Nat := ((ds.filter (·.usesWords)).map (·.words)).eraseDups

/-- The program of a command in progress, as bound. -/
def Work.bound (w : Work) : List (Desc × Shape) := (w.descriptors.map Desc.ofBytes).zip w.shapes

/-- Cores of a program's core sets. -/
def State.programCores (s : State) (t : Nat) (ps : List (Desc × Shape)) : List Nat :=
  (ps.flatMap (fun x => s.coreSet t x.1)).eraseDups
def State.onCore (s : State) (t c : Nat) (ps : List (Desc × Shape)) : List (Desc × Shape) :=
  ps.filter (fun x => (s.coreSet t x.1).contains c)
/-- Carried ranges of a program in one core (R295). -/
def State.carriedIn (s : State) (t c : Nat) (ps : List (Desc × Shape)) : List Range :=
  unionRanges (clmRanges true (s.onCore t c ps))
def State.carriedList (s : State) (t : Nat) (ps : List (Desc × Shape)) : List Carried :=
  (s.programCores t ps).flatMap (fun c => (s.carriedIn t c ps).map (fun r => { core := c, off := r.start, len := r.len }))

/-- The CLM limit of one core for the accepted programs with this one (R296). -/
def State.clmFull (s : State) (t c : Nat) (programs : List (List (Desc × Shape))) : Bool :=
  let carried := programs.foldl (fun n ps => n + 2 * (s.carriedIn t c ps).foldl (fun m r => m + r.len) 0) 0
  let foot (ps : List (Desc × Shape)) : Nat :=
    (s.onCore t c ps).foldl (fun n (d, x) => max n (d.scratchBytes x + totalLen (clmRanges false ps))) 0
  decide (programArea < carried + programs.foldl (fun n ps => max n (foot ps)) 0)

/-- The journal's bytes in a group (R542). -/
def State.journalBytes (s : State) (t : Nat) : Nat := 524288 * s.groupSize t

/-- The descriptors of a program pass the checks of a command, whose sequence has the geometry `hist`. They come before every
refusal that no descriptor is tied to (R301). -/
def State.needDescriptors (s : State) (w : Work) (prog : Nat × List Desc × Nat) (hist : Option (Nat × Nat × Nat × Nat)) :
    Except Refuse Unit :=
  let t := w.train
  let cx : Ctx := { train := t, opcode := w.cmd.opcode, refs := w.refs, history := hist
                    folds := (s.train t).objects.programs.any (fun p => p.handle == prog.2.2 && p.fn == w.fn && p.restored) }
  failWith ((s.checkingFailure cx w.fn (prog.2.1.map (fun d => (d, s.bindShape t d)))).map descriptorRefusal)

/-- A program bound for a command, without its slots and estimates. -/
def State.bindProgram (s : State) (w : Work) (prog : Nat × List Desc × Nat) (seed : Nat) : Except Refuse Work := do
  let (addr, ds, handle) := prog
  let t := w.train
  let ps := ds.map (fun d => (d, s.bindShape t d))
  failIf (w.audited && decide (8 < (wordBlocks ds).length)) (badParam 0x1201)
  let reads := programReads ps
  let writes := programWrites ps
  let own : List Range := if bit w.flags 3 then [⟨addr, 128 * ds.length⟩] else []
  failIf (s.extentClash t reads writes || writes.any (fun r => s.locked t r || own.any (·.meets r))) (badParam 0x0603)
  let car := s.carriedList t ps
  let others := ((s.train t).works.filter (·.descriptors != [])).map (·.bound)
  failIf ((s.train t).works.any (fun o => o.carried.any (fun a => car.any (fun b =>
    a.core == b.core && (Range.mk a.off a.len).meets ⟨b.off, b.len⟩)))) (badParam 0x0603)
  failIf ((s.programCores t ps).any (fun c => s.clmFull t c (ps :: others))) (noResource 0x001A)
  let inPlace := inPlaceBytes reads writes
  failIf (decide (inPlace ≠ 0 ∧ s.journalBytes t < (s.train t).works.foldl (fun n o => n + o.inPlace) inPlace))
    (noResource 0x0F10)
  let stops := (ds.filter (fun d => d.op == opStopmm)).map (fun d => d.b.addr % 2 ^ 32)
  let models := (s.programModels t w.fn ps).map (·.handle)
  .ok { w with
    program := handle, programAddr := addr, descriptors := ds.map (·.raw), indirect := bit w.flags 3
    shapes := ps.map (·.2), boundRegs := (s.train t).objects.shapes
    shapeWords := (wordBlocks ds).map (fun a => (a, s.hbmRead t a 64))
    reads := reads, writes := writes, locks := own, carried := car, inPlace := inPlace
    token := s.replayToken t w.fn seed ps
    uses := w.uses ++ (if handle = 0 then [] else [handle]) ++ stops ++ models }

/-- The program reference of a command, resolved (R129). -/
def State.needProgram (s : State) (w : Work) (ref : Nat) : Except Refuse (Nat × List Desc × Nat) := do
  if !bit w.flags 3 then s.needHandle w.train w.fn [2] (ref % 2 ^ 32) 10
  match s.programOf w.train w.fn w.flags ref with
  | some p => .ok p
  | none => .error (badParam 0x0601 10)

/-- The estimate of `runs` runs in one step with the slot charges (R179, R319, R462, R543). -/
def State.programEstimate (s : State) (w : Work) (runs : Nat) (hist : Option HistoryCost) : Estimate :=
  let ps := w.bound
  let first := s.runEstimate w.train ps hist true w.inPlace
  let later := if runs ≤ 1 then (0, []) else s.runEstimate w.train ps hist false 0
  let slots := s.slotCharges w.train w.fn w.refs (slotOutput ps)
  ⟨first.1 + (runs - 1) * later.1 + slots + (if hist.isSome then 400 else 0)
  , (addLists first.2 (later.2.map ((runs - 1) * ·))).foldl max 0⟩

/-- The estimate of a STOP_PIN's step of `n` bytes, with the slabs that pass to other cards (R222, R584): those of the step
with the most. -/
def State.pinEstimate (s : State) (t addr first cores n : Nat) : Estimate :=
  let k := s.cardsOf t
  let far (i : Nat) : Nat := if k.count = 1 ∨ k.cardOf (first + i) = addr / 2 ^ 40 then 0 else slabBytes
  let remote := ((List.range (ceilDiv cores 4)).map (fun j =>
    ((List.range 4).filter (fun i => 4 * j + i < cores)).foldl (fun n i => n + far (4 * j + i)) 0)).foldl max 0
  let e := s.fillEstimate t n
  ⟨e.cycles + (remoteTime (s.consort.topology == 1) (s.groupSize t) remote).cycles (s.train t).step
  , e.energy + remote * linkEnergy⟩

/-- A command with the estimate of one step; refused when a step fits no Breath (R64, Table 2.3). -/
def State.withEstimate (s : State) (w : Work) (e : Estimate) (steps : Nat) : Except Refuse Work := do
  failWith (s.stepFits w.train e)
  .ok { w with cycles := e.cycles, energy := e.energy, steps := steps }

/-! Sequences. -/

/-- An open sequence for a command, with its pool (R460, R465, R466). -/
def State.needSequence (s : State) (w : Work) (h off : Nat) : Except Refuse (Pool × Nat × Sequence) := do
  s.needHandle w.train w.fn [4] h off
  failIf (s.lostSequence w.train w.fn h).isSome { status := 0x51, reason := 0x0C11 }
  failIf (s.otherRing w.train w.fn h w.bulk) (badParam 0x0603 off)
  match s.sequence? w.train w.fn h with
  | none => .error (badParam 0x0601 off)
  | some (p, j, q) => do
    failWith (s.damaged w.train p q)
    .ok (p, j, q)

/-- The geometry of a command's sequence for the checks of operands of kind 4. -/
def State.historyOf (s : State) (w : Work) (h : Nat) : Option (Nat × Nat × Nat × Nat) :=
  (s.sequence? w.train w.fn h).map (fun (p, _, _) => (p.heads, p.headWidth, p.format, p.pt))

/-- The records that a HIST_PREFILL reads (R461): their size, the first kind 5 operand's pitch. -/
def Work.recordSize (w : Work) : Nat :=
  ((w.bound.flatMap (fun (d, x) => (d.inputs x).filter (·.kind == 5))).head?.map (·.pitch)).getD 0
/-- The most tokens that a HIST_PREFILL of a slot of `n` bytes appends (R461). -/
def Work.mostTokens (w : Work) (n : Nat) : Nat := n / max 1 w.recordSize

/-- Appends of accepted commands not yet executed on a sequence (R463). -/
def State.pendingAppends (s : State) (t h : Nat) : Nat :=
  ((s.train t).works.filter (fun w => w.uses.contains h && w.live && w.cmd.opcode == 0x60)).length

/-! Video (R504 to R515). -/

/-- A session as its descriptor and VID_OPEN describe it. -/
def sessionOf (codec width height buffers desc : Nat) (d : List Byte) : Session :=
  { handle := 0, fn := 0, codec := codec, width := width, height := height, desc := desc, wide := field d 2 1 == 1
    format := field d 3 1, outW := field d 4 2, outH := field d 6 2, rate := field d 8 4, bins := field d 12 4
    perCommand := field d 16 2, options := field d 18 1, pitch := field d 20 4, present := field d 24 8
    buffers := (List.range buffers).map (fun i => field d (64 + 8 * i) 8), engine := 0 }

/-- The descriptor byte offset of the first field that breaks Table 14.2. -/
def sessionFault (x : Session) (d : List Byte) : Option Nat :=
  let bad : List (Bool × Nat) :=
    [(field d 0 2 != 1, 0), (decide (1 < field d 2 1), 2), (! [0x10, 0x12, 0x13, 0x14].contains x.format, 3)
    , (decide (x.outW < 16 ∨ 1024 < x.outW), 4), (decide (x.outH < 16 ∨ 1024 < x.outH), 6)
    , (decide (x.rate < 1 ∨ 1200 < x.rate), 8), (decide (x.bins < 1024 ∨ 16777216 < x.bins), 12)
    , (decide (x.perCommand < 1 ∨ 8 < x.perCommand), 16), (decide (1 < x.options), 18), (field d 19 1 != 0, 19)
    , (decide (x.pitch % 64 ≠ 0 ∨ x.pitch < x.width * (if x.wide then 2 else 1)), 20)
    , (decide (x.present % 65536 ≠ 0), 24)]
  ((bad.find? (·.1)).map (·.2)).orElse (fun _ => ((firstNonZero d 32 32).map (fun _ => 32)).orElse (fun _ =>
    ((x.buffers.zip (List.range x.buffers.length)).find? (fun b => decide (b.1 % 65536 ≠ 0))).map (fun b => 64 + 8 * b.2)))

/-- The ranges of a session with their descriptor offsets. -/
def Session.areas (x : Session) : List (Nat × Range) :=
  (24, ⟨x.present, 2 * presentBytes x.outW x.outH x.format⟩)
    :: (x.buffers.zip (List.range x.buffers.length)).map (fun (b, i) => (64 + 8 * i, ⟨b, frameBytes x.width x.height x.pitch⟩))

/-- Decode units of one picture's ceiling F (R514). -/
def Session.ceilingUnits (x : Session) : Nat :=
  256 * ceil16 x.width * ceil16 x.height + x.bins + 65536 + 4096 + ceilDiv (x.width * x.height) 4 + x.outW * x.outH

/-- Sessions and reserved rate of an engine, with the VID_OPENs whose session no seal has committed yet (R503, R504). -/
def State.engineLoad (s : State) (e : Nat) : Nat × Nat :=
  let open_ := (s.trains.flatMap (·.objects.sessions)).filter (·.engine == e)
  let pend := s.allWorks.filter (fun w => w.cmd.opcode == 0x70 && w.status == 0 && w.aux.head? == some e)
  (open_.length + pend.length, open_.foldl (fun n x => n + x.rate) 0 + pend.foldl (fun n w => n + field w.auxBytes 8 4) 0)
def State.engineFor (s : State) (rate : Nat) : Option Nat :=
  [0, 1, 2, 3].find? (fun e => !s.enginesOffline.contains e && decide ((s.engineLoad e).1 < 16)
    && decide ((s.engineLoad e).2 + rate ≤ 1200))

/-- The estimate of a VID_DECODE (R515). -/
def State.decodeEstimate (s : State) (w : Work) (x : Session) : Estimate :=
  let du := x.perCommand * x.ceilingUnits
  let bytes := x.perCommand * 5 * frameBytes x.width x.height x.pitch + 64 + x.outW * x.outH * 3 * (formatBits x.format / 8)
  let dec := (Frac.add ⟨du * 1000, max 1 x.rate⟩ ⟨20000, 1⟩).cycles (s.train w.train).step
  let charged := runCharge bytes
  let mem := (Frac.mk charged (groupBandwidth (s.groupSize w.train))).cycles (s.train w.train).step
  ⟨40 + max dec mem + s.slotCharges w.train w.fn w.refs (fun i => if i = 1 then x.perCommand * 1152 else 0)
  , du * 600000 + charged * byteEnergy⟩

/-! Conditions of whole groups. -/

/-- A checkpoint of the group is in progress (R46, R93, R589). -/
def State.checkpointing (s : State) (t : Nat) : Bool :=
  (s.train t).works.any (fun w => w.cmd.opcode == 0x80) || (s.train adminTrain).works.any (fun w => w.cmd.opcode == 0x81)

/-- The group holds claimed spill slots (R588). -/
def State.spillHeld (s : State) (t : Nat) : Bool := (s.spillRegions t).any (fun x => x.2.claims != [])

/-- Conditions of R46 and R106 for a command `id` addressed to partition `p`. -/
def State.idleProblem (s : State) (w : Work) : Bool :=
  (s.train w.train).holdsWork w.id || s.checkpointing w.train || s.consort.member || decide (w.part ≠ w.train)

/-- The share a partition will have. -/
def Part.shareSoon (p : Part) : Nat := p.shareNext.getD p.share
/-- The share that the newest PART_QOS accepted for a partition and not yet issued will give it (R103). -/
def State.shareAhead (s : State) (q : Nat) : Nat :=
  (((s.train (s.leaderOf q)).works.filterMap (fun w => match w.cmd with
    | .partQos x => if w.part = q ∧ w.stage = .waiting ∧ w.status = 0 then some x else none
    | _ => none)).getLast?).getD (s.part q).shareSoon
/-- The sum of all shares, by a function of the partition, with `x` for partition `q` (R101). -/
def shareSum (of : Nat → Nat) (q x : Nat) : Nat := (List.range 16).foldl (fun n p => n + (if p = q then x else of p)) 0

/-- A sliced or Waits command counts towards the Bulk jobs of its group (Table 6.3, R188). -/
def Work.bulkJob (w : Work) : Bool := w.behaviour == .sliced || w.behaviour == .waits

/-- The configuration block of this card (Table 16.4). -/
def State.configBlock (s : State) (topology members : Nat) (microcode : List Byte) : List Byte :=
  let per (f : Nat → List Byte) : List Byte := (List.range 16).flatMap f
  fit 192 ([1, 0, 0xB0, byte topology, byte members, 0] ++ leBytes 2 1 ++ leBytes 2 1 ++ zeros 6 ++ s.firmwareDigest
    ++ fit 32 microcode ++ per (fun p => [byte (s.part p).size]) ++ per (fun p => leBytes 2 (s.train (s.leaderOf p)).n5)
    ++ per (fun p => [byte (s.train (s.leaderOf p)).step]) ++ per (fun p => [byte (s.part p).share]))
/-- The microcode digest of the active image (Table 20.3). -/
def State.microcode (s : State) : List Byte := slice (s.bank s.dev.activeBank).image 56 32
def State.ownDigest (s : State) (topology members : Nat) : List Byte :=
  sha256 (s.configBlock topology members s.microcode)

/-- CONSORT_MISMATCH with its detail from byte 18 (Table 16.6). -/
def mismatch (reason : Nat) (tail : List Byte) : Refuse := { status := 0x60, reason := reason, tail := tail }
def ejected (reason card cause : Nat) : Refuse :=
  { status := 0x61, reason := reason, tail := zeros 4 ++ [byte card, byte cause] }

/-! Regions (Table 5.1, Table 5.5). -/

def Region.ranges (r : Region) : List Range := [⟨r.headerBase, r.count * 64⟩, ⟨r.payloadBase, r.count * r.slotSize⟩]
def regionOf (kind s count options hb pb handle train : Nat) : Region :=
  { handle := handle, train := train, spill := kind == 1, slotLog2 := s, count := count, options := options
    headerBase := hb, payloadBase := pb }

/-- The regions of a function with those that accepted registrations add at their seals. -/
def State.regionsSoon (s : State) (fn : Nat) : List Region :=
  (s.fn fn).regions ++ s.allWorks.filterMap (fun w =>
    if w.fn == fn && w.status == 0 then match w.cmd with
      | .bellowsRegister k x c o hb pb => some (regionOf k x (c + 1) o hb pb 0 w.train)
      | _ => none
    else none)

/-- The limits of Table 5.1. A table or a payload that runs past 2^64 lies in no address space and is refused as a bad base
(DESIGN CHOICE, assumption 105). -/
def State.registerCheck (s : State) (fn : Nat) (r : Region) : Except Refuse Unit := do
  let bad (e : Nat) (off : Nat := 0xFF) : Refuse := bellowsBad e 0xFFFF 0xFFFF off
  let past (x : Range) : Bool := decide (2 ^ 64 < x.start + x.len)
  failIf (decide (r.slotLog2 < 12 ∨ 26 < r.slotLog2)) (bad 0x0510 11)
  failIf (decide (r.headerBase % 4096 ≠ 0) || past ⟨r.headerBase, r.count * 64⟩) (bad 0x0510 18)
  failIf (decide (r.payloadBase % min r.slotSize 0x200000 ≠ 0) || past ⟨r.payloadBase, r.count * r.slotSize⟩) (bad 0x0510 26)
  let all := s.regionsSoon fn
  failIf (all.any (fun x => x.ranges.any (fun a => r.ranges.any (·.meets a)))) (bad 0x0511 18)
  failIf (decide (64 ≤ all.length) || decide (2 ^ 40 < all.foldl (fun n x => n + x.count * x.slotSize) (r.count * r.slotSize)))
    { bad 0x0010 with status := 0x30, violation := false }

/-- Objects of a kind with those that accepted commands create at their seals (Table 6.3). -/
def State.soon (s : State) (t have_ op : Nat) : Nat :=
  have_ + ((s.train t).works.filter (fun w => w.cmd.opcode == op && w.status == 0)).length

/-- Steps of a transfer of `n` bytes on the Bulk lane (R179). -/
def unitsOf (n unit : Nat) : Nat := max 1 (ceilDiv n unit)

/-- A transfer between a slot and HBM, Urgent whole or Bulk in steps of 4 KiB (R179, R212). -/
def State.transfer (s : State) (w : Work) (n : Nat) (input : Bool) : Except Refuse Work :=
  let charge (k : Nat) : Nat := if input then s.inputCharge w.train k else s.outputCharge w.train k
  if w.bulk then
    .ok { w.inSteps n 4096 (fun k => ⟨charge k, 0⟩) with behaviour := .sliced, aux := [s.dev.linkGen, s.dev.linkWidth] }
  else s.withEstimate w ⟨charge n, 0⟩ 1

/-- A MEM_FILL range in a spill window (R495 to R497). -/
def State.fillRange (s : State) (w : Work) (a len : Nat) : Except Refuse Unit := do
  if isSpill a then
    failIf (decide (a % 64 ≠ 0)) (badParam 0x0604 10)
    failIf (!s.spillMemory w.train a) { badParam 0x0D10 10 with violation := false }
    failIf (!s.spillInside w.train a len) (badParam 0x0604 10)
  else failIf (decide (a % 64 ≠ 0) || !s.inGroup w.train a len) (badParam 0x0604 10)
  failIf (s.locked w.train ⟨a, len⟩ || s.extentClash w.train [] [⟨a, len⟩]) (badParam 0x0603 10)

/-- Step 14: the checks of a command's entry; the command as it waits for admission. The destination of BELLOWS_READ is judged
over the whole slot size, a BELLOWS_WRITE longer than its slot is answered 0x0506, and the generation of a SET_CONDITIONING is
compared with that of the newest one accepted and not yet executed, or else with the shadow set's (DESIGN CHOICE, assumptions
106, 107, 109). -/
def State.entryCheck (s : State) (w : Work) : Except Refuse Work :=
  let t := w.train
  let o := (s.train t).objects
  match w.cmd with
  | .nop => .ok w
  | .devQuery => .ok w
  | .timeSet .. => .ok w
  | .shutdown _ => .ok w
  | .breathSet .. => do failIf (s.idleProblem w) (badParam 0x0606); .ok w
  | .partGroup b bs .. => do
    let block := (List.range bs).map (· + b)
    failIf ((List.range 16).any (fun p => block.contains p != block.contains (s.leaderOf p)
      || (block.contains p && decide (b + bs < s.leaderOf p + (s.part (s.leaderOf p)).size)))) (badParam 0x0606 10)
    failIf (s.consort.member || s.consort.forming.isSome || (s.leaders.filter block.contains).any s.checkpointing) (badParam 0x0606)
    failIf ((s.train adminTrain).works.any (fun x => match x.cmd with
      | .partGroup b' bs' .. => x.live && block.any (fun p => decide (b' ≤ p ∧ p < b' + bs'))
      | _ => false)) (noResource 2)
    .ok w
  | .partQos x => do
    let busy := (s.train t).works.any (fun y => y.sliced) || (s.train t).admitted.any (fun p => p.carried && !p.done)
    failIf (decide (256 < shareSum s.shareAhead w.part x) || (decide (x < s.shareAhead w.part) && busy) || s.consort.member) (badParam 0x0606)
    .ok w
  | .partPower _ => do failIf (s.idleProblem w) (badParam 0x0606); .ok w
  | .bellowsRegister k x c op hb pb => do s.registerCheck w.fn (regionOf k x (c + 1) op hb pb 0 t); .ok w
  | .bellowsDeregister h m => do
    match s.regionFor w h with
    | none => .error (bellowsBad 0x0501 h 0xFFFF 10)
    | some r =>
      failIf (r.spill && r.claims != []) (bellowsBad 0x0515 h 0xFFFF 10)
      failIf (decide (m = 0) && s.regionInUse w.fn h) (bellowsBad 0x0514 h 0xFFFF 10)
      .ok w
  | .bellowsRead r dest => do
    s.needSlots w (fun _ => 0)
    let n := s.slotSizeOf w.fn r
    s.needRange t dest n 64 18
    failIf (s.locked t ⟨dest, n⟩ || s.extentClash t [] [⟨dest, n⟩]) (badParam 0x0603 18)
    s.transfer { w with writes := [⟨dest, n⟩] } n true
  | .bellowsWrite r src len => do
    s.needSlots w (fun _ => 0)
    failIf (decide (s.slotSizeOf w.fn r < len)) (slotRefusal 0x0506 (refOffset w.cmd 0) r.region r.slot)
    s.needRange t src len 64 18
    failIf (s.extentClash t [⟨src, len⟩] []) (badParam 0x0603 18)
    s.transfer { w with reads := [⟨src, len⟩] } len false
  | .memFill a len _ => do
    s.fillRange w a len
    .ok { w.inSteps len (s.fillStep t) (s.fillEstimate t) with writes := [⟨a, len⟩], aux := [s.fillStep t] }
  | .retirePage a => do
    failIf (isSpill a || decide (a % pageBytes ≠ 0) || !s.inGroup t a pageBytes) (badParam 0x0604 10)
    let (p, l) := mapHbm t (s.groupSize t) (s.localAddr a)
    failIf (!s.dev.retired.contains (p, l / pageBytes) && decide (4096 ≤ s.dev.retired.length)) (noResource 0x0016)
    .ok w
  | .modelLoad _ a len _ => do
    s.needRange t a len 65536 42
    failIf (s.locked t ⟨a, len⟩ || s.extentClash t [⟨a, len⟩] []) (badParam 0x0603 42)
    failIf (decide (64 ≤ s.soon t o.models.length 0x30)) (noResource 0x0011)
    .ok { w with reads := [⟨a, len⟩], locks := [⟨a, len⟩], steps := ceilDiv len 65536
                 cycles := (Frac.mk 8190 1).cycles (s.train t).step }
  | .stopPin m first cores => do
    s.needHandle t w.fn [0] m 10
    match s.model? t w.fn m with
    | none => .error (badParam 0x0601 10)
    | some x =>
      failIf (s.rangeRetired t x.addr x.length) (badParam 0x0607 10)
      let h := s.hbmRead t x.addr 4096
      failWith ((stopImageFault h x.length x.format).map (fun o => { badParam 0x0605 10 with tail := leBytes 4 o }))
      failIf (decide (cores ≠ field h 2 2)) (badParam 0x0605 16)
      failIf (decide (s.groupCores t < first + cores)) (badParam 0x0605 14)
      let r : Range := ⟨first, cores⟩
      let pins := (s.train t).works.filterMap (fun y => match y.cmd with
        | .stopPin _ f c => if y.status = 0 then some (⟨f, c⟩ : Range) else none
        | _ => none)
      failIf (o.residencies.any (fun y => (Range.mk y.firstCore y.cores).meets r) || pins.any (·.meets r)) (noResource 0x0012)
      failIf (decide (64 ≤ s.soon t o.residencies.length 0x31)) (noResource 0x0011)
      let w := w.inSteps (cores * slabBytes) (4 * slabBytes) (s.pinEstimate t x.addr first cores)
      failWith (s.stepFits t (w.stepCost 0))
      .ok { w with uses := [m], reads := [⟨x.addr, x.length⟩] }
  | .stopRelease h => do
    s.needHandle t w.fn [1] h 10
    failIf (s.inUse t h) (badParam 0x0603 10)
    .ok w
  | .modelRelease h => do
    s.needHandle t w.fn [0] h 10
    failIf (s.inUse t h || o.residencies.any (·.model == h)) (badParam 0x0603 10)
    .ok w
  | .progRegister a n => do
    failIf (isSpill a || decide (a % 128 ≠ 0) || !s.inGroup t a (128 * n)) (badParam 0x0604 10)
    failIf (s.rangeRetired t a (128 * n)) { badParam 0x0607 10 with offset := 10 }
    let ds := s.readDescs t a n
    failWith ((registrationFailure ds).map descriptorRefusal)
    failIf (s.locked t ⟨a, 128 * n⟩ || s.extentClash t [⟨a, 128 * n⟩] []) (badParam 0x0603 10)
    failIf (decide (1024 ≤ s.soon t o.programs.length 0x40)) (noResource 0x0011)
    .ok { w with reads := [⟨a, 128 * n⟩], locks := [⟨a, 128 * n⟩], descriptors := ds.map (·.raw) }
  | .progRelease h => do
    s.needHandle t w.fn [2] h 10
    failIf (s.inUse t h) (badParam 0x0603 10)
    .ok w
  | .shapeSet .. => .ok w
  | .progRun ref seed _ => do
    let prog ← s.needProgram w ref
    s.needDescriptors w prog none
    let w ← s.bindProgram w prog seed
    s.needSlots w (slotOutput w.bound)
    s.withEstimate w (s.programEstimate w 1 none) 1
  | .histPool a n size => do
    failIf (isSpill a || decide (a % 65536 ≠ 0) || !s.inGroup t a 64) (badParam 0x0604 10)
    failIf (s.rangeRetired t a 64) (badParam 0x0607 10)
    let d := s.hbmRead t a 64
    failWith ((poolDescriptorFault d n).map (fun o => { badParam 0x0605 10 with tail := leBytes 4 o }))
    let p := poolOf w.fn a n size 0 d
    s.needRange t a p.length 65536 10
    failIf (s.locked t ⟨a, p.length⟩ || s.extentClash t [] [⟨a, p.length⟩]) (badParam 0x0603 10)
    failIf (decide (16 ≤ s.soon t o.pools.length 0x50)) (noResource 0x0011)
    .ok { w.inSteps p.controlLen (s.fillStep t) (s.fillEstimate t) with
      locks := [⟨a, p.length⟩], writes := [⟨a, p.length⟩], auxBytes := d, aux := [s.fillStep t] }
  | .histOpen h policy region _ => do
    s.needHandle t w.fn [3] h 10
    match s.pool? t w.fn h with
    | none => .error (badParam 0x0601 10)
    | some p =>
      failIf p.broken { status := 0x51, reason := 0x0C11 }
      if policy = 2 then
        match s.regionFor w region with
        | none => .error (bellowsBad 0x0501 region 0xFFFF 16)
        | some r =>
          failIf (!r.spill) (bellowsBad 0x0507 region 0xFFFF 16)
          failIf (decide (r.slotSize < p.pageLen)) (badParam 0x0605 16)
          failIf (r.memoryUse == some true) (badParam 0x0603 16)
      else failIf (decide (region ≠ 0xFFFF)) (badParam 0x0605 16)
      let opening := ((s.train t).works.filter (fun y => y.cmd.opcode == 0x51 && y.uses.contains h && y.status == 0)).length
      failIf (decide (((List.range p.capacity).filter (fun j => (s.seqRead t p j).state == 0)).length ≤ opening)) (noResource 0x0011)
      .ok { w with uses := [h] }
  | .histPrefill ref q tok => do
    let prog ← s.needProgram w ref
    s.needDescriptors w prog (s.historyOf w q)
    let (p, _, x) ← s.needSequence w q 18
    failIf (s.inUse t q) (badParam 0x0603 18)
    failIf (decide (x.last ≠ 0)) (badParam 0x0606 18)
    let w ← s.bindProgram { w with uses := [q] } prog 0
    s.needSlots w (fun _ => 0)
    let n := s.slotSizeOf w.fn tok
    s.withEstimate w (s.programEstimate w 1 (some (s.historyCost t p x p.pt (w.mostTokens n) 0))) (unitsOf n 1)
  | .histClose h => do
    s.needHandle t w.fn [3, 4] h 10
    failIf (s.lostSequence t w.fn h).isSome { status := 0x51, reason := 0x0C11 }
    failIf (s.inUse t h) (badParam 0x0603 10)
    match s.pool? t w.fn h with
    | some p =>
      failIf (!p.broken && (List.range p.capacity).any (fun j => decide ((s.seqRead t p j).state ≠ 0)
        && !s.closing t w.fn (s.seqRead t p j).handle)) (badParam 0x0603 10)
      .ok w
    | none => do
      failIf (s.otherRing t w.fn h w.bulk) (badParam 0x0603 10)
      .ok w
  | .score ref q seed steps _ _ => do
    let prog ← s.needProgram w ref
    s.needDescriptors w prog (s.historyOf w q)
    let (p, _, x) ← s.needSequence w q 18
    let w ← s.bindProgram { w with uses := [q] } prog seed
    s.needSlots w (slotOutput w.bound)
    s.withEstimate w (s.programEstimate w steps (some (s.historyCost t p x 1 1 (s.pendingAppends t q)))) 1
  | .jobSubmit ref seed steps _ _ => do
    let prog ← s.needProgram w ref
    s.needDescriptors w prog none
    let w ← s.bindProgram w prog seed
    s.needSlots w (slotOutput w.bound)
    s.withEstimate w (s.programEstimate w 1 none) steps
  | .jobCancel tag => do
    failIf (!(s.train t).works.any (fun y => y.cmd.opcode == 0x61 && y.tag == tag && y.fn == w.fn && y.bulk))
      { badParam 0x0601 10 with violation := false }
    .ok w
  | .vidOpen codec wd ht n desc => do
    s.needRange t desc (64 + 8 * n) 64 18
    let d := s.hbmRead t desc (64 + 8 * n)
    let x := sessionOf codec wd ht n desc d
    let bad (o : Nat) : Refuse := { badParam 0x0605 18 with tail := leBytes 4 o }
    failWith ((sessionFault x d).map bad)
    failIf (x.areas.any (fun a => isSpill a.2.start || !s.inGroup t a.2.start a.2.len)) (badParam 0x0604 18)
    failIf (x.areas.any (fun a => s.rangeRetired t a.2.start a.2.len)) (badParam 0x0607 18)
    let whole : Range := ⟨desc, 64 + 8 * n⟩
    failWith (((x.areas.zip (List.range x.areas.length)).find? (fun (a, i) => s.locked t a.2
      || s.extentClash t [] [a.2] || whole.meets a.2 || (x.areas.take i).any (fun b => b.2.meets a.2))).map (fun y => bad y.1.1))
    failIf (s.locked t whole) (bad 0)
    failIf (s.extentClash t [whole] []) (badParam 0x0603 18)
    failIf (decide (16 ≤ s.soon t o.sessions.length 0x70)) (noResource 0x0014)
    match s.engineFor x.rate with
    | none => .error (noResource 0x0014)
    | some e => .ok { w with aux := [e], auxBytes := d, reads := [whole], locks := x.areas.map (·.2) }
  | .vidDecode h _ _ => do
    s.needHandle t w.fn [5] h 10
    match o.sessions.find? (fun x => x.handle == h && x.fn == w.fn) with
    | none => .error (badParam 0x0601 10)
    | some x =>
      failIf (x.ranges.any (fun r => s.rangeRetired t r.start r.len)) (badParam 0x0607 10)
      s.needSlots w (fun i => if i = 1 then x.perCommand * 1152 else 0)
      s.withEstimate { w with uses := [h] } (s.decodeEstimate w x) 1
  | .setConditioning h g _ _ x y cw ch gamma => do
    s.needHandle t w.fn [5] h 10
    match o.sessions.find? (fun z => z.handle == h && z.fn == w.fn) with
    | none => .error (badParam 0x0601 10)
    | some z =>
      let pend := (s.train t).works.filterMap (fun y => match y.cmd with
        | .setConditioning h' g' .. => if h' = h ∧ y.live then some g' else none
        | _ => none)
      failIf (decide (g = pend.getLast?.getD z.shadow.generation)) (badParam 0x060A 14)
      let whole := cw = 0 ∧ ch = 0
      failIf (decide (¬ whole ∧ z.width < x + cw)) (badParam 0x0605 24)
      failIf (decide (¬ whole ∧ z.height < y + ch)) (badParam 0x0605 26)
      if gamma ≠ 2 ^ 64 - 1 then
        failIf (isSpill gamma || !s.inGroup t gamma 2050) (badParam 0x0604 28)
        failIf (s.rangeRetired t gamma 2050) (badParam 0x0607 28)
        failIf (s.extentClash t [⟨gamma, 2050⟩] []) (badParam 0x0603 28)
      .ok { w with uses := [h], reads := if gamma = 2 ^ 64 - 1 then [] else [⟨gamma, 2050⟩] }
  | .vidClose h => do
    s.needHandle t w.fn [5] h 10
    failIf ((s.train t).works.any (fun y => y.cmd.opcode == 0x71 && y.uses.contains h)) (badParam 0x0603 10)
    .ok w
  | .snapshotShadow _ h first _ => do
    failIf (s.checkpointing t) (badParam 0x0606)
    failIf (s.spillHeld t) (badParam 0x1107)
    s.needImage w h first 1 16
    .ok w
  | .snapshotStop _ h first => do
    failIf (s.leaders.any s.checkpointing) (badParam 0x0606)
    failIf (s.leaders.any s.spillHeld) (badParam 0x1107)
    s.needImage w h first 1 16
    .ok w
  | .restore h first => do
    failIf (decide ((s.train t).works ≠ []) || decide (o.models ≠ [] ∨ o.residencies ≠ [] ∨ o.programs ≠ [] ∨ o.pools ≠ []
      ∨ o.sessions ≠ [])) (badParam 0x0606)
    s.needImage w h first 0 10
    .ok w
  | .consortForm card members topology ports digest _ => do
    failIf ((List.range 6).any (fun i => bit ports i && bit s.dev.selfTestDev (7 + i))) (badParam 0x0605 13)
    failIf (s.consort.member || s.consort.forming.isSome || (s.trains.take 16).any (fun x => decide (x.works ≠ []))) (badParam 0x0606)
    failIf (decide (members ≤ card)) (mismatch 0x1004 (zeros 4 ++ [byte card]))
    failIf (decide (s.ownDigest topology members ≠ digest)) (mismatch 0x1001 [])
    .ok w
  | .consortLeave _ => do failIf (!s.consort.member) (badParam 0x0606); .ok w
  | .auditPolicy _ => .ok w
  | .cartRetire b => do
    failIf (! [BayState.standby, .active, .full].contains (s.bay b).state) (badParam 0x0606)
    .ok w
  | .ledgerFlush => do
    failIf (!s.bays.any (fun b => b.state == .active || b.state == .standby)) (noResource 0x0019)
    .ok w
  | .ledgerNote _ => .ok w
  | .bayEject b => do failIf ((s.bay b).state == .empty) (badParam 0x0606); .ok w
  | .fwUpdate _ target _ => do
    failIf (decide (target = s.dev.activeBank)) (badParam 0x0605 18)
    failIf s.consort.member (badParam 0x0606)
    s.needSlots w (fun _ => 0)
    .ok w
  | .ownerKeyInstall _ => do s.needSlots w (fun _ => 0); .ok w
  | .sealClear => .ok w
  | .presenceSet _ => .ok w
  | .attest .. => do
    s.needSlots w (fun _ => 416 + Config.certificate.length)
    .ok w
  | .diagRun set => do
    failIf (decide ((s.train t).works ≠ [])) (badParam 0x0606)
    let allowance := s.groupShare t * 150000000000 / (256 * clockOf (s.train t).step)
    .ok { w with cycles := 16000, energy := 16000 * allowance, steps := (if set = 0 then 1 else 6) * 16 * s.groupSize t }
  | .droneCfg .. => do s.needSlots w (fun _ => 0); .ok w

/-- Step 14 with the limit on Bulk jobs of a group (Table 6.3). -/
def State.entryChecked (s : State) (w : Work) : Except Refuse Work := do
  let w ← s.entryCheck w
  failIf (w.bulkJob && decide (w.train < 16) && decide (16 ≤ ((s.train w.train).works.filter (·.bulkJob)).length)) (noResource 0x0015)
  .ok w

end Sys2Proof.Machine
end

