-- ==== Sys2Proof/Machine/Protocol.lean ====
section
/-! DEFINITION. The command protocol: rings, doorbells, the checking order of Table 4.7, refusals, and the commands that
the host submits or writes to the rings and queues (chapter 4). -/

namespace Sys2Proof.Machine

/-! Rings. -/

def State.ring (s : State) (fn : Nat) (bulk : Bool) : Ring := if bulk then (s.fn fn).bulk else (s.fn fn).urgent
def State.modRing (s : State) (fn : Nat) (bulk : Bool) (g : Ring → Ring) : State :=
  s.modFn fn (fun f => if bulk then { f with bulk := g f.bulk } else { f with urgent := g f.urgent })
def Ring.depth (r : Ring) : Nat := 2 ^ r.depthLog2

/-- The function whose rings a block holds; writes come through that function alone (R110). -/
def ringOwner (fn blk : Nat) : Option Nat :=
  if (fn = 0 ∧ blk = 16) ∨ (0 < fn ∧ blk + 1 = fn) then some fn else none
/-- The function whose registers a block holds, reachable by its owner and by the PF (R24, R747). -/
def blockOwner (fn blk : Nat) : Option Nat :=
  if blk = 16 then (if fn = 0 then some 0 else none) else if fn = 0 ∨ blk + 1 = fn then some (blk + 1) else none

/-- Every register block responds (R696, R754). -/
def State.registersAnswer (s : State) : Bool := s.dev.state != .booting
/-- The packets of a function's rings are checked now (R125, R137, R709, R710). -/
def State.checksRings (s : State) (fn : Nat) : Bool :=
  [DevState.ready, .shuttingDown, .halted].contains s.dev.state && !(s.fn fn).stopped
    && (decide (fn = 0) || (s.train (s.fnTrain fn)).halt != .reset)

/-! Refusals at steps 1 to 11. -/

/-- The train that releases the refusal of a packet (R132). -/
def State.addressee (s : State) (p : Packet) : Nat :=
  if p.fn ≠ 0 then s.leaderOf (p.fn - 1) else if p.crcGood && decide (p.part ≤ 15) then s.leaderOf p.part else adminTrain

/-- Step 5: why the addressee is not ready (R694, R580); `admin` on the administrative rings (R134). -/
def State.unready (s : State) (admin : Bool) (t : Nat) (early : Bool) : Option Refuse :=
  let no (reason : Nat) : Option Refuse := some { status := 0x7E, reason := reason }
  if early then no 1
  else if s.dev.state == .shuttingDown || s.dev.state == .halted then no 3
  else if admin && (s.train adminTrain).closed then no 2
  else if t = adminTrain then none
  else if (s.members t).any (fun p => (s.part p).fault != 0) then no 2
  else if s.consort.forming.isSome then no 4
  else if (s.train t).works.any (fun w => w.cmd.opcode == 0x82 && w.live) then no 5
  else if (s.train t).halt == .snapshot then no 6
  else match s.consort.member, s.consort.gone with
    | true, (card, cause) :: _ => some (ejected 0x1021 card cause)
    | _, _ => none

/-- NO_RESOURCE, reason 1, naming the leader (R90, R181); of another card's group, that card too (R568). -/
def State.wrongLeader (s : State) (p : Nat) : Refuse :=
  { status := 0x30, reason := 1
    tail := if s.consort.member && s.consort.card != 0 then [byte (s.leaderOf p), 0] else [byte (s.leaderOf p)] }

/-- Step 11 (R679, R680): the conditions on key, loop, latch and window. -/
def State.presenceProblem (s : State) (clearing : Bool) : Option Refuse :=
  let x := s.presence
  let key := match x.key with | .off => 0 | .on => 1 | .present => 2
  let broken (reason : Nat) : Option Refuse := some {
    status := 0x21, reason := reason
    tail := leBytes 8 (if x.latch && !x.unpowered then x.latchTime else 0)
      ++ [byte key, byte (flag x.loop + 2 * flag x.latch + 4 * flag x.unpowered)] }
  if x.key == .off then some { status := 0x20, reason := 0x1502 }
  else if !x.loop then broken 0x1511
  else if x.latch && !clearing then broken 0x1512
  else if x.window.isNone then some { status := 0x20, reason := 0x1501 }
  else none

/-- The record of a presence refusal, once a second and kind; others are counted (R682). -/
def State.presenceRecord (s : State) (kind : Nat) (record : List Byte) : State :=
  let (first, s) := s.once 0xB5 kind
  if first then s.stageOne record 0xFF s.adminBreath
  else
    let n := satAdd 32 s.presence.refusals 1
    { s with presence := { s.presence with refusals := n } }.saturated 0xFF 0x400018 s.presence.refusals n

/-- Steps 1 to 11 for a packet: the step and refusal, or its opcode's row and command. -/
def State.screen (s : State) (p : Packet) (early : Bool) : Except (Nat × Refuse) (OpInfo × Command) :=
  let f := s.fn p.fn
  let r := s.ring p.fn p.bulk
  let t := s.addressee p
  let d := (p.seq + 65536 - r.expect) % 65536
  let admin := decide (p.fn = 0)
  if f.frozen then .error (1, { status := 0x14, tail := leBytes 6 f.freezeBreath })
  else if !admin && (decide (s.leaderOf (p.fn - 1) ≠ p.fn - 1) || (s.consort.member && s.consort.card != 0)) then
    .error (2, s.wrongLeader (p.fn - 1))
  else if !p.crcGood then
    .error (3, { status := 0x15, offset := 62, tail := leBytes 2 (crc16 (p.raw.take 62)), violation := true })
  else if d ≠ 0 then
    .error (4, { status := 0x13, reason := if d ≤ 32767 then 1 else 2, offset := 2, tail := leBytes 2 r.expect, violation := true })
  else match s.unready admin t early with
    | some x => .error (5, x)
    | none =>
      let info := opInfo p.opcode
      let partOk := if !admin then decide (p.part = p.fn - 1) else (decide (p.part ≤ 15) || decide (p.part = 0xFF))
        && (match info with
          | none => true
          | some i => if i.sender = .pfDevice then decide (p.part = 0xFF) else decide (p.part ≤ 15) || decide (p.opcode ≤ 1))
      if !partOk then .error (6, badParam 0x0605 8)
      else if admin && decide (p.part ≤ 15) && s.consort.member && s.consort.card != 0 then .error (6, s.wrongLeader p.part)
      else if admin && decide (p.part ≤ 15) && decide (s.leaderOf p.part ≠ p.part) && p.opcode != 0x10 && p.opcode != 0x13
          && (info.map (·.sender)) == some Sender.any then .error (6, s.wrongLeader p.part)
      else match info, Command.ofParams p.opcode p.params with
        | some i, some c =>
          if i.lane = 1 ∧ p.bulk ∨ i.lane = 2 ∧ !p.bulk then .error (7, { status := 0x10, reason := 2, offset := 0, violation := true })
          else if !admin && i.sender != .any then .error (8, { status := 0x20, reason := 1, offset := 0, violation := true })
          else if 52 < p.plen then .error (9, { status := 0x11, reason := 1, offset := 9, tail := [byte i.len], violation := true })
          else if p.plen ≠ i.len then .error (9, { status := 0x11, reason := 2, offset := 9, tail := [byte i.len], violation := true })
          else match p.badByte i c with
            | some o => .error (10, if p.opcode = 0x20 ∧ o = 14 then bellowsBad 0x0510 0xFFFF 0xFFFF 14 else badParam 0x0605 o)
            | none =>
              match if i.program && bit p.flags 3 then s.indirectProblem t (field p.params 0 8) else none with
              | some x => .error (10, x)
              | none =>
                match if i.privileged then s.presenceProblem (p.opcode == 0xB2) else none with
                | some x => .error (11, x)
                | none => .ok (i, c)
        | _, _ => .error (7, { status := 0x10, reason := 1, offset := 0, violation := true })

/-! Refusals posted. -/

/-- A due reply of train `t`: released by the seal of the Breath in progress, or at once when that seal has passed
(R132). -/
def State.postDue (s : State) (t : Nat) (d : DueReply) : State :=
  let x := s.train t
  if x.phase == .decided && !x.sealStatus.failed then s.release t x.breath [d] else s.addDue t d

/-- A packet refused: counted where it is a host violation (R145), replied by its addressee's train. -/
def State.refusePacket (s : State) (p : Packet) (t order step : Nat) (r : Refuse) (record : Option Nat) (reserved : Nat) : State :=
  let s := if r.violation then
      s.violation p.fn p.bulk {
        ring := ringCode p.fn p.bulk
        cause := if step < 14 then 1 else if r.reason / 256 = 5 then 4 else 5,
        seq := p.seq, status := r.status, offset := r.offset, reason := r.reason, tag := p.tag }
    else s
  s.postDue t { order := order, fn := p.fn, bulk := p.bulk, admin := p.fn = 0, seq := p.seq, tag := p.tag, status := r.status
                unverified := step = 3, detail := r.detail, part := if t = adminTrain then 0xFF else t, opcode := p.opcode
                pflags := p.flags, params := p.params, record := record, reserved := reserved }

/-! Acceptance. -/

/-- A command as checked, before its entry's checks. -/
def Packet.work (p : Packet) (c : Command) (i : OpInfo) (t order : Nat) : Work :=
  { id := order, fn := p.fn, bulk := p.bulk, cmd := c, flags := p.flags, seq := p.seq, tag := p.tag, part := p.part
    params := p.params, train := t, behaviour := i.behaviour, refs := p.refs }

/-- Audited work (R127, R189). -/
def audited (i : OpInfo) (p : Packet) : Bool :=
  match recordType p.opcode with
  | none => false
  | some (_, always) => always || i.privileged || bit p.flags 1

/-- What acceptance itself does: a SHUTDOWN changes the device state (R713), formation begins (R564), a region is
withdrawn at checking under mode 0 (R170), shape registers change for later checks (R317). -/
def State.accepted (s : State) (w : Work) : State :=
  match w.cmd with
  | .shutdown _ => s.modDev (fun d => { d with state := .shuttingDown, shutdownWork := some w.id })
  | .shapeSet first count values =>
    s.modTrain w.train (fun t => { t with objects := { t.objects with
      shapes := t.objects.shapes.mapIdx (fun i v => if first ≤ i ∧ i < first + count then values.getD (i - first) 0 else v) } })
  | .bellowsDeregister h 0 => s.modFn w.fn (fun f => { f with regions := f.regions.filter (·.handle != h) })
  | .consortForm card members topology ports _ _ =>
    { s with
      consort := { forming := some w.id, card := card, members := members, topology := topology, ports := ports }
      links := s.links.mapIdx (fun i l =>
        if bit ports i then { l with named := true, state := 1, expect := 0, sendSeq := 0, tries := 0, failedAt := [] } else l) }
  | _ => s

/-- Records that step 12 reserves for an audited command (R655). -/
def State.recordsFor (s : State) (p : Packet) (t : Nat) : Nat :=
  let blocks := if programEntry p.opcode then
      ((s.programOf t p.fn p.flags (field p.params 0 8)).map (fun x => (wordBlocks x.2.1).length)).getD 0
    else 0
  entrySize p.opcode (namedSlots p.refs).length blocks

/-- Steps 12 to 14 of a packet and its acceptance. -/
def State.acceptPacket (s : State) (p : Packet) (i : OpInfo) (c : Command) (t order : Nat) : State :=
  let aud := audited i p
  let record := if aud then (recordType p.opcode).map (·.1) else none
  let (res, s) := if aud && !holdExempt p.opcode then s.reserve (s.recordsFor p t) (s.policyOf t) else (.ok 0, s)
  match res with
  | .error reason =>
    s.refusePacket p t order 12 { status := 0x40, reason := reason, tail := (s.auditHoldDetail reason).drop 4 } none 0
  | .ok n =>
    let shrink (s : State) : State := s.unreserve (n - min n 1)
    if decide (t < 16) && (s.train t).draining then
      (shrink s).refusePacket p t order 13 (noResource 2) record (min n 1)
    else
      let w := { p.work c i t order with audited := aud, records := n, arrived := s.clock.timebase }
      match s.entryChecked w with
      | .error r => (shrink s).refusePacket p t order 14 r record (min n 1)
      | .ok w =>
        let w := if p.opcode = 0 then { w with aux := [(s.ring p.fn p.bulk).expect] } else w
        (s.modTrain t (fun x => { x with works := x.works ++ [w] })).accepted w

/-- One packet checked in the order of Table 4.7 (R136). -/
def State.checkPacket (s : State) (p : Packet) (early : Bool) : State :=
  let order := s.dev.nextOrder
  let t := s.addressee p
  let s := s.modDev (fun d => { d with nextOrder := order + 1 })
  let consume (s : State) : State := s.modRing p.fn p.bulk (fun r => { r with expect := (r.expect + 1) % 65536 })
  match s.screen p early with
  | .error (step, r) =>
    let s := if 5 ≤ step then consume s else s
    let s := if step = 11 then
        s.presenceRecord 1 (recordHeader 0xB5 0 1 0 s.clock.time s.adminBreath 0xFF 0
          p.tag p.seq p.opcode s.cardId ++ fit 92 [1, byte r.status])
      else s
    s.refusePacket p t order step r none 0
  | .ok (i, c) => (consume s).acceptPacket p i c t order

/-- The packet at the head of a ring read and checked; the head passes its slot (R119, R120). -/
def State.takePacket (s : State) (fn : Nat) (bulk : Bool) : State :=
  let r := s.ring fn bulk
  let p := Packet.ofBytes fn bulk (r.window.read (64 * r.head) 64)
  let s := s.modRing fn bulk (fun r => { r with head := (r.head + 1) % r.depth, early := r.early - 1 })
  s.checkPacket p (decide (0 < r.early))

/-- Packets of a ring taken while they may be checked; `n` bounds the walk. -/
def State.drainRing : Nat → State → Nat → Bool → State
  | 0, s, _, _ => s
  | n + 1, s, fn, bulk =>
    let r := s.ring fn bulk
    if s.checksRings fn && decide (r.head ≠ r.tail) then State.drainRing n (s.takePacket fn bulk) fn bulk else s

/-- Every packet that may be checked now is checked: functions in order, the Urgent ring first (DESIGN CHOICE, assumption
32: the manual gives no order between rings). -/
def State.checkRings (s : State) : State :=
  (List.range 17).foldl (fun s fn => State.drainRing 4096 (State.drainRing 4096 s fn false) fn true) s

/-! Ring and queue registers. -/

/-- A write into a ring window (R109, R110). -/
def execRingSlotWrite (fn blk : Nat) (bulk : Bool) (off : Nat) (data : List Byte) (s : State) :
    Host.Outcome State Fault Refusal :=
  match ringOwner fn blk with
  | none => .next s
  | some f =>
    if !s.registersAnswer then .next s
    else .next (s.modRing f bulk (fun r => { r with window := r.window.write off (data.take (64 * r.depth - off)) }))

/-- The doorbell of a ring (R116). -/
def State.doorbell (s : State) (fn : Nat) (bulk : Bool) (value size : Nat) : State :=
  let r := s.ring fn bulk
  let c := (r.tail + r.depth - r.head) % r.depth
  let k := (value + r.depth - r.tail) % r.depth
  if size ≠ 4 ∨ r.depth ≤ value ∨ r.depth - 1 < c + k ∨ !r.enable then
    s.violation fn bulk { ring := ringCode fn bulk, cause := 2 }
  else
    (s.modRing fn bulk (fun r => { r with
      tail := value, early := if s.beforeReady then r.early + k else r.early })).checkRings

/-- A doorbell write, after the host's stores (R116, R163). -/
def execDoorbell (fn blk : Nat) (bulk : Bool) (value size : Nat) (stores : List Host.Cell) (s : State) :
    Host.Outcome State Fault Refusal :=
  let s := s.hostStores fn stores
  match ringOwner fn blk with
  | none => .next s
  | some f => .next (if s.registersAnswer then s.doorbell f bulk value size else s)

/-- The host advances a reply queue head (R121, R125). -/
def execReplyHeadWrite (fn blk value : Nat) (s : State) : Host.Outcome State Fault Refusal :=
  match blockOwner fn blk with
  | none => .next s
  | some f =>
    let q := (s.fn f).reply
    if !s.registersAnswer || decide (4096 ≤ value) then .next s
    else if q.depth ≤ value ∨ (q.tail + q.depth - q.head) % q.depth < (value + q.depth - q.head) % q.depth then
      .next (s.violation fn false { cause := 3 })
    else .next (((s.modFn f (fun x => { x with reply := { x.reply with head := value } })).postReplies f []).checkRings)

/-- The host advances an event queue head (R719, R722). -/
def execEvqHeadWrite (fn blk value : Nat) (s : State) : Host.Outcome State Fault Refusal :=
  match blockOwner fn blk with
  | none => .next s
  | some f =>
    let q := (s.fn f).events
    if !s.registersAnswer || decide (4096 ≤ value) then .next s
    else if q.depth ≤ value ∨ (q.tail + q.depth - q.head) % q.depth < (value + q.depth - q.head) % q.depth then
      .next (s.violation fn false { cause := 3 })
    else
      let s := s.modFn f (fun x => { x with events := { x.events with head := value } })
      .next (if 0 < q.lostFull then (s.flushLost f).announce f q.tail else s)

/-- A command of the ring is in progress, or its reply is still to be posted (R112). -/
def State.ringBusy (s : State) (fn : Nat) (bulk : Bool) : Bool :=
  s.allWorks.any (fun w => w.fn == fn && w.bulk == bulk) || s.trains.any (fun t => t.due.any (fun d => d.fn == fn && d.bulk == bulk))
    || (s.fn fn).reply.held.any (fun r => bit r.flags 0 == bulk)

/-- A write to a ring configuration register (R111, R112, R779). -/
def execRingCfgWrite (fn blk : Nat) (bulk : Bool) (value : Nat) (s : State) : Host.Outcome State Fault Refusal :=
  match blockOwner fn blk with
  | none => .next s
  | some f =>
    let r := s.ring f bulk
    let depth := bits value 0 4
    let on := bit value 8
    if !s.registersAnswer || decide (bits value 4 4 ≠ 0 ∨ 512 ≤ value ∨ depth < 6 ∨ 12 < depth) then .next s
    else if r.enable && !on && (decide (r.head ≠ r.tail) || s.ringBusy f bulk) then .next s
    else if r.enable then .next (s.modRing f bulk (fun r => { r with enable := on }))
    else .next (s.modRing f bulk (fun r =>
      if on then { r with depthLog2 := depth, enable := true, head := 0, tail := 0, expect := 0, early := 0 }
      else { r with depthLog2 := depth }))

/-- A write to a reply queue configuration register (R111, R780). -/
def execReplyCfgWrite (fn blk value : Nat) (s : State) : Host.Outcome State Fault Refusal :=
  match blockOwner fn blk with
  | none => .next s
  | some f =>
    let q := (s.fn f).reply
    let depth := bits value 0 4
    let on := bit value 8
    if !s.registersAnswer || decide (bits value 4 4 ≠ 0 ∨ bits value 9 7 ≠ 0 ∨ 131072 ≤ value ∨ depth < 6 ∨ 12 < depth) then .next s
    else if q.enable then .next (s.modFn f (fun x => { x with reply := { x.reply with enable := on } }))
    else if on then
      .next (((s.modFn f (fun x => { x with reply := { x.reply with depthLog2 := depth, enable := true, tail := 0, phase := true } })).postReplies
        f []).checkRings)
    else .next (s.modFn f (fun x => { x with reply := { x.reply with depthLog2 := depth } }))

/-- Events held while the queue was disabled, written with their numbers (R720). -/
def State.writeHeld (s : State) (fn shift : Nat) : List (Nat × Event) → State
  | [] => s
  | (n, e) :: rest =>
    let q := (s.fn fn).events
    let s := if q.full then s.modFn fn (fun f => { f with events := q.drop false (n + shift) }) else s.writeEvent fn (n + shift) e
    s.writeHeld fn shift rest

/-- An event queue enabled (R719, R720, R724). -/
def State.enableEvents (s : State) (fn : Nat) : State :=
  let q := (s.fn fn).events
  let lost := q.lostFull ≠ 0 ∨ q.lostRate ≠ 0
  let shift := if lost then 1 else 0
  let s := s.modFn fn (fun f => { f with events := { q with
    enable := true, tail := 0, phase := true, seq := q.raisedDisabled, hold := [], raisedDisabled := 0
    lostFirst := q.lostFirst + shift, lostLast := q.lostLast + shift } })
  let s := if lost then
      let s := s.modFn fn (fun f => { f with events := { f.events with seq := 0 } })
      let s := s.flushLost fn
      s.modFn fn (fun f => { f with events := { f.events with seq := q.raisedDisabled + 1 } })
    else s
  (s.writeHeld fn shift q.hold).announce fn 0

/-- A write to an event queue configuration register (R719, R783). -/
def execEvqCfgWrite (fn blk value : Nat) (s : State) : Host.Outcome State Fault Refusal :=
  match blockOwner fn blk with
  | none => .next s
  | some f =>
    let q := (s.fn f).events
    let depth := bits value 0 4
    let on := bit value 8
    let mod := bits value 32 10
    let bad := decide (bits value 4 4 ≠ 0 ∨ bits value 9 7 ≠ 0 ∨ bits value 17 15 ≠ 0 ∨ bits value 42 6 ≠ 0 ∨ depth < 6 ∨ 12 < depth ∨ 1000 < mod)
      || (decide (blk ≠ 16) && decide (bits value 48 16 ≠ 0)) || decide (2 ^ 64 ≤ value)
    if !s.registersAnswer || bad then .next s
    else
      let s := if blk = 16 then s.modDev (fun d => { d with mirror := bits value 48 16 }) else s
      let s := s.modFn f (fun x => { x with events := { x.events with
        moderation := mod, enable := x.events.enable && on, depthLog2 := if q.enable then x.events.depthLog2 else depth } })
      .next (if !q.enable && on then s.enableEvents f else s)

/-- ADMIN_RING_CTRL.UNFREEZE (R149): both administrative rings unfrozen and reinitialised as R113 does for a partition, with
the violation record (DEDUCED, assumption 102). -/
def execUnfreeze (fn value : Nat) (s : State) : Host.Outcome State Fault Refusal :=
  if fn ≠ 0 ∨ value ≠ 1 ∨ !s.registersAnswer then .next s
  else
    let clear (r : Ring) : Ring := { r with head := 0, tail := 0, expect := 0, early := 0 }
    .next (s.modFn 0 (fun f => { f with
      urgent := clear f.urgent, bulk := clear f.bulk, frozen := false, freezeBreath := 0, violationTimes := [] }))

/-! Packets submitted. -/

/-- A packet as the host submits it: its stores, its 64 bytes at the ring's tail, its doorbell (R115, R118). -/
def submitPacket (h : PacketHeader) (c : Command) (s : State) : Host.Outcome State Fault Refusal :=
  let s := s.hostStores h.fn h.stores
  if !s.registersAnswer then .next s
  else
    let r := s.ring h.fn h.bulk
    let s := s.modRing h.fn h.bulk (fun r => { r with window := r.window.write (64 * r.tail) (packetBytes h c) })
    .next (s.doorbell h.fn h.bulk ((r.tail + 1) % r.depth) 4)

end Sys2Proof.Machine
end

