-- ==== Sys2Proof/Machine/Video.lean ====
section
/-! DEFINITION. The video path: concealment, frame buffers, conditioning, statistics and presentation (chapter 14). What a
stream decodes to is an external standard's (Config.decode). -/

namespace Sys2Proof.Machine

def Session.params (x : Session) : List Nat :=
  [x.codec, x.width, x.height, flag x.wide, x.buffers.length, x.bins, x.perCommand]

/-! Pictures (R513, R517 to R520). -/

/-- A picture outside Table 14.1, larger than the session, or of more bits than its storage holds (R500, R501). Profile codes:
of H.264 1 Constrained Baseline, 2 Main, 3 High; of HEVC 1 Main, 2 Main 10. -/
def unsupportedPicture (x : Session) (p : DecodedPicture) : Bool :=
  let listed :=
    if x.codec = 0 then
      decide (1 ≤ p.profile ∧ p.profile ≤ 3) && decide (p.chromaFormat ≤ 1) && p.bitDepth == 8 && p.framePicture
    else
      decide (1 ≤ p.profile ∧ p.profile ≤ 2) && p.chromaFormat == 1 && !p.highTier
        && (p.bitDepth == 8 || (p.bitDepth == 10 && p.profile == 2))
  !listed || decide (51 < p.level) || decide (x.width < p.codedWidth ∨ x.height < p.codedHeight) || (!x.wide && p.bitDepth == 10)

/-- Bins consumed before the coding block of area `i`. -/
def binsAt (p : DecodedPicture) (i : Nat) : Nat := p.bins.getD i 0

/-- A syntax error of slice data at area `e`, met before the bin allowance (R513, Table 14.3). -/
def errorAt (x : Session) (p : DecodedPicture) (e : Nat) : Bool :=
  (p.syntaxErrors.contains e || decide (65536 < p.blockBins.getD e 0)) && decide (binsAt p e < x.bins)

/-- What befalls one area (Table 14.3, R501, R502, R517 to R519): its block map value and its reason, 0 for none. The first
failing element of the picture decides. -/
def areaAt (x : Session) (p : DecodedPicture) (areas i : Nat) : Nat × Nat :=
  let slice := p.slices.getD i none
  let before (e : Nat) : Bool := errorAt x p e && p.slices.getD e none == slice && decide (binsAt p e ≤ binsAt p i)
  if unsupportedPicture x p then (5, 0x0E07) else if p.headerError then (2, 0x0E03)
  else if slice.isSome && (List.range areas).any before then (2, 0x0E02)
  else if x.bins ≤ binsAt p i then (1, 0x0E01)
  else match slice with
    | none => (5, 0x0E08)
    | some k =>
      if 256 ≤ k then (2, 0x0E02) else if p.outside.contains i then (4, 0x0E05)
      else if p.substituted.contains i then (3, 0x0E04) else (0, 0)

/-- Every area of a picture, in raster order. -/
def pictureAreas (x : Session) (p : DecodedPicture) : List (Nat × Nat) :=
  let n := ceil16 p.codedWidth * ceil16 p.codedHeight
  (List.range n).map (areaAt x p n)

/-- The block map of a picture (R519). -/
def cutMap (x : Session) (p : DecodedPicture) : List Nat := (pictureAreas x p).map (·.1)

/-- Bins consumed with the allowance applied. -/
def binsUsed (x : Session) (p : DecodedPicture) : Nat :=
  (p.bins.filter (fun b => decide (x.bins ≤ b))).foldl min p.binTotal

/-- The reason of the first damaged block of a picture in decode order, 0 for none (R529). -/
def pictureReason (x : Session) (p : DecodedPicture) : Nat :=
  let bad := ((pictureAreas x p).mapIdx (fun i a => (binsAt p i, a.2))).filter (fun y => y.2 != 0)
  ((bad.foldl (fun (m : Option (Nat × Nat)) y => match m with
    | some z => if y.1 < z.1 then some y else some z
    | none => some y) none).map (·.2)).getD 0

/-- The value that a stored sample holds (Table 14.2, storage). -/
def storedValue (wide : Bool) (depth v : Nat) : Nat := if wide then v * (if depth = 10 then 64 else 256) else v

/-- One plane of a frame buffer as stored: `n` rows of `rw` values. -/
def State.planeAt (s : State) (t : Nat) (x : Session) (base rw n : Nat) : List Nat :=
  let e := if x.wide then 2 else 1
  (List.range n).flatMap (fun y =>
    let row := s.hbmRead t (base + y * x.pitch) (rw * e)
    (List.range rw).map (fun i => field row (e * i) e))

/-- Stored values of a plane with the concealed areas taken from the reference (R518): `rw` values a row, areas of `aw` by
`ah` values. -/
def concealPlane (map : List Nat) (areas rw aw ah : Nat) (own ref : List Nat) (mid : Nat) : List Nat :=
  (own.zip (List.range own.length)).map (fun (v, i) =>
    let a := map.getD (i / rw / ah * areas + i % rw / aw) 0
    if a = 0 ∨ a = 3 then v else ref.getD i mid)

/-- One decoded picture written to its frame buffer, with its block map: never outside the buffer (R517), and the chroma of
a 4:0:0 picture at the mid value (R508). A reference that the picture buffer lacks is replaced by the preceding picture (R518; DESIGN
CHOICE, assumption 124). -/
def State.writePicture (s : State) (t : Nat) (x : Session) (p : DecodedPicture) : State :=
  let base := x.buffers.getD (p.buffer % max 1 x.buffers.length) 0
  let map := cutMap x p
  let areas := ceil16 p.codedWidth
  let depth := if x.wide then p.bitDepth else 8
  let mid := storedValue x.wide depth (2 ^ (depth - 1))
  let ref := (p.list0.orElse (fun _ => x.last)).map (fun b => x.buffers.getD (b % max 1 x.buffers.length) 0)
  let plane (offset n : Nat) : List Nat := match ref with
    | some a => s.planeAt t x (a + offset) p.codedWidth n
    | none => []
  let luma := concealPlane map areas p.codedWidth 16 16 (p.luma.map (storedValue x.wide depth)) (plane 0 p.codedHeight) mid
  let own := if p.chroma = [] then List.replicate (p.codedWidth * (p.codedHeight / 2)) mid
    else p.chroma.map (storedValue x.wide depth)
  let chroma := concealPlane map areas p.codedWidth 16 8 own (plane (x.pitch * x.height) (p.codedHeight / 2)) mid
  let rows (plane : List Nat) (n : Nat) : List (List Byte) :=
    (List.range n).map (fun y => ((plane.drop (y * p.codedWidth)).take (min p.codedWidth x.width)).flatMap
      (leBytes (if x.wide then 2 else 1)))
  let put (s : State) (a : Nat) (rs : List (List Byte)) : State :=
    (rs.zip (List.range rs.length)).foldl (fun s (r, y) => s.hbmWrite t (a + y * x.pitch) r) s
  let s := put s base (rows luma (min p.codedHeight x.height))
  let s := put s (base + x.pitch * x.height) (rows chroma (min p.codedHeight x.height / 2))
  s.hbmWrite t (base + x.pitch * x.height + x.pitch * (x.height / 2)) ((map.take (ceil16 x.width * ceil16 x.height)).map byte)

/-- The picture entered in the session (R511, R520). -/
def Session.enter (x : Session) (p : DecodedPicture) : Session :=
  let map := cutMap x p
  let concealed := map.any (fun m => m != 0 && m != 3)
  let first := if p.fresh then x.pictures else x.sequenceStart
  let tainted := map.contains 3 || p.predicts.any x.damaged.contains || x.damaged.any (fun i => decide (first ≤ i))
  { x with
    pictures := x.pictures + 1, sequenceStart := first, last := some p.buffer
    damaged := if concealed || tainted then x.damaged ++ [x.pictures] else x.damaged
    waiting := x.waiting ++ [{
      index := x.pictures, poc := p.poc, kind := p.kind, buffer := p.buffer, codedWidth := p.codedWidth
      codedHeight := p.codedHeight, displayX := p.displayX, displayY := p.displayY, displayW := p.displayW
      displayH := p.displayH, bitDepth := p.bitDepth, fullRange := p.fullRange, matrix := p.matrix, bins := binsUsed x p
      tainted := tainted, unsupported := unsupportedPicture x p }] }

/-! Conditioning (Table 14.5). -/

def State.sampleAt (s : State) (t : Nat) (x : Session) (p : Picture) (plane i y : Nat) : Nat :=
  let a := x.buffers.getD p.buffer 0 + (if plane = 0 then 0 else x.pitch * x.height) + y * x.pitch
  if x.wide then leVal (s.hbmRead t (a + 2 * i) 2) / (if p.bitDepth = 10 then 64 else 256) else leVal (s.hbmRead t (a + i) 1)

/-- A fraction as the nearest FP32 value. -/
def ratio (n d : Nat) : Num := toNum false (n * 2 ^ 64 / d) 64 (n * 2 ^ 64 % d != 0)

/-- Kr and Kb times 10,000 of a matrix coefficients value. -/
def lumaWeights (m : Nat) : Nat × Nat :=
  if m = 5 ∨ m = 6 then (2990, 1140) else if m = 9 then (2627, 593) else (2126, 722)

/-- Stages 3 and 4 for one pixel: R, G, B. -/
def toRgb (p : Picture) (y cb cr : Nat) : List Num :=
  let k := 2 ^ (p.bitDepth - 8)
  let num (n : Int) : Num := intToNum n 0
  let y' := if p.fullRange then (num y).div (num (2 ^ p.bitDepth - 1)) else (num ((y : Int) - 16 * k)).div (num (219 * k))
  let c' (v : Nat) : Num := if p.fullRange then (num ((v : Int) - 2 ^ (p.bitDepth - 1))).div (num (2 ^ p.bitDepth - 1))
    else (num ((v : Int) - 128 * k)).div (num (224 * k))
  let (r, b) := lumaWeights p.matrix
  let g := 10000 - r - b
  let ca := ratio (2 * (10000 - r)) 10000
  let cbb := ratio (2 * b * (10000 - b)) (10000 * g)
  let cc := ratio (2 * r * (10000 - r)) (10000 * g)
  let cd := ratio (2 * (10000 - b)) 10000
  [y'.add (ca.mul (c' cr)), (y'.sub (cbb.mul (c' cb))).sub (cc.mul (c' cr)), y'.add (cd.mul (c' cb))]

/-- The crop window in the displayed picture (R523). -/
def cropOf (p : Picture) (c : Conditioning) : Nat × Nat × Nat × Nat :=
  if c.w = 0 ∧ c.h = 0 then (0, 0, p.displayW, p.displayH)
  else (min c.x p.displayW, min c.y p.displayH, min c.w (p.displayW - min c.x p.displayW), min c.h (p.displayH - min c.y p.displayH))

/-- The whole part of a value that is not negative. -/
def Num.floorNat (x : Num) : Nat := x.int.toNat / 2 ^ 149

/-- Source positions and fraction of a resize coordinate (stage 5). -/
def resizeAt (i out size : Nat) : Nat × Nat × Num :=
  let half := ratio 1 2
  let step := (natNum size).div (natNum out)
  let sx := (((natNum i).add half).mul step).sub half
  let top := natNum (size - 1)
  let sx := if sx.lt .zero then .zero else if top.lt sx then top else sx
  let i0 := sx.floorNat
  (i0, min (i0 + 1) (size - 1), sx.sub (natNum i0))

/-- Bilinear interpolation between two values; the operations are not stated (assumption 33). -/
def blend (a b f : Num) : Num :=
  if f.isZero then a else f32 (Config.interpolate (encode32 a) (encode32 b) (encode32 f))

/-- Stage 7. -/
def gammaAt (table : Option (List Byte)) (v : Num) : Num :=
  match table with
  | none => v
  | some g =>
    let t := v.mul (natNum 1024)
    let i := min t.floorNat 1023
    let e (k : Nat) : Num := f16 (field g (2 * k) 2)
    (t.sub (natNum i)).fma ((e (i + 1)).sub (e i)) (e i)

/-- A frame conditioned: output patterns in raster order with channels fastest, and the samples clipped. -/
def State.condition (s : State) (t : Nat) (x : Session) (p : Picture) (c : Conditioning) : List Nat × Nat :=
  let (cx, cy, cw, ch) := cropOf p c
  let pix (i j : Nat) : List Num :=
    let a := p.displayX + cx + i
    let b := p.displayY + cy + j
    toRgb p (s.sampleAt t x p 0 a b) (s.sampleAt t x p 1 (a / 2 * 2) (b / 2)) (s.sampleAt t x p 1 (a / 2 * 2 + 1) (b / 2))
  let src := (List.range ch).map (fun j => (List.range cw).map (fun i => pix i j))
  let wide := src.map (fun row => (List.range x.outW).map (fun i =>
    let (a, b, f) := resizeAt i x.outW cw
    (List.range 3).map (fun k => blend ((row.getD a []).getD k .zero) ((row.getD b []).getD k .zero) f)))
  let out := (List.range x.outH).flatMap (fun j =>
    let (a, b, f) := resizeAt j x.outH ch
    (List.range x.outW).flatMap (fun i => (List.range 3).map (fun k =>
      blend (((wide.getD a []).getD i []).getD k .zero) (((wide.getD b []).getD i []).getD k .zero) f)))
  let gained := out.map (fun v => (f16 c.gain).fma v (f16 c.offset))
  let one := natNum 1
  let clamped := gained.map (fun v => if v.lt .zero then (Num.zero, true) else if one.lt v then (one, true) else (v, false))
  (clamped.map (fun v => convertOut x.format 0 0 (.num (gammaAt c.gamma v.1))), (clamped.filter (·.2)).length)

/-! Statistics (Table 14.6, R526). -/

/-- Mean, mean of squares, minimum and maximum of one channel. -/
def channelStats (vs : List Num) : List Byte :=
  let word (v : Num) : List Byte := leBytes 4 (encode32 v)
  if vs.any (·.isNan) then (List.replicate 4 (word .nan)).flatten
  else
    let r := (natNum vs.length).recip
    let es := vs.map Elt.num
    let sum (b : List Elt) : Num := (dot false es b).value.float
    word ((sum (es.map (fun _ => Elt.num (natNum 1)))).mul r) ++ word ((sum es).mul r)
      ++ word (vs.foldl Num.min (vs.headD .zero)) ++ word (vs.foldl Num.max (vs.headD .zero))

/-- The 256 counts of displayed luma. -/
def State.histogram (s : State) (t : Nat) (x : Session) (p : Picture) : List Nat :=
  let vs := (List.range p.displayH).flatMap (fun j => (List.range p.displayW).map (fun i =>
    s.sampleAt t x p 0 (p.displayX + i) (p.displayY + j) / (if p.bitDepth = 10 then 4 else 1)))
  (List.range 256).map (fun b => (vs.filter (· == b)).length)

/-- The block map of a picture as its frame buffer holds it. -/
def State.blockMap (s : State) (t : Nat) (x : Session) (p : Picture) : List Nat :=
  let n := ceil16 p.codedWidth * ceil16 p.codedHeight
  (s.hbmRead t (x.buffers.getD p.buffer 0 + x.pitch * x.height + x.pitch * (x.height / 2)) n).map (·.toNat)

def areaConcealed (m : Nat) : Bool := m != 0 && m != 3
/-- Concealed or good (R520). -/
def frameConcealed (map : List Nat) : Bool := map.any areaConcealed

/-- One output frame: its record and conditioned bytes. -/
def State.frameRecord (s : State) (t : Nat) (x : Session) (p : Picture) (number breath : Nat) (c : Conditioning)
    (shown : Bool) : List Byte × List Byte :=
  let map := s.blockMap t x p
  let (pats, clipped) := s.condition t x p c
  let bytes := pats.flatMap (leBytes (formatBits x.format / 8))
  let vals := pats.map (fun n => (decodeElt x.format n 0).float)
  let chan (k : Nat) : List Num := ((vals.zip (List.range vals.length)).filter (fun v => v.2 % 3 == k)).map (·.1)
  let flags := flag (frameConcealed map) + 2 * flag p.tainted + 4 * flag shown + 8 * flag (map.contains 3)
    + 16 * flag p.unsupported + 32 * flag (map.contains 4) + 64 * flag (p.bitDepth == 10)
  let first := ((List.range map.length).find? (fun i => areaConcealed (map.getD i 0))).getD 0xFFFFFFFF
  (leBytes 4 number ++ leBytes 4 p.poc ++ leBytes 6 breath ++ leBytes 2 c.generation ++ leBytes 4 flags
    ++ [byte p.kind, byte p.buffer, 0, 0] ++ leBytes 4 map.length ++ leBytes 4 (map.filter areaConcealed).length
    ++ leBytes 4 first ++ leBytes 4 p.bins ++ zeros 24 ++ (s.histogram t x p).flatMap (leBytes 4)
    ++ channelStats (chan 0) ++ channelStats (chan 1) ++ channelStats (chan 2) ++ leBytes 4 clipped ++ zeros 12, bytes)

/-! Presentation (R527, Table 14.7). -/

def presentRecord (tick number breath generation flags repeats : Nat) : List Byte :=
  leBytes 4 tick ++ leBytes 4 number ++ leBytes 6 breath ++ leBytes 2 generation ++ [byte flags, 0, 0, 0]
    ++ leBytes 4 repeats ++ zeros 40

/-- The tick's presentation buffer written: the frame shown, a repeat, or nothing yet. -/
def State.present (s : State) (t : Nat) (x : Session) (breath : Nat) (shown : Option (Nat × Bool × Nat × List Byte)) :
    State × Session :=
  let q := presentBytes x.outW x.outH x.format
  let a := x.present + x.ticks % 2 * q
  let old := x.present + (x.ticks + 1) % 2 * q
  let n := x.outW * x.outH * 3 * (formatBits x.format / 8)
  match shown with
  | some (number, tainted, generation, bytes) =>
    ((s.hbmWrite t a (presentRecord x.ticks number breath generation (4 * flag tainted) 0)).hbmWrite t (a + 4096) bytes
    , { x with ticks := x.ticks + 1, repeats := 0, presented := true })
  | none =>
    if !x.presented then
      ((s.hbmWrite t a (presentRecord x.ticks 0 breath 0 2 0)).hbmWrite t (a + 4096) (zeros n), { x with ticks := x.ticks + 1 })
    else
      let r := s.hbmRead t old 64
      let s := s.hbmWrite t a (s.hbmRead t old q)
      (s.hbmWrite t a (presentRecord x.ticks (field r 4 4) breath (field r 14 2) (field r 16 1 / 4 * 4 + 1) (x.repeats + 1))
      , { x with ticks := x.ticks + 1, repeats := x.repeats + 1 })

/-! VID_DECODE (R516, R529). -/

def State.setSession (s : State) (t : Nat) (x : Session) : State :=
  s.modTrain t (fun y => { y with objects := { y.objects with
    sessions := y.objects.sessions.map (fun z => if z.handle == x.handle then x else z) } })

/-- The frame shown: the newest good one, or with option bit 0 the newest that is good or only tainted. -/
def newestShown (x : Session) (frames : List (Nat × Bool × Bool)) : Option Nat :=
  ((frames.filter (fun f => !f.2.1 && (!f.2.2 || bit x.options 0))).getLast?).map (·.1)

/-- The end of a stream command once its pictures are written: the frames in output order, the presentation, the frame
records and the reply (R511, R520). -/
def State.endDecode (s : State) (w : Work) (x : Session) (breath : Nat) (c : Conditioning) (r : DecodeResult)
    (pics : List DecodedPicture) : State :=
  let t := w.train
  let reasons := (pics.map (pictureReason x)).filter (· != 0) ++ (if x.perCommand < r.units then [0x0E06] else [])
  let outs := ((x.ready ++ r.output).take x.perCommand).filterMap (fun i => x.waiting.find? (·.index == i))
  let nums := outs.mapIdx (fun i p => (p, (x.frames + i) % 2 ^ 32))
  let shown := newestShown x (nums.map (fun (p, n) => (n, frameConcealed (s.blockMap t x p), p.tainted)))
  let recs := nums.map (fun (p, n) => (n, p, s.frameRecord t x p n breath c (shown == some n)))
  let stats := recs.flatMap (fun y => y.2.2.1)
  let e := s.present t x breath
    ((recs.find? (fun y => some y.1 == shown)).map (fun y => (y.1, y.2.1.tainted, c.generation, y.2.2.2)))
  let x' := { e.2 with
    ready := (x.ready ++ r.output).drop x.perCommand
    frames := (x.frames + outs.length) % 2 ^ 32, waiting := x.waiting.filter (fun p => !outs.any (·.index == p.index)) }
  let s := nums.foldl (fun s q => if (s.blockMap t x q.1).contains 4 then
      s.raiseL t 0x0501 1 0xFFFF x.engine 0 (leBytes 4 x.handle ++ leBytes 4 q.2) else s) e.1
  let s := match w.held.find? (·.ordinal == 1) with
    | some h => match (s.fn w.fn).region? h.ref.region with
      | some g => s.slotWrite w.fn g (g.payloadAt h.ref.slot) stats true
      | none => s
    | none => s
  let s := s.modWork t w.id (fun w => { w with held := w.held.map (fun h => if h.ordinal == 1 then { h with bytes := stats } else h) })
  let s := s.setSession t x'
  match reasons with
  | [] => s.finishWork t w.id 0 (leBytes 4 pics.length ++ leBytes 4 x.frames)
  | e :: _ =>
    let concealed := (nums.filter (fun (p, _) => frameConcealed (s.blockMap t x p))).length
    s.finishWork t w.id 0x70 (leBytes 2 e ++ [0xFF, 0] ++ leBytes 4 pics.length ++ leBytes 4 x.frames ++ leBytes 2 concealed
      ++ [byte (4 * flag (shown.isNone && x.presented)), 0])

/-- What a decoder makes of a stream; an empty one gives nothing. -/
def Session.decodeOf (x : Session) (stream : List Byte) : DecodeResult :=
  if stream = [] then { units := 0, pictures := [], output := [] } else Config.decode x.params x.decoded stream

/-- The decode of one command's stream: pictures, frames output, statistics and presentation. `c` is the set active in
the Breath to which it was admitted. -/
def State.decodeStream (s : State) (w : Work) (x : Session) (breath : Nat) (c : Conditioning) : State :=
  let t := w.train
  let s := s.modWork t w.id (fun w => { w with before := some x })
  let stream := match w.held.find? (·.ordinal == 0) with
    | some h => h.bytes.take h.length
    | none => []
  let r := x.decodeOf stream
  let pics := r.pictures.take x.perCommand
  let e := pics.foldl (fun (o : State × Session) p => (o.1.writePicture t o.2 p, o.2.enter p))
    (s, if stream = [] then x else { x with decoded := x.decoded ++ [stream] })
  e.1.endDecode w e.2 breath c r pics

/-- HBM that a failed seal restores for a session (R530). -/
def Session.restored (x : Session) : List Range := x.ranges

/-- HBM that the decode of a stream accessed (R493): the frame buffers of the pictures decoded, of those they predict from and of
the frames output, the presentation buffer of the tick and, for a repeat, the one before. `after` is the session as it left it. -/
def Session.accessed (x after : Session) (r : DecodeResult) : List Range :=
  let pics := r.pictures.take x.perCommand
  let shown := (x.waiting.filter (fun p => !after.waiting.any (·.index == p.index))).map (·.buffer)
  let q := presentBytes x.outW x.outH x.format
  let aid (p : DecodedPicture) : List Nat :=
    if (cutMap x p).any (fun m => m != 0 && m != 3) then (p.list0.orElse (fun _ => x.last)).toList else []
  ((pics.flatMap (fun p => p.buffer :: (aid p ++ p.sources)) ++ shown).eraseDups.map (fun b =>
      ⟨x.buffers.getD b 0, frameBytes x.width x.height x.pitch⟩))
    ++ (if after.ticks = x.ticks then [] else [⟨x.present + x.ticks % 2 * q, q⟩])
    ++ (if after.repeats = x.repeats + 1 then [⟨x.present + (x.ticks + 1) % 2 * q, q⟩] else [])

/-- A session opened as VID_OPEN's descriptor says (R504, R523). -/
def State.openSession (s : State) (w : Work) (handle : Nat) : State :=
  match w.cmd with
  | .vidOpen codec wd ht n desc =>
    let x := { sessionOf codec wd ht n desc w.auxBytes with handle := handle, fn := w.fn, engine := w.aux.headD 0 }
    s.modTrain w.train (fun y => { y with objects := { y.objects with sessions := y.objects.sessions ++ [x] } })
  | _ => s

/-- SET_CONDITIONING executed: the shadow set written (R523, R253). -/
def State.writeShadow (s : State) (w : Work) : State :=
  match w.cmd with
  | .setConditioning h g gain off x y cw ch gamma =>
    match (s.train w.train).objects.sessions.find? (·.handle == h) with
    | none => s.failWork w.train w.id (badParam 0x0601 10)
    | some z =>
      let table := if gamma = 2 ^ 64 - 1 then none else some (s.hbmRead w.train gamma 2050)
      let bad := match table with
        | none => false
        | some bs => (List.range 1025).any (fun i => decide (bits (field bs (2 * i) 2) 10 5 = 31))
      if bad then s.failWork w.train w.id (badParam 0x0605 28)
      else
        let set : Conditioning := { generation := g, gain := gain, offset := off, x := x, y := y, w := cw, h := ch, gamma := table }
        (s.setSession w.train { z with shadow := set, swap := true }).finishWork w.train w.id 0
          (leBytes 6 ((s.breathOf w.train + 1) % 2 ^ 48))
  | _ => s

/-- Shadow sets become active at the start of a Breath (R524). -/
def Session.startBreath (x : Session) : Session :=
  { x with previous := x.active, active := if x.swap then x.shadow else x.active, swap := false }

end Sys2Proof.Machine
end

