-- ==== Sys2Proof/Machine/Execute.lean ====
section
/-! DEFINITION. Execution of admitted work: slots taken at issue, program runs, the steps of sliced commands, and the
commands with zero estimates (chapters 5 to 7, 9, 12 to 14). The effect of a step is computed when its work completes, in
issue order (assumption 7). -/

namespace Sys2Proof.Machine

/-! Slots at issue (R158, R161). -/

/-- Bytes of the output of reference `i`, as the command fixes them before it runs. -/
def Work.outputLen (w : Work) (i : Nat) : Nat :=
  match w.cmd with
  | .bellowsWrite _ _ n => n
  | .attest .. => 416 + Config.certificate.length
  | .progRun .. => slotOutput w.bound i
  | .score .. => slotOutput w.bound i
  | .jobSubmit .. => slotOutput w.bound i
  | _ => 0

/-- One slot taken: the three conditions on its header, and its length. -/
def State.holdSlot (s : State) (w : Work) (i : Nat) (r : SlotRef) : Except Refuse HeldSlot :=
  match (s.fn w.fn).region? r.region with
  | none => .error (bellowsBad 0x0501 r.region r.slot)
  | some g =>
    let h := s.hostRead w.fn (g.headerAt r.slot) 8
    let len := field h 4 4
    if field h 0 1 ≠ 0xD1 then .error (bellowsBad 0x0503 r.region r.slot)
    else if field h 1 1 ≠ r.gen ∨ r.gen ≠ (g.last r.slot + 1) % 256 then .error (bellowsBad 0x0504 r.region r.slot)
    else if r.dir = 0 ∧ g.slotSize < len then .error (bellowsBad 0x0506 r.region r.slot)
    else
      let n := if r.dir = 0 then len else w.outputLen i
      .ok { ref := r, ordinal := i, length := len, bytes := s.hostRead w.fn (g.payloadAt r.slot) n }

/-- The slots taken before the first failure, and that failure. -/
def State.holdSlots (s : State) (w : Work) : List (Nat × SlotRef) → List HeldSlot → List HeldSlot × Option Refuse
  | [], acc => (acc, none)
  | (i, r) :: rest, acc => match s.holdSlot w i r with
    | .error e => (acc, some e)
    | .ok h => s.holdSlots w rest (acc ++ [h])

/-- A command ended by its own execution, with the host violation that its refusal may count. -/
def State.failIssue (s : State) (w : Work) (r : Refuse) : State :=
  let s := if r.violation then
      s.violation w.fn w.bulk { ring := ringCode w.fn w.bulk, cause := if r.reason / 256 = 5 then 4 else 5, seq := w.seq
                                status := r.status, offset := r.offset, reason := r.reason, tag := w.tag }
    else s
  s.endWork w.train w.id r

/-- The reads of the payload of held input slots (R151). -/
def State.notePayloads (s : State) (w : Work) (hs : List HeldSlot) : State :=
  hs.foldl (fun s h => match (s.fn w.fn).region? h.ref.region with
    | some g => if h.ref.dir = 0 ∧ h.length ≠ 0 then s.noteAccess w.fn g (g.payloadAt h.ref.slot) h.length false true else s
    | none => s) s
/-- The reads of the headers of the slots that a command takes, up to the first that fails. -/
def State.noteHeaders (s : State) (w : Work) (rs : List (Nat × SlotRef)) : State :=
  rs.foldl (fun s x => match (s.fn w.fn).region? x.2.region with
    | some g => s.noteAccess w.fn g (g.headerAt x.2.slot) 64 false false
    | none => s) s

/-- The payload of held input slots read again by a re-run (R161). -/
def State.rereadInputs (s : State) (w : Work) : State :=
  (s.notePayloads w w.held).modWork w.train w.id (fun w => { w with held := w.held.map (fun h =>
    if h.ref.dir = 0 then match (s.fn w.fn).region? h.ref.region with
      | some g => { h with bytes := s.hostRead w.fn (g.payloadAt h.ref.slot) h.length }
      | none => h
    else h) })

/-- Every slot of a command taken, or the command ended. -/
def State.takeSlots (s : State) (w : Work) : State :=
  if w.held ≠ [] then s.rereadInputs w
  else
    let (hs, e) := s.holdSlots w (namedSlots w.refs) []
    let s := (s.noteHeaders w ((namedSlots w.refs).take (hs.length + 1))).notePayloads w hs
    let s := s.modWork w.train w.id (fun w => { w with held := hs })
    match e with
    | none => s
    | some r => s.failIssue w r

/-- Bytes of a held input slot up to its valid length. -/
def Work.input (w : Work) (i : Nat) : List Byte :=
  match w.held.find? (·.ordinal == i) with
  | some h => h.bytes.take h.length
  | none => []

/-- Bytes stored in a held output slot, and the bytes the card keeps of it. -/
def State.putOutput (s : State) (w : Work) (i off : Nat) (bs : List Byte) : State :=
  match w.held.find? (·.ordinal == i) with
  | none => s
  | some h =>
    let s := s.modWork w.train w.id (fun w => { w with held := w.held.map (fun y =>
      if y.ordinal == i then { y with bytes := if y.bytes.length < off + bs.length then y.bytes.take off ++ bs else splice y.bytes off bs }
      else y) })
    match (s.fn w.fn).region? h.ref.region with
    | some g => s.slotWrite w.fn g (g.payloadAt h.ref.slot + off) bs true
    | none => s

/-! Retired pages met by work in progress (R493). -/

def State.retiredHit (s : State) (t : Nat) (r : Range) : Option Refuse :=
  if isSpill r.start || decide (r.len = 0) || !s.onCard r.start then none
  else
    let a := s.localAddr r.start
    s.dev.retired.findSome? (fun (p, q) =>
      let g := unmapHbm t (s.groupSize t) p (q * pageBytes)
      if (s.members t).contains p && s.pageRetired p q && decide (a < g + pageBytes) && decide (g < a + r.len) then
        some { status := 0x51, reason := 0x0D03
               tail := leBytes 8 g ++ [byte p, byte (channelOf (q * pageBytes + (max a g - g)))] }
      else none)

/-! Program runs (R293 to R300, R311, R328, R376). -/

/-- A run's outcome: the state, and the failure that ends the command at the descriptor of index `at_`. -/
structure RunEnd where
  s : State
  fail : Option Refuse := none
  at_ : Nat := 0

/-- Memory that the first `n` descriptors of a program write, and those that follow with no barrier between (R309). -/
def reachedWrites (ps : List (Desc × Shape)) (n : Nat) : List Range :=
  let free (i : Nat) : Bool := (ps[i]?).any (·.1.noBarrier)
  let m := ((List.range ps.length).find? (fun i => decide (n ≤ i + 1) && !free i)).getD ps.length
  (ps.take (max n (m + 1))).flatMap (fun (d, sh) => ((d.layoutC sh).toList.filter (·.kind == 1)).flatMap Layout.rowRanges)

/-- Ranges of memory that a descriptor reads or writes at run time: of a GATHER table, the rows that its indices name. -/
def State.touched (s : State) (x : RunCtx) (d : Desc) (sh : Shape) : List Range :=
  let plain := ((d.layouts sh).filter (fun l => l.kind == 1 && !(d.op == opGather && l.base == 32))).flatMap Layout.rowRanges
  if d.op = opGather then
    match d.layoutA sh, d.layoutB sh with
    | some a, some b =>
      let ib := s.operandRead x d b 0 b.rowLen
      plain ++ (if a.kind = 1 then (List.range sh.m).filterMap (fun m =>
        let i := field ib (4 * m) 4
        if i < d.par 0 4 then some ⟨a.addr + i * a.pitch, sh.n⟩ else none) else [])
    | _, _ => plain
  else plain

/-- A descriptor's fetch (R300, R493): a retired page there ends the command, a CRC that fails the program too. -/
def State.fetchFailure (s : State) (x : RunCtx) (addr program : Nat) : RunEnd :=
  let a := addr + 128 * x.index
  match s.retiredHit x.t ⟨a, 128⟩ with
  | some r => { s := s, fail := some r, at_ := x.index }
  | none =>
    if (Desc.ofBytes (s.hbmRead x.t a 128)).crcGood then { s := s }
    else
      { s := s.modTrain x.t (fun t => { t with objects := { t.objects with
          programs := t.objects.programs.filter (fun p => p.handle != program) } })
        fail := some { status := 0x7F, reason := 0x0031 }, at_ := x.index }

/-- The spill region and failing unit that a descriptor meets: units that it reads, and units that it merges its output into
(R176, R498). -/
def State.spillFailure (s : State) (x : RunCtx) (d : Desc) (sh : Shape) : Option (Nat × Nat × Nat) :=
  let parts (ls : List Layout) : List Range := ((ls.filter (·.kind == 1)).flatMap Layout.rowRanges).filter (fun r => isSpill r.start)
  let bad (f : Nat → Nat → Nat → Option (Nat × Nat)) (r : Range) : Option (Nat × Nat × Nat) :=
    (f (spillHandle r.start) (spillOffset r.start) r.len).map (fun b => (spillHandle r.start, b))
  let outs := (d.layoutC sh).toList
  (((parts (d.inputs sh ++ if d.accumulate then outs else [])).findSome? (bad (s.spillBad (x.t + 1))))).orElse (fun _ =>
    (parts outs).findSome? (bad (s.mergeBad (x.t + 1))))

/-- The first failure that a descriptor meets before its work, with what it changes: its fetch (R300), a retired page (R493), a
spill unit that fails its check (R176). A spill window that it reads serves memory from then on (R495). -/
def State.descFailure (s : State) (x : RunCtx) (addr program : Nat) (d : Desc) (sh : Shape) : RunEnd :=
  let e := s.fetchFailure x addr program
  if e.fail.isSome then e
  else match (s.touched x d sh).findSome? (s.retiredHit x.t) with
    | some r => { s := s, fail := some r, at_ := x.index }
    | none =>
      let s := (((d.inputs sh).filter (fun l => l.kind == 1 && isSpill l.addr)).map (fun l => spillHandle l.addr)).foldl
        (fun s h => s.useAsMemory (x.t + 1) h) s
      match s.spillFailure x d sh with
      | some (h, a, slot) => { s := s.badSlot (x.t + 1) h slot, fail := some (spillPoison a), at_ := x.index }
      | none =>
        if d.op = opAttend ∧ d.b.kind = 4 then
          match x.seq with
          | some (p, j) =>
            let q := s.seqRead x.t p j
            match s.windowBad x.t p q sh.k with
            | some (a, slot) => { s := s.badSlot p.fn q.region slot, fail := some (spillPoison a), at_ := x.index }
            | none => { s := s }
          | none => { s := s }
        else { s := s }

/-- The claims that a descriptor's output needs in a spill window; none when one fails (R498). -/
def State.claimOutput (s : State) (x : RunCtx) (d : Desc) (sh : Shape) : Option State :=
  match d.layoutC sh with
  | some l =>
    if l.kind = 1 ∧ isSpill l.addr then
      l.rowRanges.foldl (fun s r => s.bind (fun s => s.claimRange (x.t + 1) (spillHandle r.start) (spillOffset r.start) r.len)) (some s)
    else some s
  | none => some s

/-- An event tied to results, raised when the seal passes (R553). -/
def State.addResultEvent (s : State) (t : Nat) (e : Event) : State :=
  s.modTrain t (fun x => { x with resultEvents := x.resultEvents ++ [e] })

/-- ACCUM_SATURATE and ADDRESS_CLAMP of one descriptor (R311, R328). -/
def State.countEvent (s : State) (x : RunCtx) (code n : Nat) : State :=
  if n = 0 then s
  else s.addResultEvent x.t (s.event code 0 x.t 0xFFFF 0xFF 0
    (leBytes 4 x.tag ++ leBytes 2 x.index ++ leBytes 2 (min n 0xFFFF)))

/-- The descriptors of one run, in order. -/
def State.runDescs (x : RunCtx) (score : Bool) (addr program : Nat) : List (Desc × Shape) → State → Nat → RunEnd
  | [], s, _ => { s := s }
  | (d, sh) :: rest, s, i =>
    let x := { x with index := i }
    let e := s.descFailure x addr program d sh
    let s := e.s
    match e.fail with
    | some _ => e
    | none =>
      if score ∧ d.c.kind = 4 ∧ x.step ≠ 0 then State.runDescs x score addr program rest s (i + 1)
      else match s.claimOutput x d sh with
        | none => { s := s, fail := some (noResource 0x0D20), at_ := i }
        | some s =>
          let r := s.runDesc x d sh
          let s := (r.s.countEvent x 0x0302 r.sat).countEvent x 0x0301 r.clamped
          let s := if d.op = opStopmm then s.modTrain x.t (fun t => { t with objects := { t.objects with
              monitors := t.objects.monitors.map (fun m => m.observe d r.observed) } }) else s
          State.runDescs x score addr program rest s (i + 1)

/-- The lines that a run may read as written are none at its start; carried ranges start at zero (R294, R295). -/
def State.openRun (s : State) (w : Work) (first : Bool) : State :=
  let s := (s.programCores w.train w.bound).foldl (fun s c => s.modCore c (fun k => { k with lines := [] })) s
  if first then s.modWork w.train w.id (fun w => { w with carried := w.carried.map (fun c => { c with working := {} }) }) else s

def State.addJournal (s : State) (t : Nat) (rs : List Range) : State :=
  s.modTrain t (fun x => { x with journal := rs.filter (fun r => !x.journal.contains r) ++ x.journal })

/-- The parts of a range in its pages. -/
def pagePieces (r : Range) : List Range :=
  (List.range ((r.start % pageBytes + r.len + pageBytes - 1) / pageBytes)).map (fun i =>
    let a := max r.start ((r.start / pageBytes + i) * pageBytes)
    ⟨a, min (r.start + r.len) ((r.start / pageBytes + i + 1) * pageBytes) - a⟩)

/-- Free bytes, taken from the counter of the state. -/
def State.freeBytes (s : State) (n : Nat) : List Byte × State :=
  let i := s.dev.freeIndex
  ((List.range n).map (fun k => Config.freeByte (i + k)), s.modDev (fun d => { d with freeIndex := i + n }))

/-- What an incomplete run leaves in a range it writes: free values, taken back by a failed seal; retired pages are not
written (R488, R492), and of a spill window only claimed slots (R498). -/
def State.scramble (s : State) (t : Nat) (r : Range) : State :=
  if isSpill r.start then
    match s.spillRegion? (t + 1) (spillHandle r.start) with
    | none => s
    | some g => g.claims.foldl (fun s c =>
        let lo := max (spillOffset r.start) (c.slot * g.slotSize)
        let hi := min (spillOffset r.start + r.len) ((c.slot + 1) * g.slotSize)
        if lo < hi then
          let (bs, s) := s.freeBytes (hi - lo)
          (s.spillWrite (t + 1) g.handle lo bs).modTrain t (fun y => { y with journal := y.journal ++ [⟨r.start - spillOffset r.start + lo, hi - lo⟩] })
        else s) s
  else (pagePieces r).foldl (fun s x =>
    if s.rangeRetired t x.start x.len then s
    else
      let (bs, s) := s.freeBytes x.len
      (s.hbmWrite t x.start bs).modTrain t (fun y => { y with journal := y.journal ++ [x] })) s

/-- Spill slots that a command claimed in its Breath are released (R498, Case 13.7). -/
def State.unclaim (s : State) (w : Work) : State :=
  let fn := w.train + 1
  let meets (o : Work) (r : Region) (slot : Nat) : Bool := o.writes.any (fun x =>
    isSpill x.start && spillHandle x.start == r.handle && (Range.mk (spillOffset x.start) x.len).meets ⟨slot * r.slotSize, r.slotSize⟩)
  ((s.fn fn).regions.filter (fun r => r.memoryUse == some true)).foldl (fun s r =>
    let old := (((s.train w.train).saved.regions.find? (fun o => o.1 == fn && o.2.handle == r.handle)).map (·.2.claims)).getD []
    (r.claims.filter (fun c => !old.any (·.slot == c.slot) && meets w r c.slot
      && !(s.train w.train).works.any (fun o => o.id != w.id && meets o r c.slot))).foldl (fun s c =>
        s.releaseSlot fn r.handle c.slot) s) s

/-- Bytes copied in step `k` of a transfer of `n` bytes. -/
def Work.chunk (w : Work) (k n : Nat) : Nat × Nat :=
  if w.bulk then (4096 * k, min 4096 (n - 4096 * k)) else (0, n)
/-- The range that step `k` of a command in steps of `unit` bytes covers. -/
def stepRange (r : Range) (unit k : Nat) : Range := ⟨r.start + k * unit, min unit (r.len - k * unit)⟩

/-- Ranges of memory that step `k` of a command writes, whole. -/
def Work.stepWrites (w : Work) (k : Nat) : List Range :=
  match w.cmd with
  | .bellowsRead _ dest => let c := w.chunk k (w.input 0).length; [⟨dest + c.1, c.2⟩]
  | .memFill a len _ => [stepRange ⟨a, len⟩ (w.aux.headD 65536) k]
  | .histPool base pages size => [stepRange ⟨base, (poolOf w.fn base pages size 0 w.auxBytes).controlLen⟩ (w.aux.headD 65536) k]
  | _ => if w.bound = [] then w.writes else reachedWrites w.bound w.bound.length

/-- Steps of a command that completed in the Breath in progress, step `k` excepted. -/
def Train.doneSteps (x : Train) (w : Work) (k : Nat) : List Nat :=
  (x.admitted.filter (fun p => p.work == w.id && p.done && p.step != k)).map (·.step)

/-- What a command that stops in step `k` leaves in memory: what it wrote in this Breath holds the values of an incomplete run,
`rs` of the step that stopped among them (R488, R493, R498). -/
def State.spoil (s : State) (w : Work) (k : Nat) (rs : List Range) (r : Refuse) : State :=
  if r.status = 0x51 ∨ r.reason = 0x0D20 then
    let all := ((s.train w.train).doneSteps w k).flatMap w.stepWrites ++ rs
    let s := all.eraseDups.foldl (fun s x => s.scramble w.train x) s
    if r.reason = 0x0D20 then s.unclaim w else s
  else s

/-- A program run that stops in step `k` of its command. -/
def RunEnd.spoiled (e : RunEnd) (w : Work) (k : Nat) (r : Refuse) : State :=
  e.s.spoil w k (reachedWrites w.bound (e.at_ + 1)) r

/-- One run of a command's program. -/
def State.runProgram (s : State) (w : Work) (x : RunCtx) (first : Bool) : RunEnd :=
  let s := (s.addJournal w.train (journalLines w.reads w.writes)).openRun w first
  State.runDescs x (w.cmd.opcode == 0x60) w.programAddr w.program w.bound s 0

def Work.runCtx (w : Work) (seed step : Nat) : RunCtx :=
  { t := w.train, fn := w.fn, work := w.id, tag := w.tag, seed := seed, step := step % 65536, index := 0 }

/-- Runs of a SCORE: step coordinates from `k`, `n` of them. -/
def State.scoreRuns (w : Work) (seed : Nat) (seq : Pool × Nat) : Nat → Nat → State → RunEnd
  | 0, _, s => { s := s }
  | n + 1, k, s =>
    let e := s.runProgram w { w.runCtx seed k with seq := some seq } (decide (k = 0))
    match e.fail with
    | some _ => e
    | none => State.scoreRuns w seed seq n (k + 1) e.s

/-- The residual that a SCORE replies: the first element of its output slot in FP32 (R243). -/
def Work.residual (w : Work) : Nat :=
  match (w.bound.map (·.1)).find? (fun d => d.c.kind == 5 && d.c.slot == 1), w.held.find? (·.ordinal == 1) with
  | some d, some h => encode32 (decodeElt d.fo (leVal (slice h.bytes 0 (ceilDiv (formatBits d.fo) 8)) % 2 ^ formatBits d.fo) 0).float
  | _, _ => 0

/-! Steps of the compute and sliced commands. -/

/-- The length and check of a transfer's reply (R212, R214). -/
def transferDetail (bs : List Byte) : List Byte := leBytes 4 bs.length ++ leBytes 4 (if bs = [] then 0 else crc32c bs)

def State.readStep (s : State) (w : Work) (k dest : Nat) (last : Bool) : State :=
  let bs := w.input 0
  let (o, n) := w.chunk k bs.length
  match s.retiredHit w.train ⟨dest + o, n⟩ with
  | some r => (s.spoil w k [⟨dest + o, n⟩] r).failIssue w r
  | none =>
    let s := s.hbmWrite w.train (dest + o) ((bs.drop o).take n)
    if last then s.finishWork w.train w.id 0 (transferDetail bs) else s

def State.writeStep (s : State) (w : Work) (k src len : Nat) (last : Bool) : State :=
  let (o, n) := w.chunk k len
  match s.retiredHit w.train ⟨src + o, n⟩ with
  | some r => s.failIssue w r
  | none =>
    let s := s.putOutput w 0 o (s.hbmRead w.train (src + o) n)
    if last then
      let bs := ((s.heldOf w.train w.id 0).map (·.bytes)).getD []
      s.finishWork w.train w.id 0 (transferDetail bs)
    else s

/-- `n` bytes of the pattern. -/
def patternBytes (p n : Nat) : List Byte := (List.range n).map (fun i => byte (p / 256 ^ (i % 4)))

/-- A fill of HBM that skips retired pages: the state and the bytes written (R216). -/
def State.fillHbm (s : State) (t p a n : Nat) : State × Nat :=
  ((List.range (ceilDiv n 64)).foldl (fun (s, done) i =>
    let b := a + 64 * i
    if s.rangeRetired t b 64 then (s, done) else (s.hbmWrite t b (patternBytes p 64), done + 64)) (s, 0))

/-- The part of a fill in one slot of a spill window: a whole claimed slot is released by pattern 0, other writes claim (R497).
The fill stops when a claim fails, or at a unit that fails its check before the merge (R498). `whole` is the command's range. -/
def State.fillSlot (s : State) (fn p : Nat) (r : Region) (whole : Range) (lo hi i : Nat) : Except (State × Refuse) (State × Nat) :=
  let covered := decide (spillOffset whole.start ≤ i * r.slotSize ∧ (i + 1) * r.slotSize ≤ spillOffset whole.start + whole.len)
  if p = 0 ∧ covered then .ok ((s.useAsMemory fn r.handle).releaseSlot fn r.handle i, 0)
  else match s.claimRange fn r.handle lo (hi - lo) with
    | none => .error (s, noResource 0x0D20)
    | some s => match s.mergeBad fn r.handle lo (hi - lo) with
      | some (a, slot) => .error (s.badSlot fn r.handle slot, spillPoison a)
      | none => .ok (s.spillWrite fn r.handle lo (patternBytes p (hi - lo)), hi - lo)

/-- A fill of a spill window, slot by slot. -/
def State.fillSpill (s : State) (fn p a n : Nat) (whole : Range) : Except (State × Refuse) (State × Nat) :=
  match s.spillRegion? fn (spillHandle a) with
  | none => .error (s, noResource 0x0D20)
  | some r =>
    let slots := (List.range ((spillOffset a + n - 1) / r.slotSize - spillOffset a / r.slotSize + 1)).map
      (· + spillOffset a / r.slotSize)
    slots.foldl (fun e i => e.bind (fun (s, done) =>
      (s.fillSlot fn p r whole (max (spillOffset a) (i * r.slotSize)) (min (spillOffset a + n) ((i + 1) * r.slotSize)) i).map
        (fun (s, m) => (s, done + m)))) (.ok (s, 0))

def State.fillStepRun (s : State) (w : Work) (k a len pattern : Nat) (last : Bool) : State :=
  let step := w.aux.headD 65536
  let r := stepRange ⟨a, len⟩ step k
  let done (s : State) (m : Nat) : State :=
    let total := w.aux.getD 1 0 + m
    let s := s.modWork w.train w.id (fun w => { w with aux := [step, total] })
    if last then s.finishWork w.train w.id 0 (leBytes 8 total) else s
  if isSpill a then
    match s.fillSpill (w.train + 1) pattern r.start r.len ⟨a, len⟩ with
    | .ok (s, m) => done s m
    | .error (s, e) => (s.spoil w k [r] e).failIssue w e
  else
    let (s, m) := s.fillHbm w.train pattern r.start r.len
    done s m

def State.modelStep (s : State) (w : Work) (k : Nat) (digest : List Byte) (a len : Nat) (last : Bool) : State :=
  match s.retiredHit w.train ⟨a + 65536 * k, min 65536 (len - 65536 * k)⟩ with
  | some r => s.failIssue w r
  | none =>
    if !last then s
    else if sha256 (s.hbmRead w.train a len) = digest then s.finishWork w.train w.id 0 []
    else s.failIssue w (badParam 0x0609)

/-- Up to four slabs of a Stop image written to their banks with their check planes and reference sums; the last step tests every
pinned macro (R356). -/
def State.pinStep (s : State) (w : Work) (k m first cores : Nat) (last : Bool) : State :=
  let t := w.train
  match (s.train t).objects.models.find? (·.handle == m) with
  | none => s.failIssue w (badParam 0x0601 10)
  | some x =>
    let slabs := (List.range 4).filterMap (fun i => if 4 * k + i < cores then some (4 * k + i) else none)
    match slabs.findSome? (fun i => s.retiredHit t ⟨x.addr + 4096 + i * slabBytes, slabBytes⟩) with
    | some r => s.failIssue w r
    | none =>
      let s := slabs.foldl (fun s i => s.writeSlab t x (first + i) i) s
      if !last then s
      else match s.testPins t x first cores with
        | (s, none) => s.finishWork t w.id 0 []
        | (s, some (core, mac)) => (s.releasePin t first cores core).failIssue w (pinRefuse t core mac)

/-- The reply to a program run (R232). -/
def State.runStep (s : State) (w : Work) (seed : Nat) : State :=
  let e := s.runProgram w (w.runCtx seed 0) true
  match e.fail with
  | some r => (e.spoiled w 0 r).failIssue w r
  | none => e.s.finishWork w.train w.id 0 (tokenId w.token)

/-- A free page table and free sequence descriptors, step by step (R450, R451). -/
def State.poolStep (s : State) (w : Work) (k base pages size : Nat) (last : Bool) : State :=
  let p := poolOf w.fn base pages size 0 w.auxBytes
  let r := stepRange ⟨base, p.controlLen⟩ (w.aux.headD 65536) k
  let inside (a : Nat) : Bool := decide (r.start ≤ a ∧ a < r.start + r.len)
  match s.retiredHit w.train r with
  | some e => (s.spoil w k [r] e).failIssue w e
  | none =>
    let s := (List.range (p.pages + p.spills)).foldl (fun s i =>
      if inside (p.entryAt i) then s.setEntry w.train p i (freeEntry p i) else s) s
    let s := (List.range p.capacity).foldl (fun s j =>
      if inside (p.seqAt j) then s.hbmWrite w.train (p.seqAt j) (zeros 64) else s) s
    if last then s.finishWork w.train w.id 0 [] else s

/-- A sequence of a command in progress, with the refusal that ends the command (R460, R466). -/
def State.liveSequence (s : State) (w : Work) (h : Nat) : Except Refuse (Pool × Nat × Sequence) :=
  match s.sequence? w.train w.fn h with
  | none => .error (if (s.lostSequence w.train w.fn h).isSome then { status := 0x51, reason := 0x0C11 } else badParam 0x0601 18)
  | some (p, j, q) => match s.damaged w.train p q with
    | some r => .error r
    | none => .ok (p, j, q)

/-- The record of a command carries the positions of sequence `h` as it stands (R468). -/
def State.notePositions (s : State) (w : Work) (h : Nat) : State :=
  match s.sequence? w.train w.fn h with
  | some (_, _, q) => s.modWork w.train w.id (fun w => { w with extra := q.positions })
  | none => s
/-- A command that names sequence `h` ended by its own execution, the sequence as it is left. -/
def State.failSequence (s : State) (w : Work) (h : Nat) (r : Refuse) : State := (s.notePositions w h).failIssue w r

/-- SCORE (R242, R243, R464): the append, then the runs; a failure leaves the sequence as it was. -/
def State.scoreStep (s : State) (w : Work) (k h seed steps : Nat) : State :=
  let t := w.train
  match s.liveSequence w h with
  | .error r => s.failSequence w h r
  | .ok (p, j, q) =>
    let before := s.groupHbm t
    let s := s.modWork t w.id (fun w => { w with undo := before })
    match (s.addJournal t [⟨p.base, p.length⟩]).appendOne t p j with
    | .error r => (s.dropPoisoned p.fn q.region r).failSequence w h r
    | .ok a =>
      let e := State.scoreRuns w seed (p, j) steps 0 a.s
      match e.fail with
      | some r => ((e.spoiled w k r).undoSequence t before p j).failSequence w h r
      | none =>
        let s := e.s
        let res := ((s.work? t w.id).map (·.residual)).getD 0
        let q' := s.seqRead t p j
        (s.modWork t w.id (fun w => { w with extra := q'.positions })).finishWork t w.id 0
          (tokenId w.token ++ leBytes 4 res ++ leBytes 4 a.flags)

/-- One page of a prefill (R461). `aux` holds the token count and the record size. A poisoned step takes back those of its
Breath too (R488). -/
def State.prefillStep (s : State) (w : Work) (k h : Nat) (last : Bool) : State :=
  let t := w.train
  match s.liveSequence w h with
  | .error r => s.failSequence w h r
  | .ok (p, j, q) =>
    let n := min p.pt (w.aux.headD 0 - k * p.pt)
    let old (r : Refuse) : List Memory := if r.status = 0x51 then (s.train t).saved.hbm else s.groupHbm t
    match State.appendMany t p j n (s.addJournal t [⟨p.base, p.length⟩]) 0 with
    | .error r => ((s.dropPoisoned p.fn q.region r).undoSequence t (old r) p j).failSequence w h r
    | .ok a =>
      let x := { w.runCtx 0 k with seq := some (p, j), tokens := n, record := k * p.pt * w.aux.getD 1 0 }
      let e := a.s.runProgram w x (decide (k = 0))
      match e.fail with
      | some r => ((e.spoiled w k r).undoSequence t (old r) p j).failSequence w h r
      | none =>
        let s := e.s
        let q' := s.seqRead t p j
        let s := s.modWork t w.id (fun w => { w with extra := q'.positions })
        if last then s.finishWork t w.id 0 (leBytes 4 (min (w.aux.headD 0) (2 ^ 32 - 1)) ++ leBytes 8 q'.base) else s

/-- The replay token identifier of a job; a resumed job keeps its original one (R602). -/
def Work.ident (w : Work) : List Byte := if w.auxBytes.length = 8 then w.auxBytes else tokenId w.token

/-- The reply of a job (R245). -/
def Work.jobDetail (w : Work) : List Byte := w.ident ++ leBytes 2 w.stepsDone

def State.jobStep (s : State) (w : Work) (k seed : Nat) (last : Bool) : State :=
  let e := s.runProgram w (w.runCtx seed k) (decide (k = 0))
  match e.fail with
  | some r => (e.spoiled w k r).failIssue w r
  | none => if last then e.s.finishWork w.train w.id 0 { w with stepsDone := k + 1 }.jobDetail else e.s

/-- VID_DECODE (R516, R524): the conditioning set is that of the Breath to which it was admitted. A retired page that the decode
meets ends the command with the session as it was (R493, R530). -/
def State.decodeStep (s : State) (w : Work) (k h : Nat) (carried : Bool) : State :=
  let t := w.train
  match (s.train t).objects.sessions.find? (·.handle == h) with
  | none => s.failIssue w (badParam 0x0601 10)
  | some x =>
    let e := (s.addJournal t x.restored).decodeStream w x w.admittedTo (if carried then x.previous else x.active)
    let after := ((e.train t).objects.sessions.find? (·.handle == h)).getD x
    let ranges := x.accessed after (x.decodeOf (w.input 0))
    match ranges.findSome? (s.retiredHit t) with
    | some r => (s.spoil w k ranges r).failIssue w r
    | none => e

/-- Cores of a group that fail the diagnostic set: a value that only the hardware gives (R552, assumption 17). -/
def State.diagFailing (s : State) (t : Nat) : List Nat :=
  (List.range (16 * s.groupSize t)).filter (fun i => bit (Config.diagFailing s.dev.freeIndex) i)

/-- The last unit of a DIAG_RUN: the program area zeroed, the failing cores reported (R287, R552). -/
def State.diagStep (s : State) (w : Work) (last : Bool) : State :=
  if !last then s
  else
    let bad := s.diagFailing w.train
    let s := s.modDev (fun d => { d with freeIndex := d.freeIndex + 1 })
    let s := (s.members w.train).foldl (fun s p => s.modPart p (fun x => { x with
      cores := x.cores.map (fun c => { c with clm := c.clm.clear 0 programArea, lines := [] }) })) s
    let first := (bad.head?.map (· + 16 * w.train)).getD 0xFFFF
    (s.modWork w.train w.id (fun w => { w with aux := bad.map (· + 16 * w.train) })).finishWork w.train w.id 0
      (leBytes 2 bad.length ++ leBytes 2 first)

/-- Step `k` of a command, `last` when it is the final one. -/
def State.execStep (s : State) (w : Work) (k : Nat) (last carried : Bool) : State :=
  match w.cmd with
  | .bellowsRead _ dest => s.readStep w k dest last
  | .bellowsWrite _ src len => s.writeStep w k src len last
  | .memFill a len p => s.fillStepRun w k a len p last
  | .modelLoad d a len _ => s.modelStep w k d a len last
  | .stopPin m first cores => s.pinStep w k m first cores last
  | .progRun _ seed _ => s.runStep w seed
  | .histPool base pages size => s.poolStep w k base pages size last
  | .histPrefill _ h _ => s.prefillStep w k h last
  | .score _ h seed steps _ _ => s.scoreStep w k h seed steps
  | .jobSubmit _ seed _ _ _ => s.jobStep w k seed last
  | .vidDecode h _ _ => s.decodeStep w k h carried
  | .diagRun _ => s.diagStep w last
  | _ => s

/-- Core cycles of a run in the reply (R232) and in the entry (Table 18.3). -/
def Work.withCycles (w : Work) : Work :=
  { w with detail := if w.cmd.opcode = 0x43 ∧ w.status = 0 then w.detail.take 8 ++ leBytes 4 (min w.cyclesUsed 0xFFFFFFFF) else w.detail }

/-! The end of a job before its last step (R96, R198, R247). The reason waits in `status` until the last admitted step. -/

/-- The reply of a job that was cut: the steps completed (R247). -/
def cutRefuse (reason steps : Nat) : Refuse := { status := 0x30, reason := reason, tail := leBytes 2 steps }

/-- Steps of a work that are admitted and unfinished. -/
def Train.piecesOf (t : Train) (id : Nat) : List Piece := t.admitted.filter (fun p => p.work == id && !p.done)

/-- No further step is admitted; with none in progress the command ends at once. -/
def State.cutWork (s : State) (t id reason : Nat) : State :=
  match s.work? t id with
  | none => s
  | some w =>
    if !w.live then s
    else if (s.train t).piecesOf id = [] then s.endWork t id (cutRefuse reason w.stepsDone)
    else (s.modTrain t (fun x => { x with forming := x.forming.filter (·.work != id) })).modWork t id
      (fun w => { w with cut := true, status := reason })

/-! Admission details fixed when the slots are known. -/

/-- Steps of a command that the header length fixes: Bulk transfers and prefills. -/
def State.fixSteps (s : State) (w : Work) : State :=
  let set (s : State) (n : Nat) : State :=
    (s.modTrain w.train (fun t => { t with
      admitted := t.admitted.filter (fun p => p.work != w.id || decide (p.step < n))
      forming := t.forming.filter (fun p => p.work != w.id || decide (p.step < n)) })).modWork w.train w.id
        (fun w => { w with steps := n, stepsAdmitted := min w.stepsAdmitted n })
  match w.cmd with
  | .bellowsRead .. =>
    if w.bulk then
      let n := (w.input 0).length
      let charge (k : Nat) : Nat := (Frac.add ⟨2000, 1⟩ (shareTime (w.aux.headD 0) (w.aux.getD 1 0) (s.groupSize w.train) k)).cycles
        (s.train w.train).step
      (set s (unitsOf n 4096)).modWork w.train w.id (fun w => { w with lastStep := (w.inSteps n 4096 (fun k => ⟨charge k, 0⟩)).lastStep })
    else s
  | .histPrefill _ h _ =>
    match s.liveSequence w h with
    | .error r => s.failSequence w h r
    | .ok (p, _, q) =>
      let size := w.recordSize
      let n := (w.input 0).length
      if q.last ≠ 0 then s.failSequence w h (badParam 0x0606 18)
      else if size = 0 ∨ n = 0 ∨ n % size ≠ 0 then s.failSequence w h (badParam 0x0605 26)
      else (set s (ceilDiv (n / size) p.pt)).modWork w.train w.id (fun w => { w with aux := [n / size, size] })
  | _ => s

/-! Commands with zero estimates, at issue. -/

/-- The oldest job of a function with a tag that is in progress: until its reply (R188, R247). -/
def State.jobByTag (s : State) (t fn tag : Nat) : Option Work :=
  (s.train t).works.find? (fun w => w.cmd.opcode == 0x61 && w.tag == tag && w.fn == fn && w.bulk)

/-- The range monitor of record `i` of a slot (R375, Table 9.7); none where the record is bad. -/
def State.monitorOf (s : State) (t fn i : Nat) (r : List Byte) : Option Monitor :=
  match s.residency? t fn (field r 0 4) with
  | none => none
  | some x =>
    let h := s.residencyHeader t x
    let m := stopMatrix h (field r 4 1)
    let lo := f32 (field r 16 4)
    let hi := f32 (field r 20 4)
    if x.broken || decide (field h 5 1 ≤ field r 4 1 ∨ 2 < field r 5 1 ∨ field r 6 2 < 1 ∨ 4096 < field r 6 2 ∨ m.n ≤ field r 8 4
        ∨ field r 12 4 < 1 ∨ m.n < field r 8 4 + field r 12 4) || lo.isNan || hi.isNan || hi.lt lo || (firstNonZero r 24 8).isSome
    then none
    else some { residency := field r 0 4, matrix := field r 4 1, statistic := field r 5 1, window := field r 6 2, column := field r 8 4
                columns := field r 12 4, lower := field r 16 4, upper := field r 20 4, record := i }

/-- The records of DRONE_CFG's slot, and what each gives. -/
def State.monitorsOf (s : State) (t fn : Nat) (bs : List Byte) : List (Option Monitor) :=
  (List.range (bs.length / 32)).map (fun i => s.monitorOf t fn i (slice bs (32 * i) 32))
/-- The index of the first bad record. -/
def State.badMonitor (s : State) (t fn : Nat) (bs : List Byte) : Option Nat :=
  if bs.length % 32 ≠ 0 ∨ 256 < bs.length / 32 then some 0
  else
    let ms := s.monitorsOf t fn bs
    (List.range ms.length).find? (fun i => (ms.getD i none).isNone)

/-- A command with zero estimates issued: what it does at once; what it commits follows at the passing seal. The
commands of the ledger and of presence are in `Security`. -/
def State.execZero (s : State) (w : Work) : State :=
  let t := w.train
  let done (s : State) (d : List Byte) : State := s.finishWork t w.id 0 d
  match w.cmd with
  | .nop => done s (leBytes 2 (w.aux.headD 0))
  | .breathSet n5 floor =>
    let x := s.train t
    let n := if n5 = 0 then x.n5Next.getD x.n5 else n5
    done (s.modTrain t (fun x => { x with n5Next := some n, floorNext := some floor })) (leBytes 2 n)
  | .partQos share =>
    let sum := shareSum (fun p => (s.part p).shareSoon) w.part share
    if 256 < sum then s.failIssue w (badParam 0x0606)
    else done (s.modPart w.part (fun p => { p with shareNext := some share })) (byte share :: leBytes 2 sum)
  | .partPower step => done (s.modTrain t (fun x => { x with stepNext := some step })) [byte step]
  | .jobCancel tag =>
    match s.jobByTag t w.fn tag with
    | none => done s [1]
    | some j =>
      if !j.live || decide (j.steps ≤ j.stepsAdmitted) then done s [1] else done (s.cutWork t j.id 0x0017) [0]
  | .setConditioning .. => s.writeShadow w
  | .droneCfg .. =>
    match s.badMonitor t w.fn (w.input 0) with
    | some i => s.failIssue w { badParam 0x0605 with tail := leBytes 2 i, violation := true }
    | none => done s (leBytes 2 ((w.input 0).length / 32))
  | _ => done s []

/-! What a successful command commits when its seal passes. -/

/-- Handle `c` of a kind (R182, assumption 29). -/
def handleValue (kind c : Nat) : Nat := 6 * (c % 715827882) + (kind + c / 715827882) % 6 + 1
/-- The first count from `c` on whose handle no live object bears; the first operand bounds the walk. -/
def freeCount (used : List Nat) (kind : Nat) : Nat → Nat → Nat
  | 0, c => c
  | n + 1, c => if used.contains (handleValue kind c) then freeCount used kind n (c + 1) else c
/-- The 32-bit handles of a group's objects. -/
def State.handlesInUse (s : State) (t : Nat) : List Nat :=
  let o := (s.train t).objects
  o.models.map (·.handle) ++ o.residencies.map (·.handle) ++ o.programs.map (·.handle) ++ o.sessions.map (·.handle)
    ++ o.pools.flatMap (fun p => p.handle :: p.lost
      ++ (((List.range p.capacity).map (s.seqRead t p)).filter (fun q => decide (q.state ≠ 0))).map (·.handle))
/-- The count of the next handle of a kind: once the counts have passed a sixth of the values, handles in use are passed over. -/
def State.nextCount (s : State) (t kind : Nat) : Nat :=
  let c := (s.train t).objects.handles.getD kind 0
  if c < 715827882 then c else freeCount (s.handlesInUse t) kind (s.handlesInUse t).length c
/-- The next handle of a kind. -/
def State.nextHandle (s : State) (t kind : Nat) : Nat := handleValue kind (s.nextCount t kind)
def Objects.took (o : Objects) (kind c : Nat) : Objects := { o with handles := modAt o.handles kind (fun _ => c + 1) }
def State.modObjects (s : State) (t : Nat) (g : Objects → Objects) : State :=
  s.modTrain t (fun x => { x with objects := g x.objects })

/-- The first region handle not in use, from `n` on; `k` bounds the walk (R182). -/
def freeRegionHandle (used : List Nat) : Nat → Nat → Nat
  | 0, n => n
  | k + 1, n => if used.contains n then freeRegionHandle used k (if n = 0xFFFE then 1 else n + 1) else n

/-- The banks, matrices and monitors of a residency are free (R224, R375). -/
def Objects.dropResidency (o : Objects) (h : Nat) : Objects :=
  { o with residencies := o.residencies.filter (·.handle != h), monitors := o.monitors.filter (·.residency != h) }

/-- The commit of a finished command at the seal of its Breath; a successful reply's detail is completed. -/
def State.commitWork (s : State) (w : Work) : State :=
  let t := w.train
  let take (s' : State) (kind : Nat) (g : Objects → Objects) : State := s'.modObjects t (fun o => (g o).took kind (s.nextCount t kind))
  let detail (s : State) (d : List Byte) : State := s.modWork t w.id (fun w => { w with detail := d })
  match w.cmd with
  | .bellowsRegister k x c op hb pb =>
    let f := s.fn w.fn
    let h := freeRegionHandle (f.regions.map (·.handle)) 64 f.nextRegion
    detail (s.modFn w.fn (fun f => { f with
      regions := f.regions ++ [regionOf k x (c + 1) op hb pb h t], nextRegion := if h = 0xFFFE then 1 else h + 1 })) (leBytes 2 h)
  | .modelLoad d a len fmt =>
    let h := s.nextHandle t 0
    detail (take s 0 (fun o => { o with
      models := o.models ++ [{ handle := h, fn := w.fn, addr := a, length := len, format := fmt, digest := d }] })) (leBytes 4 h)
  | .stopPin m first cores =>
    let h := s.nextHandle t 1
    detail (take s 1 (fun o => { o with
      residencies := o.residencies ++ [{ handle := h, fn := w.fn, model := m, firstCore := first, cores := cores }] }))
      (leBytes 4 h ++ leBytes 4 (cores * slabBytes))
  | .stopRelease h => s.modObjects t (fun o => o.dropResidency h)
  | .modelRelease h => s.modObjects t (fun o => { o with models := o.models.filter (·.handle != h) })
  | .progRegister a n =>
    let h := s.nextHandle t 2
    detail (take s 2 (fun o => { o with
      programs := o.programs ++ [{ handle := h, fn := w.fn, addr := a, count := n, digest := sha256 w.descriptors.flatten }] }))
      (leBytes 4 h)
  | .progRelease h => s.modObjects t (fun o => { o with programs := o.programs.filter (·.handle != h) })
  | .histPool base pages size =>
    let h := s.nextHandle t 3
    let p := poolOf w.fn base pages size h w.auxBytes
    detail (take s 3 (fun o => { o with pools := o.pools ++ [p] })) (leBytes 4 h ++ leBytes 8 p.length)
  | .histOpen ph policy region key =>
    match s.pool? t w.fn ph with
    | none => s
    | some p =>
      match s.freeSequence t p with
      | none => s.modWork t w.id (fun w => w.fail (noResource 0x0011))
      | some j =>
        let h := s.nextHandle t 4
        detail (take (s.openSequence t p j policy region key h) 4 id) (leBytes 4 h)
  | .histClose h =>
    match s.pool? t w.fn h with
    | some p =>
      (s.closePool t p).modObjects t (fun o => { o with pools := o.pools.filter (·.handle != h) })
    | none =>
      match s.sequence? t w.fn h with
      | some (p, j, _) => s.closeSequence t p j
      | none => s
  | .vidOpen .. =>
    let h := s.nextHandle t 5
    detail (take (s.openSession w h) 5 id) (leBytes 4 h)
  | .vidClose h => s.modObjects t (fun o => { o with sessions := o.sessions.filter (·.handle != h) })
  | .droneCfg _ mode =>
    let ms := (s.monitorsOf t w.fn (w.input 0)).filterMap id
    s.modObjects t (fun o => { o with monitors := ms, monitorFault := mode == 1 })
  | .presenceSet n =>
    let old := s.presence.length
    detail { s with presence := { s.presence with length := n } } (leBytes 2 old)
  | _ => s

end Sys2Proof.Machine
end

