-- ==== Sys2Proof/Machine/Ledger.lean ====
section
/-! DEFINITION. The ledger writer's tiers and the cartridge bays: which folio a bay commits, mounting, ejecting, faults,
retirement, and the commands that ask for them (chapter 19, R267 to R275). -/

namespace Sys2Proof

/-! Cartridges (R633 to R638, R651). -/

/-- Slots of an LC-8T (R633), and the last slot that makes a bay FULL (R650). -/
def cartSlots : Nat := 122070312
def fullSlot : Nat := 122070303

/-- Block 0 of a slot holds a folio header that verifies under the card's key (R630, R651). -/
def headerGood (h : List Byte) : Bool :=
  h.take 4 == [0x4D, 0x4C, 0x46, 0x31] && (slice h 416 96 == fit 96 (Config.sign (h.take 416))
    || Config.verify Config.deviceKey (h.take 416) (slice h 416 96))

/-- The header of a slot found committed at mount: the open slot needs all its blocks written. -/
def CartridgePages.committedAt (c : CartridgePages) (slot : Nat) : Option (List Byte) :=
  if slot = c.openSlot ∧ c.writtenMap ≠ 2 ^ 128 - 1 then none
  else ((c.headers.find? (·.1 == slot)).map (·.2)).filter headerGood

/-- Torn slots from `slot` downwards to the most recent committed one, ascending, and that one's header (R651); the walk
stops at the ninth. -/
def CartridgePages.examine (c : CartridgePages) : Nat → Nat → List Nat → List Nat × Option (List Byte)
  | 0, _, acc => (acc, none)
  | n + 1, slot, acc =>
    match c.committedAt slot with
    | some h => (acc, some h)
    | none => if slot = 0 then (slot :: acc, none) else c.examine n (slot - 1) (slot :: acc)

/-- The highest ledger sequence of a header (Table 18.7). -/
def headerLast (h : List Byte) : Nat := field h 24 8
/-- The last ledger sequence on a cartridge, from its newest committed folio. -/
def CartridgePages.lastSeq (c : CartridgePages) : Option Nat :=
  ((c.headers.filter (fun x => headerGood x.2)).map (fun x => headerLast x.2)).foldl
    (fun m x => some (max (m.getD 0) x)) none

/-- Bits and fields set in the life page (R636). -/
def CartridgePages.setFault (c : CartridgePages) (code : Nat) : CartridgePages :=
  if bit c.life 2 then c else { c with life := c.life + 4, faultCode := code }

end Sys2Proof

namespace Sys2Proof.Machine

/-! Which folio a tier takes next (R641, R647, R650, R656). -/

/-- Folios can be committed: after READY, with power (R705, R714). -/
def State.commits (s : State) : Bool :=
  [DevState.ready, .restarting, .shuttingDown, .halted].contains s.dev.state && s.board.good && !s.board.holdUp

/-- The bay that is still to take an ejected folio number, other than `b`. -/
def State.ejecting (s : State) (b : Nat) : Option Nat :=
  let o := s.bay (1 - b)
  if o.ejectAsked && o.state == .standby then o.ejectUpTo else none
/-- The other bay commits its folio again (R650). -/
def State.otherRetries (s : State) (b : Nat) : Bool :=
  let o := s.bay (1 - b)
  o.state == .full && decide (o.tornRun ≠ 0 ∧ o.nextSlot < cartSlots)

/-- Folios for any tier: holding flash first, then MRAM (R656). -/
def Ledger.waiting (l : Ledger) : List Folio := l.flash ++ l.mram.filter (fun f => f.bay.isNone)

/-- The folio that bay `b` commits now. -/
def State.nextFor (s : State) (b : Nat) : Option Folio :=
  let x := s.bay b
  let l := s.ledger
  if x.cart.isNone || decide (cartSlots ≤ x.nextSlot) then none
  else match l.mram.find? (fun f => f.bay == some b && [BayState.standby, .active, .full].contains x.state) with
    | some f => some f
    | none =>
      match x.state with
      | .active =>
        if s.otherRetries b then none
        else l.waiting.find? (fun f => match s.ejecting b with
          | some n => decide (n < f.number)
          | none => true)
      | .full => if x.tornRun ≠ 0 then l.waiting.head? else none
      | .standby => match x.ejectAsked, x.ejectUpTo with
        | true, some n => l.waiting.head?.filter (fun f => decide (f.number ≤ n))
        | _, _ => none
      | _ => none

/-- The MRAM folio that holding flash takes now. -/
def State.nextForFlash (s : State) : Option Folio :=
  let l := s.ledger
  let kept (f : Folio) : Bool := l.flash == [] && [0, 1].any (fun b => match s.ejecting b with
    | some n => decide (f.number ≤ n)
    | none => false)
  if l.flashCode ≠ 0 ∨ (s.activeBay.isSome ∧ l.flash = []) then none
  else l.mram.find? (fun f => f.bay.isNone && !kept f)

/-- No tier can take a folio any more (R713). -/
def State.nothingToCommit (s : State) : Bool :=
  (s.nextFor 0).isNone && (s.nextFor 1).isNone && s.nextForFlash.isNone

/-! Ends of the commands that wait for the ledger. -/

/-- Works of the administrative train whose effect continues, of one kind. -/
def State.outside (s : State) (p : Command → Bool) : List Work :=
  (s.train adminTrain).works.filter (fun w => w.stage == .outside && p w.cmd)

/-- Every record below a sequence is on a cartridge. -/
def Ledger.below (l : Ledger) (seq : Nat) : Bool :=
  (l.mram ++ l.flash).all (fun f => decide (seq ≤ f.firstSeq)) && (decide (l.open_ = []) || decide (seq ≤ l.nextSeq - l.open_.length))

/-- LEDGER_FLUSH (R271): done, or no bay left to take its folios. `aux` holds the sequence it waits for. -/
def State.checkFlush (s : State) : State :=
  let able := s.bays.any (fun b => b.state == .active || b.state == .standby)
  (s.outside (fun c => c.opcode == 0xA2)).foldl (fun s w =>
    if s.ledger.below (w.aux.headD 0) then
      s.finishWork adminTrain w.id 0 (leBytes 8 s.ledger.committed)
    else if able then s else s.failWork adminTrain w.id (noResource 0x0019)) s

/-- The closing folio of a retirement that failed commits like any other (R269). -/
def State.freeClosing (s : State) (b : Nat) : State :=
  s.modLedger (fun l => { l with mram := l.mram.map (fun f => if f.bay == some b then { f with bay := none } else f) })

/-- Retirements of a bay end with an error (R269). -/
def State.failRetire (s : State) (b : Nat) : State :=
  ((s.outside (fun c => c == .cartRetire b)).foldl (fun s w => s.failWork adminTrain w.id (badParam 0x0606)) s).freeClosing b

/-! Bay states (R639 to R643, R663, R668). -/

/-- A STANDBY bay becomes ACTIVE when none is (R642). -/
def State.elect (s : State) : State :=
  if s.activeBay.isSome then s
  else match [0, 1].find? (fun b => (s.bay b).state == .standby && !(s.bay b).ejectAsked) with
    | some b => (s.modBay b (fun x => { x with state := .active })).bayEvent b 3
    | none => s

/-- A cartridge fault (R663). -/
def State.bayFault (s : State) (b code : Nat) : State :=
  let s := s.modBay b (fun x => { x with
    state := .faulted, cart := if code = 6 then x.cart else x.cart.map (·.setFault code) })
  ((((s.bayEvent b 10).mediumFault (3 + b) code).failRetire b).elect).checkFlush

/-- A bay becomes FULL (R650). -/
def State.noteBayFull (s : State) (b : Nat) : State :=
  let x := s.bay b
  if x.state == .active && decide (fullSlot < x.nextSlot) then
    (((s.modBay b (fun x => { x with state := .full })).bayEvent b 4).elect).checkFlush
  else s

/-- An eject request (R641). -/
def State.eject (s : State) (b : Nat) : State :=
  let x := s.bay b
  if x.ejectAsked then s
  else match x.state with
    | .empty => s
    | .released => s
    | .mounting => s.modBay b (fun x => { x with ejectAsked := true })
    | .active =>
      let s := s.closeFolio
      let l := s.ledger
      let upTo := if l.flash = [] then (l.waiting.getLast?).map (·.number) else (l.waiting.head?).map (·.number)
      let s := (s.bayEvent b 5).modBay b (fun x => { x with state := .standby, ejectAsked := true, ejectUpTo := upTo })
      s.elect.checkFlush
    | _ => ((s.bayEvent b 5).modBay b (fun x => { x with ejectAsked := true, ejectUpTo := none })).checkFlush

/-- BAY_EJECT commands of a bay that has been released: the last ledger sequence on the cartridge (R275). -/
def State.ejected (s : State) (b : Nat) : State :=
  (s.outside (fun c => c == .bayEject b)).foldl (fun s w =>
    match (s.bay b).cart.bind (·.lastSeq) with
    | some n => s.finishWork adminTrain w.id 0 (leBytes 8 n)
    | none =>
      let (v, s) := s.fresh
      s.finishWork adminTrain w.id 0 (leBytes 8 v)) s

/-! The commands at issue. -/

/-- AUDIT_POLICY (R267): every train follows the policy that it has until its own next admission point. -/
def State.startPolicy (s : State) (w : Work) (policy : Nat) : State :=
  (s.modLedger (fun l => { l with
    policyNext := some (policy == 1), policyWas := s.activeTrains.map (fun t => (t, s.policyOf t)) })).finishWork w.train w.id 0 [byte (flag s.ledger.failOpen)]

/-- A failed administrative seal: the policy is that of the start of the Breath (R134). -/
def State.revertPolicy (s : State) : State :=
  match (s.train adminTrain).works.find? (fun w => w.cmd.opcode == 0xA0 && !w.live && w.status == 0) with
  | none => s
  | some w => s.modLedger (fun l => { l with failOpen := decide (w.detail.headD 0 ≠ 0), policyNext := none, policyWas := [] })

/-- The policy of train `t` from its admission point on (R267); the administrative train's is the one that the card reports. A
hold of the full ordinary area ends when FAIL_OPEN is in effect for every train that runs (R661; DEDUCED, assumption 111). -/
def State.applyPolicy (s : State) (t : Nat) : State :=
  let s := s.modLedger (fun l => { l with policyWas := l.policyWas.filter (·.1 != t) })
  let s := match s.ledger.policyNext with
    | some p => if t = adminTrain then s.modLedger (fun l => { l with failOpen := p, policyNext := none }) else s
    | none => s
  if s.ledger.hold = 0x1301 ∧ s.policyOf adminTrain ∧ s.ledger.policyWas.all (fun x => (s.train x.1).halt != .none) then s.setHold 0
  else s

/-- CART_RETIRE at execution (R269): its record is the last of the folio that it closes, also where the record fills that folio. A
record without a reservation is lost (R659), and what the open folio holds closes alone; its sequence is then a free value, and
with nothing to close, or with no MRAM, the retirement cannot be completed (DESIGN CHOICE, assumption 115). `aux` holds the number of
the closing folio, `detail` the ledger sequence. -/
def State.startRetire (s : State) (w : Work) (b : Nat) : State :=
  if ! [BayState.standby, .active, .full].contains (s.bay b).state then s.failIssue w (badParam 0x0606)
  else
    let s := (s.modLedger (fun l => { l with reserved := l.reserved - w.records })).tryGap
    let d := { (w.finish 0 (leBytes 8 s.ledger.nextSeq)).toDue with staged := true }
    let rs := s.entryRecords d s.clock.time s.adminBreath
    let keep := decide (w.records ≠ 0) && !s.ledger.mramFailed
    let room := keep && (decide (s.ledger.open_ ≠ []) || s.ledger.frameFree true)
    let (v, s) := if room then (s.ledger.nextSeq, s.appendOpen true rs)
      else if s.ledger.mramFailed then (s.ledger.nextSeq, (s.toGasp rs 0xFF s.adminBreath).2)
      else (s.loseEntry rs.length 0xFF s.adminBreath).fresh
    let s := s.modWork adminTrain w.id (fun w => { w with staged := true, detail := leBytes 8 v })
    if s.ledger.open_ = [] ∨ s.ledger.mramFailed then s.failIssue w (badParam 0x0606)
    else
      let n := s.ledger.nextFolio
      (s.closeFolio 2 (some b)).notePressure.modWork adminTrain w.id (fun w => { w with stage := .outside, aux := [n] })

/-- LEDGER_FLUSH at execution (R271): it waits for the records staged before its Breath began, and closes the open folio when that
holds one of them. -/
def State.startFlush (s : State) (w : Work) : State :=
  let target := s.ledger.startSeq
  let holds := decide (s.ledger.nextSeq - s.ledger.open_.length < target)
  ((if holds then s.closeFolio else s).modWork adminTrain w.id (fun w => { w with stage := .outside, aux := [target] })).checkFlush

/-- BAY_EJECT at execution (R275). -/
def State.startEject (s : State) (w : Work) (b : Nat) : State :=
  match (s.bay b).state with
  | .empty => s.failIssue w (badParam 0x0606)
  | .released => (s.modWork adminTrain w.id (fun w => { w with stage := .outside })).ejected b
  | _ => (s.modWork adminTrain w.id (fun w => { w with stage := .outside })).eject b

/-! The happenings of the bays and tiers. -/

/-- One second after its first record the open folio closes, if a tier can take it at once (R622). -/
def execFolioCloseTimeout (s : State) : Host.Outcome State Fault Refusal :=
  if s.commits && decide (s.ledger.open_ ≠ []) && decide (s.ledger.openTime + 1000000000 ≤ s.clock.time) && s.canTake then
    .next s.closeFolio
  else .next s

/-- The folio on the cartridge: header placed, released from its tier, the retirement it completes (R647, R648, R269). Where the
life page cannot be written after it, the bay faults instead (R646, R663). -/
def State.folioCommitted (s : State) (b : Nat) (f : Folio) (lifePage : Bool := true) : State :=
  let x := s.bay b
  let slot := x.nextSlot
  let close (c : CartridgePages) : CartridgePages :=
    { c with openSlot := slot, writtenMap := 2 ^ 128 - 1, headers := c.headers ++ [(slot, f.header (1 + b) c.id slot x.torn)] }
  let s := s.setBay b { x with cart := x.cart.map close, nextSlot := slot + 1, torn := [], tornRun := 0 }
  let s := s.modLedger (fun l => { l with
    mram := l.mram.filter (·.number != f.number), flash := l.flash.filter (·.number != f.number)
    committed := max l.committed f.lastSeq, anyCommitted := true })
  let s := if f.bay == some b && !lifePage then s.bayFault b 1
    else if f.bay == some b then
      let s := s.modBay b (fun x => { x with
        state := .retired
        cart := x.cart.map (fun c => { c with life := c.life + 2, retireTime := s.clock.time, lastSlot := slot }) })
      let s := s.bayEvent b 11
      let s := (s.outside (fun c => c == .cartRetire b)).foldl (fun s w =>
        if w.aux = [f.number] then s.finishWork adminTrain w.id 0 w.detail
        else s.failWork adminTrain w.id (badParam 0x0606)) s
      (s.freeClosing b).elect
    else s.noteBayFull b
  s.tryGap.notePressure.checkFlush

/-- The slot of an attempted commit is torn (R647, R652). -/
def State.folioTorn (s : State) (b : Nat) : State :=
  let x := s.bay b
  let torn := x.torn ++ [x.nextSlot]
  let s := s.setBay b { x with
    cart := x.cart.map (fun c => { c with openSlot := x.nextSlot, writtenMap := 2 ^ 128 - 1 })
    torn := torn, tornRun := x.tornRun + 1, nextSlot := x.nextSlot + 1 }
  let s := s.bayEvent b 9
  if x.tornRun = 2 then s.bayFault b 2
  else if 8 < torn.length then s.bayFault b 4
  else s.noteBayFull b

/-- A cartridge folio commit ends (R647): 0 committed, 1 read-back differs, 2 protocol error, 3 WP_VIOLATION, 4 a closing folio
committed whose life-page bit 1 cannot be set (R269; DESIGN CHOICE, assumption 121). -/
def execFolioCommitComplete (bay outcome : Nat) (s : State) : Host.Outcome State Fault Refusal :=
  match s.nextFor bay with
  | none => .next s
  | some f =>
    if !s.commits then .next s
    else if outcome = 0 then .next (s.folioCommitted bay f)
    else if outcome = 1 then .next (s.folioTorn bay)
    else if outcome = 4 ∧ f.bay = some bay then .next (s.folioCommitted bay f false)
    else .next (s.bayFault bay (if outcome = 3 then 3 else 1))

/-- A folio commit to holding flash (R656, R664). -/
def execHoldingFlashCommit (good : Bool) (s : State) : Host.Outcome State Fault Refusal :=
  match s.nextForFlash with
  | none => .next s
  | some f =>
    if !s.commits then .next s
    else if good then
      .next (s.modLedger (fun l => { l with
        mram := l.mram.filter (·.number != f.number), flash := l.flash ++ [f]
        flashNext := (l.flashNext + 1) % flashSlots })).tryGap.notePressure
    else .next ((s.modLedger (fun l => { l with flashFailed := true })).mediumFault 2 0x10)

/-- A cartridge is detected (R643). -/
def execCardDetect (bay : Nat) (cart : CartridgePages) (s : State) : Host.Outcome State Fault Refusal :=
  let x := s.bay bay
  if x.state != .empty || decide (2 ≤ bay) || !s.board.good then .next s
  else .next ((s.setBay bay { state := .mounting, cart := some cart }).bayEvent bay 1)

/-- The cartridge of a bay is bound at its first mount (R637). -/
def State.bind (s : State) (c : CartridgePages) : CartridgePages :=
  if bit c.life 0 then c else { c with life := c.life + 1, boundCard := fit 16 Config.serial, bindTime := s.clock.time }

/-- A cartridge that is an LC-8T of this card and in service: its slots examined (R638, R651). -/
def State.mountGood (s : State) (b : Nat) (c : CartridgePages) : State :=
  let warn := decide (1800 ≤ c.insertions) || decide (c.spare < 10)
  let s := if warn then
      (s.raiseD 0x0706 1 b 0 (leBytes 4 c.insertions ++ [byte c.spare])).bayEvent b 14
    else s
  let (torn, top) := if c.openSlot = 0xFFFFFFFF then ([], none) else c.examine 9 c.openSlot []
  let next := if c.openSlot = 0xFFFFFFFF then 0 else c.openSlot + 1
  let s := match top with
    | some h => s.modLedger (fun l => { l with
        mram := l.mram.filter (·.number != field h 8 8), flash := l.flash.filter (·.number != field h 8 8)
        committed := max l.committed (headerLast h), anyCommitted := true })
    | none => s
  let tears (s : State) : State := torn.foldl (fun s _ => s.bayEvent b 9) s
  if 8 < torn.length then (tears s).bayFault b 4
  else
    let full := decide (fullSlot < next)
    let s := s.modBay b (fun x => { x with state := if full then .full else .standby, nextSlot := next, torn := torn, tornRun := 0 })
    tears (s.bayEvent b (if full then 4 else 2))

/-- The outcome of a mount (R643). -/
def State.mountOutcome (s : State) (b : Nat) (c : CartridgePages) (protocolError : Bool) : State :=
  let put (s : State) (st : BayState) (code : Nat) : State := (s.modBay b (fun x => { x with state := st })).bayEvent b code
  if protocolError then s.bayFault b 1
  else if !c.genuine then s.bayFault b 6
  else if bit c.life 0 && c.boundCard != fit 16 Config.serial then put s .foreign 12
  else
    let c := s.bind c
    let s := s.modBay b (fun x => { x with cart := some c })
    if bit c.life 2 then put s .faulted 10
    else if bit c.life 1 then put s .retired 11
    else if 2000 < c.insertions ∨ c.spare = 0 then s.bayFault b 5
    else s.mountGood b c

/-- Mounting ends (R643). -/
def execMountComplete (bay : Nat) (ddr50 protocolError : Bool) (s : State) : Host.Outcome State Fault Refusal :=
  let x := s.bay bay
  match x.state, x.cart with
  | .mounting, some c =>
    if !(s.commits || (s.dev.state == .mounting && s.board.good && !s.board.holdUp)) then .next s
    else
      let asked := x.ejectAsked
      let s := (s.setBay bay { x with ddr50 := ddr50, ejectAsked := false }).mountOutcome bay c protocolError
      let s := if asked then s.eject bay else s
      .next s.elect.checkFlush
  | _, _ => .next s

/-- A cartridge is removed (R640, R653). -/
def execCardRemoved (bay : Nat) (s : State) : Host.Outcome State Fault Refusal :=
  let x := s.bay bay
  match x.cart with
  | none => .next s
  | some c =>
    let s := (s.setBay bay {}).bayEventOf bay (if x.state == .released then 7 else 8) c.id
    let s := s.failRetire bay
    let s := (s.outside (fun k => k == .bayEject bay)).foldl (fun s w => s.failWork adminTrain w.id (badParam 0x0606)) s
    .next s.elect.checkFlush

/-- An eject button press of 50 ms (R641, R808). -/
def execEjectButton (bay : Nat) (s : State) : Host.Outcome State Fault Refusal :=
  if s.commits || (s.dev.state == .mounting && (s.bay bay).state == .mounting) then .next (s.eject bay) else .next s

/-- The eject commits have finished: the bay is released (R641). -/
def execBayRelease (bay : Nat) (s : State) : Host.Outcome State Fault Refusal :=
  let x := s.bay bay
  if x.ejectAsked && x.state != .mounting && (s.nextFor bay).isNone && s.commits then
    .next (((s.setBay bay { x with
      state := .released, latchClosed := false, ejectAsked := false, ejectUpTo := none
      releasedAt := s.clock.timebase }).bayEvent bay 6).ejected bay).checkFlush
  else .next s

/-- A RELEASED cartridge still present after 60 s (R641). -/
def execReleaseTimeout (bay : Nat) (s : State) : Host.Outcome State Fault Refusal :=
  let x := s.bay bay
  if x.state == .released && x.cart.isSome && decide (x.releasedAt + 6000000000 ≤ s.clock.timebase) && s.commits then
    .next ((s.setBay bay { x with state := .mounting, latchClosed := true, torn := [], tornRun := 0 }).bayEvent bay 13)
  else .next s

end Sys2Proof.Machine
end

