-- ==== Sys2Proof/Machine/Security.lean ====
section
/-! DEFINITION. Physical presence, the seal loop and its latch, firmware images, the owner key, attestation quotes
(chapter 20, R277 to R285). -/

namespace Sys2Proof.Machine

/-! The presence window (R671 to R674). -/

def State.modPresence (s : State) (g : Presence → Presence) : State := { s with presence := g s.presence }

/-- The card has power and has not raised the power-fail warning (R676, R714). -/
def State.powered (s : State) : Bool := s.board.good && !s.board.holdUp

/-- The window closes for a cause of Table 22.3: 1 end, 2 OFF, 3 loop. -/
def State.closeWindow (s : State) (cause : Nat) : State :=
  match s.presence.window with
  | none => s
  | some _ => (s.modPresence (fun p => { p with window := none })).raiseD 0x0802 0 0xFF 0 [byte cause]

/-- The key position code (R680). -/
def keyCode : Key → Nat
  | .off => 0 | .on => 1 | .present => 2

/-- The key switch enters a position (R670, R673). -/
def execKeySwitch (position : Nat) (s : State) : Host.Outcome State Fault Refusal :=
  let k : Key := if position = 0 then .off else if position = 1 then .on else .present
  let s := s.modPresence (fun p => { p with key := k })
  .next (if k = .off ∧ s.powered then s.closeWindow 2 else s)

/-- PRESENT held for 0.5 s (R671, R672). -/
def execPresentHold (s : State) : Host.Outcome State Fault Refusal :=
  let p := s.presence
  if p.key == .present && p.loop && s.powered then
    .next ((s.modPresence (fun p => { p with window := some (s.clock.timebase + 100000000 * p.length) })).raiseD 0x0801 0 0xFF
      (flag p.window.isSome) (leBytes 2 p.length))
  else .next s

/-- The window reaches its end (R673). -/
def execPresenceWindowEnd (s : State) : Host.Outcome State Fault Refusal :=
  match s.presence.window with
  | some e => .next (if e ≤ s.clock.timebase ∧ s.powered then s.closeWindow 1 else s)
  | none => .next s

/-! The seal loop (R675 to R677, R281, R810). -/

/-- LOOP_BREAK (Table 22.3). -/
def State.loopBreak (s : State) : State :=
  s.raiseD 0x0803 3 0xFF (flag s.presence.unpowered) (leBytes 8 s.presence.latchTime)

/-- The latch set while the card has no power (R676). -/
def State.latchUnpowered (s : State) : State :=
  if s.presence.latch then s
  else s.modPresence (fun p => { p with latch := true, unpowered := true, latchTime := 0, breakOwed := true })

/-- SEAL_CLEAR commands that have passed step 11 and not executed note their first interruption (R281). -/
def State.noteInterruption (s : State) (raised : Bool) : State :=
  s.modTrain adminTrain (fun t => { t with works := t.works.map (fun w =>
    if w.cmd == .sealClear && w.stage == .waiting && w.aux == [] then { w with aux := [s.clock.time, flag raised] } else w) })

/-- An interruption of the seal loop; shorter than 1 µs it changes nothing. -/
def execSealLoopInterruption (microsecond staysOpen : Bool) (s : State) : Host.Outcome State Fault Refusal :=
  if !(microsecond || staysOpen) || !s.presence.loop then .next s
  else
    let s := s.modPresence (fun p => { p with loop := !staysOpen })
    if s.powered then
      let set := !s.presence.latch
      let s := s.noteInterruption set
      let s := if set then
          (s.modPresence (fun p => { p with latch := true, unpowered := false, latchTime := s.clock.time })).loopBreak
        else s
      .next (s.closeWindow 3)
    else .next s.latchUnpowered

/-- The loop is continuous again. -/
def execSealLoopRestored (s : State) : Host.Outcome State Fault Refusal :=
  .next (s.modPresence (fun p => { p with loop := true }))

/-- The monitor loses its last supply (R810). -/
def execBackupCellLow (s : State) : Host.Outcome State Fault Refusal :=
  .next (if s.board.aux then s else s.latchUnpowered)

/-- SEAL_CLEAR at execution (R281). -/
def State.startSealClear (s : State) (w : Work) : State :=
  match w.aux with
  | [] =>
    (s.modPresence (fun p => { p with latch := false, unpowered := false, latchTime := 0, breakOwed := false })).finishWork w.train
      w.id 0 [0]
  | t :: r =>
    let s := s.modPresence (fun p => { p with latch := true, unpowered := false, latchTime := t, breakOwed := false })
    let s := if r.headD 0 = 0 then s.loopBreak else s
    s.finishWork w.train w.id 0 [1]

/-! Firmware images (R684 to R689). -/

def imageSvn (img : List Byte) : Nat := field img 10 1
def imageFloor (img : List Byte) : Nat := field img 11 1
def imageRevokes (img : List Byte) : Nat := field img 12 1
def imageKey (img : List Byte) : Nat := field img 9 1
def imageRelease (img : List Byte) : Nat := field img 6 2

/-- Check 1 of Table 20.4. -/
def imageForm (img : List Byte) (length : Nat) : Bool :=
  decide (field img 16 8 = length ∧ img.length = length ∧ field img 4 2 = 1 ∧ field img 8 1 = 0xB0 ∧ 8192 ≤ length
    ∧ length ≤ 50331648 ∧ length % 4096 = 0 ∧ imageKey img ≤ 3 ∧ imageSvn img ≤ 63 ∧ imageFloor img ≤ imageSvn img
    ∧ imageRevokes img < 16)
  && img.take 4 == [0x4F, 0x46, 0x57, 0x31] && (firstNonZero img 13 3).isNone && (firstNonZero img 185 71).isNone
  && (firstNonZero img 448 3648).isNone && !bit (imageRevokes img) (imageKey img)

/-- Checks 1 to 7 of Table 20.4: the reason of the first failure. -/
def State.imageProblem (s : State) (img : List Byte) (length : Nat) : Option Nat :=
  let signed := img.take 256
  let key := slice img 88 97
  if !imageForm img length then some 0x1401
  else if sha256 key ≠ Config.vendorDigest (imageKey img) then some 0x1402
  else if bit s.dev.revoked (imageKey img) then some 0x1403
  else if !Config.verify key signed (slice img 256 96) then some 0x1402
  else if imageSvn img < s.dev.minSvn then some 0x1404
  else if s.dev.ownerKey ≠ [] ∧ !Config.verify s.dev.ownerKey signed (slice img 352 96) then some 0x1406
  else if sha256 (img.drop 4096) ≠ slice img 24 32 then some 0x1407
  else none

def State.modBank (s : State) (i : Nat) (g : Bank → Bank) : State :=
  s.modDev (fun d => { d with banks := modAt d.banks i g })

/-- FW_UPDATE at execution, its slot taken (R686, R687): the inactive bank is being written. -/
def State.startFirmware (s : State) (w : Work) (target : Nat) : State :=
  let img := w.input 0
  match s.imageProblem img img.length with
  | some reason => s.failIssue w (badParam reason)
  | none =>
    (s.modBank target (fun _ => {})).modWork w.train w.id (fun w => { w with
      stage := .outside, auxBytes := img, digests := [(4, 0, sha256 (img.take 256))] })

/-- The oldest work of the device whose effect continues, of one opcode. -/
def State.oldestOutside (s : State) (op : Nat) : Option Work :=
  (s.allWorks.filter (fun w => w.stage == .outside && w.cmd.opcode == op)).foldl (fun m w => match m with
    | none => some w
    | some x => if w.id < x.id then some w else some x) none

/-- The bank is written and read back, and the checks are repeated on what was read (R687). -/
def execFwImageWritten (readBackGood : Bool) (s : State) : Host.Outcome State Fault Refusal :=
  match s.oldestOutside 0xB0 with
  | none => .next s
  | some w =>
    match w.cmd with
    | .fwUpdate _ target activate =>
      if readBackGood ∧ (s.imageProblem w.auxBytes w.auxBytes.length).isNone then
        let s := s.modBank target (fun _ => { image := w.auxBytes })
        let s := if activate = 1 then s.modDev (fun d => { d with selector := target }) else s
        .next (s.finishWork w.train w.id 0 (leBytes 2 (imageRelease w.auxBytes) ++ [byte target]))
      else .next (s.failWork w.train w.id (badParam 0x1408))
    | _ => .next s

/-! The owner key (R690). -/

/-- OWNER_KEY_INSTALL at execution, its slot taken (R626). -/
def State.startOwnerKey (s : State) (w : Work) : State :=
  let k := w.input 0
  if k.length ≠ 97 ∨ !Config.onCurve k then s.failIssue w (badParam 0x0605 10)
  else s.modWork w.train w.id (fun w => { w with stage := .outside, auxBytes := k, digests := [(5, 0, sha256 k)] })

/-- The flash write of an installed key completes. -/
def execOwnerKeyStored (s : State) : Host.Outcome State Fault Refusal :=
  match s.oldestOutside 0xB1 with
  | none => .next s
  | some w =>
    .next ((s.modDev (fun d => { d with ownerKey := w.auxBytes })).finishWork w.train w.id 0 ((sha256 w.auxBytes).take 8))

/-! Attestation (R692). -/

/-- The quote of Table 20.5 with its certificate, read now. -/
def State.quote (s : State) (nonce : List Byte) : List Byte :=
  let p := s.presence
  let q := fit 320 ([0x4F, 0x41, 0x51, 0x31] ++ leBytes 2 1 ++ leBytes 2 Config.certificate.length ++ fit 32 nonce
    ++ leBytes 8 s.clock.time ++ leBytes 8 s.dev.bootCount ++ fit 16 Config.serial
    ++ [0xB0, byte s.dev.activeBank, byte (keyCode p.key)
      , byte (flag p.window.isSome + 2 * flag p.loop + 4 * flag p.latch + 8 * flag p.unpowered + 16 * flag s.clock.isSet)
      , byte s.dev.minSvn, byte s.dev.revoked, 0, 0]
    ++ s.firmwareDigest ++ (s.bank (1 - s.dev.activeBank)).digest ++ s.microcode ++ s.ownerDigest
    ++ leBytes 8 (s.ledger.nextSeq - 1) ++ s.ledger.lastChain)
  q ++ fit 96 (Config.sign q) ++ Config.certificate

/-- The quote is signed: ATTEST's effect ends; its bytes are those of the releasing seal. -/
def execAttestQuoteSigned (s : State) : Host.Outcome State Fault Refusal :=
  match s.oldestOutside 0xB4 with
  | none => .next s
  | some w => .next (s.finishWork w.train w.id 0 [])

/-- The bytes that an ATTEST writes at the seal that releases its reply. -/
def State.commitQuote (s : State) (w : Work) (nonce : List Byte) : State :=
  let q := s.quote nonce
  (s.putOutput w 0 0 q).modWork w.train w.id (fun w => { w with detail := leBytes 4 q.length, digests := [(6, 0, sha256 q)] })

/-- What a successful command commits when its seal passes, attestation included. -/
def State.commit (s : State) (w : Work) : State :=
  match w.cmd with
  | .attest nonce _ => s.commitQuote w nonce
  | .progRegister .. => (s.commitWork w).modWork w.train w.id (fun x => { x with digests := [(0, 0, sha256 w.descriptors.flatten)] })
  | .devQuery =>
    let p := s.dev
    let d := leBytes 2 (imageRelease (s.bank p.activeBank).image) ++ [0xB0, byte (stateCode p.state)] ++ leBytes 8 s.clock.time
      ++ [byte (flag s.clock.isSet), byte p.linkGen, byte p.linkWidth, 0]
    s.modWork w.train w.id (fun w => { w with detail := d })
  | _ => s.commitWork w

/-! The registers that the Chanter keeps (R754, R761, R769, R771). -/

/-- Word `i` of a byte string. -/
def wordOf (bs : List Byte) (i : Nat) : Nat := field bs (8 * i) 8

/-- The state of an image bank: 0 empty, 1 valid, 2 skipped (R761). -/
def Bank.code (b : Bank) : Nat := if b.image = [] then 0 else if b.skipped then 2 else 1

/-- BANK_STATUS (R761). -/
def State.bankStatus (s : State) : Nat :=
  let d := s.dev
  d.activeBank + 2 * d.selector + 2 ^ 2 * (s.bank 0).code + 2 ^ 4 * (s.bank 1).code + 2 ^ 8 * min (s.bank 0).attempts 255
    + 2 ^ 16 * min (s.bank 1).attempts 255 + 2 ^ 24 * d.minSvn + 2 ^ 32 * d.revoked + 2 ^ 48 * imageRelease (s.bank (1 - d.activeBank)).image

/-- LEDGER_STATUS (R769). -/
def State.ledgerStatus (s : State) : Nat :=
  let l := s.ledger
  flag l.failOpen + 2 * flag (decide (l.hold ≠ 0)) + 2 ^ 2 * (if l.hold = 0x1301 then 1 else if l.hold = 0x1302 then 2 else 0)
    + 2 ^ 4 * l.flashCode + 2 ^ 6 * flag l.mramFailed + 2 ^ 7 * s.board.alarm + 2 ^ 9 * flag s.activeBay.isSome
    + 2 ^ 10 * s.activeBay.getD 0 + 2 ^ 16 * (ordinaryFrames - l.framesUsed) + 2 ^ 32 * min l.gap.entries 0xFFFFFFFF

/-- BAY_STATUS (R771). -/
def Bay.status (b : Bay) : Nat :=
  bayCode b.state + 2 ^ 4 * flag b.ddr50 + 2 ^ 5 * flag b.latchClosed + 2 ^ 6 * flag b.cart.isSome + 2 ^ 8 * b.torn.length
    + 2 ^ 32 * (if b.cart.isSome then cartSlots - b.nextSlot else 0)

/-- A bay's five register words: status, open slot, ID in two words, wear (Table 23.6). -/
def Bay.words (b : Bay) : List Nat :=
  let id := (b.cart.map (fun c => fit 16 c.id)).getD []
  [b.status, if b.state = .empty then 0xFFFFFFFF else b.nextSlot, wordOf id 0, wordOf id 1
  , (b.cart.map (fun c => c.insertions + 2 ^ 32 * c.spare)).getD 0]

/-- The registers that the Chanter keeps, as they stand. CONFIG_DIGEST, the other one, changes at admission points alone. -/
def State.chanterWords (s : State) : KeptWords :=
  { bank := s.bankStatus, ledger := s.ledgerStatus, bays := s.bays.map Bay.words }

/-- The same as they read: their last values while the Chanter restarts (R754). -/
def State.keptNow (s : State) : KeptWords := s.dev.kept.getD s.chanterWords

end Sys2Proof.Machine
end

