-- ==== Sys2Proof/Machine/Checkpoint.lean ====
section
/-! DEFINITION. What a regroup and a partition reset clear, checkpoint images, their drain, stops and RESTORE (chapter 17,
Tables 3.5 and 21.5). -/

namespace Sys2Proof.Machine

/-! Clearing (R94, R97, R100, R113). -/

/-- A ring as after a partition reset (R113). -/
def Ring.reinit (r : Ring) : Ring := { r with head := 0, tail := 0, expect := 0, early := 0 }
/-- A reply queue as after a partition reset (R113, R719). -/
def ReplyQueue.reinit (q : ReplyQueue) : ReplyQueue :=
  { q with head := 0, tail := 0, phase := true, held := [], fullRaised := false }
/-- A function's rings, violation record and regions after a partition reset (R113, R172). -/
def Function.reinit (f : Function) : Function :=
  { f with
    urgent := f.urgent.reinit, bulk := f.bulk.reinit, reply := f.reply.reinit, violationTimes := [], frozen := false, freezeBreath := 0, regions := [] }
/-- On-chip memory of a core cleared (Table 3.5). -/
def Core.clearAll (c : Core) : Core := { c.emptyStop with clm := {}, lines := [] }
/-- On-chip memory of a core cleared but its Stop bank (Table 21.5). -/
def Core.clearClm (c : Core) : Core := { c with clm := {}, lines := [] }

/-- Work, admitted sets and provisional effects of a train dropped; counters and settings kept. -/
def Train.dropWork (t : Train) : Train :=
  { t.adopt with
    works := [], admitted := [], sets := [], forming := [], due := [], returns := [], resultEvents := [], causes := 0, core := 0xFFFF
    unit := 0xFF, failures := 0, rerun := false, closing := false, closeNext := false, closeStatus := 0x50, closeDetail := [], saved := {}
    journal := [], checkpoint := none, repairs := [], repaired := [], n5Next := none, floorNext := none, stepNext := none
    quiet := false, draining := false }

/-- Objects of a group with only the handle counters left (R182). -/
def Objects.emptied (o : Objects) : Objects := { handles := o.handles }

/-- The regions that the PF registered for a group, once its sequences and memory spills have ended: the PF is no affected function
and keeps them, with no slot claimed and no flag written (R172; DEDUCED, assumption 104). -/
def State.dropClaims (s : State) (t : Nat) : State :=
  s.modFn 0 (fun f => { f with regions := f.regions.map (fun r => if r.train == t then { r with claims := [] } else r) })

/-- The cores of a group cleared. -/
def State.clearCores (s : State) (t : Nat) : State :=
  (s.members t).foldl (fun s p => s.modPart p (fun x => { x with cores := x.cores.map (·.clearAll) })) s

/-- The state of a group cleared as by a regroup, the Bulk floor excepted (Table 3.5). -/
def State.clearGroup (s : State) (t : Nat) : State :=
  let s := (s.members t).foldl (fun s p => s.modFn (p + 1) (·.reinit)) ((s.dropClaims t).clearCores t)
  s.modTrain t (fun x => { x.dropWork with objects := x.objects.emptied })

/-! Images (Tables 17.2 to 17.4). -/

def pad (m : Nat) (bs : List Byte) : List Byte := fit (roundUp bs.length m) bs

/-- The marked pages of a group by group-local address, ascending (R586, R590). -/
def State.markedPages (s : State) (t : Nat) : List Nat :=
  let n := s.groupSize t
  (List.range (partBytes / pageBytes)).flatMap (fun l => (List.range n).filterMap (fun i =>
    if (s.part (t + i)).unmarked.contains l || s.pageRetired (t + i) l then none else some ((l * n + i) * pageBytes)))

def modelRecord (m : Model) : List Byte :=
  fit 64 ([1, 0, 0, 0] ++ leBytes 4 m.handle ++ fit 32 m.digest ++ leBytes 8 m.addr ++ leBytes 8 m.length ++ [byte m.format])
def residencyRecord (r : Residency) : List Byte :=
  fit 64 ([2, 0, 0, 0] ++ leBytes 4 r.handle ++ leBytes 4 r.model ++ leBytes 2 r.firstCore ++ leBytes 2 r.cores)
def programRecord (p : Program) : List Byte :=
  fit 64 ([3, 0, 0, 0] ++ leBytes 4 p.handle ++ leBytes 8 p.addr ++ leBytes 2 p.count)
def poolRecord (p : Pool) : List Byte :=
  fit 64 ([4, 0, 0, 0] ++ leBytes 4 p.handle ++ leBytes 8 p.base ++ leBytes 4 p.pages ++ [byte p.pageSize])
def shapeRecord (first : Nat) (vs : List Nat) : List Byte :=
  fit 64 ([5, 0, 0, 0, byte first, 0, 0, 0] ++ vs.flatMap (leBytes 4))
/-- A job record with the bound dimensions of its descriptors. -/
def jobRecord (i : Nat) (w : Work) : List Byte :=
  let (seed, steps) := match w.cmd with
    | .jobSubmit _ seed steps _ _ => (seed, steps)
    | _ => (0, 0)
  fit 64 ([6, 0, 0, 0] ++ leBytes 4 i ++ leBytes 8 seed ++ leBytes 2 steps ++ leBytes 2 w.stepsSealed ++ leBytes 4 w.program
    ++ leBytes 2 w.seq ++ [byte (flag w.bulk), 1] ++ leBytes 4 w.tag ++ w.ident ++ leBytes 2 w.shapes.length)
  ++ pad 64 (w.shapes.flatMap (fun x => leBytes 4 x.m ++ leBytes 4 x.n ++ leBytes 4 x.k ++ leBytes 4 x.g))
def openRecord (w : Work) : List Byte :=
  fit 64 ([7, 0, 0, 0] ++ leBytes 4 w.tag ++ [byte w.cmd.opcode, byte (flag w.bulk)] ++ leBytes 2 w.seq ++ leBytes 2 w.stepsSealed)

/-- A job in progress that names no Bellows slot (Table 17.1). -/
def Work.resumable (w : Work) : Bool := w.cmd.opcode == 0x61 && namedSlots w.refs == []

/-- The object section's records of a group's committed state. -/
def Train.objectRecords (x : Train) : List (List Byte) :=
  let o := x.objects
  let live := x.works.filter (·.live)
  let jobs := live.filter (·.resumable)
  o.models.map modelRecord ++ o.residencies.map residencyRecord ++ o.programs.map programRecord ++ o.pools.map poolRecord
    ++ [shapeRecord 0 (o.shapes.take 14), shapeRecord 14 (o.shapes.drop 14)]
    ++ jobs.mapIdx jobRecord ++ (live.filter (fun w => !w.resumable)).map openRecord

/-- The carried section's records (R598). -/
def Train.carriedRecords (x : Train) (leader : Nat) : List (List Byte) :=
  ((x.works.filter (fun w => w.live && w.resumable)).mapIdx (fun i w => w.carried.map (fun c =>
    fit 64 (leBytes 4 i ++ leBytes 2 (c.core - 16 * leader) ++ zeros 2 ++ leBytes 4 c.off ++ leBytes 4 c.len)
      ++ pad 64 (c.committed.read c.off c.len)))).flatten

/-- The image header (Table 17.2). -/
def State.imageHeader (s : State) (t kind flags imageBreath : Nat) (c : Checkpoint) (body : List Byte) : List Byte :=
  let h := fit 4000 (leBytes 2 1 ++ [byte kind, byte flags] ++ leBytes 4 4096 ++ leBytes 8 (4096 + body.length)
    ++ leBytes 6 imageBreath ++ leBytes 2 (s.train t).n5
    ++ [byte (s.groupSize t), byte (if flags = 1 then s.consort.card else t), byte (if s.consort.member then s.consort.members else 1), 0]
    ++ leBytes 4 c.pages.length ++ leBytes 4 c.objectCount ++ leBytes 4 c.carriedCount ++ leBytes 4 c.objects.length
    ++ leBytes 4 c.carriedPart.length ++ leBytes 8 c.freezeTime ++ leBytes 2 1 ++ leBytes 2 1 ++ zeros 4
    ++ s.ownDigest s.consort.topology s.consort.members ++ s.firmwareDigest ++ sha256 body
    ++ leBytes 8 (c.pages.getLast?.getD (2 ^ 64 - 1)))
  h ++ fit 96 (Config.sign h)

/-- A page record (Table 17.4) of a frozen page. -/
def pageRecord (t n : Nat) (frozen : List Memory) (a : Nat) : List Byte :=
  let (p, l) := mapHbm t n a
  let bs := (frozen.getD (p - t) {}).read l pageBytes
  leBytes 8 a ++ leBytes 4 (crc32c bs) ++ zeros 52 ++ bs

/-- The freeze of a group: pages and sections of its committed state (R590). -/
def State.freeze (s : State) (t : Nat) (c : Checkpoint) : Checkpoint :=
  let x := s.train t
  let os := x.objectRecords
  let cs := x.carriedRecords t
  { c with
    active := true, pages := s.markedPages t, frozen := s.groupHbm t, objects := pad 4096 os.flatten
    carriedPart := pad 4096 cs.flatten, objectCount := os.length, carriedCount := cs.length, freezeTime := s.clock.time }

/-- Bytes of the whole image. -/
def Checkpoint.length (c : Checkpoint) : Nat := 4096 + c.objects.length + c.carriedPart.length + 65600 * c.pages.length

/-- The references of the slots of an image from `first` on, numbered from `k`. -/
def State.imageRefs (s : State) (w : Work) (g : Region) (first k n : Nat) : List (Nat × SlotRef) :=
  (List.range n).map (fun i => (k + i, {
    region := g.handle, slot := first + i, gen := field (s.hostRead w.fn (g.headerAt (first + i)) 8) 1 1, dir := 1 }))

/-- The slots of an image from `first` on, taken as output slots (R158, R590): those taken before the first failure, which the
command returns as ERROR (Table 5.4), and that failure. -/
def State.imageSlots (s : State) (w : Work) (region first k length : Nat) : State × List HeldSlot × Option Refuse :=
  match (s.fn w.fn).region? region with
  | none => (s, [], some (bellowsBad 0x0501 region first))
  | some g =>
    let n := ceilDiv length g.slotSize
    if g.count < first + n then (s, [], some (noResource 0x0013))
    else
      let refs := s.imageRefs w g first k n
      let e := s.holdSlots w refs []
      (s.noteHeaders w (refs.take (e.1.length + 1)), e.1, e.2)

/-- Slot `k` of an image written and returned SEALED with the status that the reply will have (R162, R594). -/
def State.returnImageSlot (s : State) (w : Work) (breath k : Nat) (image : List Byte) : State :=
  match w.held.find? (·.ordinal == k) with
  | none => s
  | some h =>
    match (s.fn w.fn).region? h.ref.region with
    | none => s
    | some g =>
      let bs := (image.drop (k * g.slotSize)).take g.slotSize
      let s := s.slotWrite w.fn g (g.payloadAt h.ref.slot) bs true
      (s.returnSlot w.fn w.tag w.part w.finalStatus breath { h with bytes := bs }).modWork w.train w.id (fun w => { w with
        held := w.held.filter (·.ordinal != k) })

/-- The ordinals of several slots returned, in order. -/
def State.returnImage (s : State) (w : Work) (breath : Nat) (image : List Byte) (ks : List Nat) : State :=
  ks.foldl (fun s k => s.returnImageSlot w breath k image) s

/-- Reply, extra fields and digest of a finished checkpoint (R257, Table 18.3). -/
def Work.checkpointed (w : Work) (length freeze : Nat) (digests : List (Nat × Nat × List Byte)) : Work :=
  { w.finish 0 (leBytes 8 length ++ leBytes 6 freeze) with
    extra := leBytes 6 (freeze - 1) ++ zeros 2 ++ leBytes 8 length, digests := digests }

/-! SNAPSHOT_SHADOW (R589 to R594). -/

/-- SNAPSHOT_SHADOW at issue (R589). -/
def State.startShadow (s : State) (w : Work) (freeze rate : Nat) : State :=
  let b := s.breathOf w.train
  if freeze ≠ 0 ∧ (freeze ≤ b ∨ b + 2 ^ 20 < freeze) then s.failIssue w (badParam 0x1108)
  else
    (s.modTrain w.train (fun x => { x with checkpoint := some {
      work := w.id, freeze := if freeze = 0 then b + 1 else freeze, rate := rate } })).modWork w.train w.id
        (fun w => { w with stage := .outside })

/-- Page records drained in one Breath: Qp of R591. -/
def State.drainQuota (s : State) (t : Nat) (c : Checkpoint) : Nat :=
  let x := s.train t
  let p := 5000 * x.n5
  let share := linkRate s.dev.linkGen * s.dev.linkWidth * s.groupSize t
  let rate := (if c.rate = 0 then 20 else c.rate) * p / (10 * 65536)
  max 1 (min (min rate (share * p / (8192 * 65536))) (share * (p - 2500) / (2 * 8192 * 65536)))

def Checkpoint.left (c : Checkpoint) : List Nat := c.pages.filter (fun a => !c.drained.contains a && !c.now.contains a)

/-- Ranges that a command may write (R592). -/
def State.mayWrite (s : State) (w : Work) : List Range :=
  let hist (h n : Nat) : List Range := match s.liveSequence w h with
    | .error _ => []
    | .ok (p, j, _) => match State.appendMany w.train p j n s 0 with
      | .error _ => []
      | .ok a =>
        let q := a.s.seqRead w.train p j
        ((List.range n).filterMap (fun i => a.s.pageOf w.train p q (q.last - 1 - i))).filterMap (fun i =>
          if i < p.pages then some ⟨p.pageAt i, p.pageLen⟩ else none)
  (w.writes.filter (fun r => !isSpill r.start)) ++ (match w.cmd with
    | .score _ h .. => hist h 1
    | .histPrefill _ h _ => hist h 1
    | .vidDecode h _ _ => ((s.train w.train).objects.sessions.filter (·.handle == h)).flatMap Session.ranges
    | _ => [])

/-- Undrained frozen pages that a command may write. -/
def State.aheadPages (s : State) (w : Work) (c : Checkpoint) : List Nat :=
  let rs := s.mayWrite w
  c.left.filter (fun a => rs.any (·.meets ⟨a, pageBytes⟩))

/-- The drain of a Breath at its start: the quota, then the pages ahead of the admitted commands (R591, R592). -/
def State.drainNow (s : State) (t : Nat) : State :=
  match (s.train t).checkpoint with
  | none => s
  | some c =>
    if !c.active then s
    else
      let c := { c with
        now := c.left.take (s.drainQuota t c)
        freezeTime := if c.freeze = s.breathOf t then s.clock.time else c.freezeTime }
      let works := (s.train t).admitted.filterMap (fun p => if p.carried then none else s.work? t p.work)
      let c := works.foldl (fun c w => { c with now := c.now ++ s.aheadPages w c }) c
      s.modTrain t (fun x => { x with checkpoint := some c })

/-- The charge of the drain in the next Breath, and its energy (R591). -/
def State.drainCharge (s : State) (t : Nat) : Estimate :=
  match (s.train t).checkpoint with
  | none => ⟨0, 0⟩
  | some c =>
    let next := s.breathOf t + 1
    if c.active || decide (c.freeze ≤ next) then
      let c' := if c.active then { c with drained := c.drained ++ c.now, now := [] } else s.freeze t c
      let q := min (s.drainQuota t c') c'.left.length
      let bytes := 65600 * q + (if c.active then 0 else c'.objects.length + c'.carriedPart.length)
        + (if c'.left.length ≤ q then 4096 else 0)
      ⟨s.outputCharge t bytes, 65536 * q * byteEnergy⟩
    else ⟨0, 0⟩

/-- The drain-ahead charge of a command in cycles (R592). -/
def State.aheadCharge (s : State) (w : Work) : Nat :=
  match (s.train w.train).checkpoint with
  | none => 0
  | some c => if c.active then (s.aheadPages w { c with drained := c.drained ++ c.now, now := [] }).length * s.outputCharge w.train 65600 else 0

/-- The freeze at the passing seal of the Breath before it (R590). -/
def State.freezeAt (s : State) (t breath : Nat) : State :=
  match (s.train t).checkpoint with
  | none => s
  | some c =>
    if c.active || decide (breath + 1 < c.freeze) then s
    else match s.work? t c.work with
      | none => s
      | some w =>
        let c := { s.freeze t c with freeze := breath + 1 }
        let (region, first) := match w.cmd with
          | .snapshotShadow _ r k _ => (r, k)
          | _ => (0, 0)
        let (s, hs, e) := s.imageSlots w region first 0 c.length
        let s := s.modWork t w.id (fun w => { w with held := hs })
        match e with
        | none => s.modTrain t (fun x => { x with checkpoint := some c })
        | some e => (s.modTrain t (fun x => { x with checkpoint := none })).failIssue w e

/-- What a passing seal does with the drain of its Breath (R594). -/
def State.sealDrain (s : State) (t breath : Nat) : State :=
  match (s.train t).checkpoint with
  | none => s
  | some c =>
    if !c.active || decide (breath < c.freeze) then s
    else match s.work? t c.work with
      | none => s
      | some w =>
        let sections := if c.freeze = breath then c.objects ++ c.carriedPart else []
        let c := { c with
          drained := c.drained ++ c.now, now := []
          stream := c.stream ++ sections ++ c.now.flatMap (pageRecord t (s.groupSize t) c.frozen) }
        let slotSize := ((w.held.head?.bind (fun h => (s.fn w.fn).region? h.ref.region)).map (·.slotSize)).getD 4096
        let n := ceilDiv c.length slotSize
        if c.drained.length < c.pages.length then
          let whole := (4096 + c.stream.length) / slotSize
          let s := s.returnImage w breath (zeros 4096 ++ c.stream)
            ((List.range n).filter (fun k => decide (1 ≤ k ∧ c.slotsReturned < k ∧ k < whole)))
          s.modTrain t (fun x => { x with checkpoint := some { c with slotsReturned := max c.slotsReturned (whole - 1) } })
        else
          let image := s.imageHeader t 0 0 (c.freeze - 1) c c.stream ++ c.stream
          let s := s.returnImage w breath image ((List.range n).filter (fun k => decide (c.slotsReturned < k)) ++ [0])
          (s.modTrain t (fun x => { x with checkpoint := none })).modWork t w.id (fun w =>
            w.checkpointed image.length c.freeze [(3, 0, sha256 c.stream)])

/-! SNAPSHOT_STOP (R595, R596). -/

/-- SNAPSHOT_STOP at issue: `aux` will hold the end of the stop Breath. -/
def State.startStop (s : State) (w : Work) (stop : Nat) : State :=
  let b := s.breathOf adminTrain
  if stop < b ∨ b + 2 ^ 20 < stop then s.failIssue w (badParam 0x1108)
  else match s.consort.stops.find? (fun x => decide (x.2 ≠ stop)) with
    | some _ =>
      if s.consort.member then s.failIssue w { status := 0x60, reason := 0x1010, tail := leBytes 6 stop }
      else (s.modDev (fun d => { d with stopWork := some w.id })).modWork adminTrain w.id (fun w => { w with stage := .outside })
    | none =>
      (s.modDev (fun d => { d with stopWork := some w.id })).modWork adminTrain w.id (fun w => { w with stage := .outside })

/-- Whether the Breath of train `t` that ends at `e` contains the end of the stop Breath (R595). -/
def State.stopsHere (s : State) (t : Nat) : Bool :=
  match s.dev.stopWork.bind (s.work? adminTrain) with
  | some w => match w.aux with
    | e :: _ => decide (t < 16 ∧ e ≤ (s.train t).start + periodUnits (s.train t).n5)
    | [] => false
  | none => false

/-- The images of a stop, one for each group in order of leader, with the slots they start at. -/
def State.stopImages (s : State) (freezeOf : Nat → Nat) : List (Nat × List Byte) :=
  if s.consort.member && s.consort.card != 0 then
    let c := s.freeze (s.leaders.headD 0) { work := 0, freeze := 0 }
    let stub : Checkpoint := { work := 0, freeze := 0, pages := c.pages, freezeTime := s.clock.time }
    [(0, s.imageHeader (s.leaders.headD 0) 1 1 (freezeOf 0 - 1) stub [])]
  else s.leaders.map (fun t =>
    let c := s.freeze t { work := 0, freeze := 0 }
    let body := c.objects ++ c.carriedPart ++ c.pages.flatMap (pageRecord t (s.groupSize t) c.frozen)
    (t, s.imageHeader t 1 0 (s.train t).breath c body ++ body))

/-- The parts of an image in held slots of size `size`. -/
def fillSlots (size : Nat) (image : List Byte) (hs : List HeldSlot) : List HeldSlot :=
  hs.mapIdx (fun i h => { h with bytes := (image.drop (i * size)).take size })
/-- The payloads of held output slots written to the host. -/
def State.writePayloads (s : State) (fn : Nat) (g : Region) (hs : List HeldSlot) : State :=
  hs.foldl (fun s h => s.slotWrite fn g (g.payloadAt h.ref.slot) h.bytes true) s

/-- The images placed in consecutive slots: those held, each image's first slot last (R594), and the failure that ends the
command. They return at the seal that releases the reply (R160, R596). -/
def State.placeImages (w : Work) (region : Nat) : Nat → List (Nat × List Byte) → State → List HeldSlot →
    State × List HeldSlot × Option Refuse
  | _, [], s, acc => (s, acc, none)
  | first, (_, image) :: rest, s, acc =>
    match s.imageSlots w region first acc.length image.length with
    | (s, hs, some e) => (s, acc ++ hs, some e)
    | (s, hs, none) => match (s.fn w.fn).region? region with
      | none => (s, acc ++ hs, none)
      | some g =>
        let hs := fillSlots g.slotSize image hs
        State.placeImages w region (first + hs.length) rest (s.writePayloads w.fn g hs) (acc ++ hs.drop 1 ++ hs.take 1)

/-- The trains of a stop restart with their counters continued (R596). -/
def State.restartStopped (s : State) : State :=
  (s.leaders.foldl (fun s t => s.modTrain t (fun x => if x.halt = .snapshot then { x with halt := .none } else x)) s).modDev
    (fun d => { d with stopWork := none })
/-- A SNAPSHOT_STOP that ends with an error. -/
def State.failStop (s : State) (w : Work) (r : Refuse) : State := (s.failIssue w r).restartStopped

/-- Every train of the stop has stopped (R595). -/
def State.allStopped (s : State) : Bool :=
  s.leaders.all (fun t => [Halt.snapshot, .faulted, .reset, .formation].contains (s.train t).halt)

/-- The unpaced drain of a stop completes (R596): every stopped train restarts, the reply follows the next administrative
seal. -/
def execStopDrainComplete (s : State) : Host.Outcome State Fault Refusal :=
  match s.dev.stopWork.bind (s.work? adminTrain) with
  | none => .next s
  | some w =>
    match w.cmd with
    | .snapshotStop stop region first =>
      if !s.allStopped then .next s
      else
        let images := s.stopImages (fun _ => stop + 1)
        let (s, hs, e) := State.placeImages w region first images s []
        let s := s.modWork adminTrain w.id (fun w => { w with held := hs })
        match e with
        | some e => .next (s.failStop w e)
        | none =>
          .next (s.modWork adminTrain w.id (fun w =>
            w.checkpointed (images.foldl (fun n x => n + x.2.length) 0) (stop + 1)
              (images.mapIdx (fun i x => (3, i, sha256 (x.2.drop 4096)))))).restartStopped
    | _ => .next s

/-! RESTORE (R599 to R602). -/

/-- The stream of consecutive input slots until the image length is reached: what is held, and the first failure. -/
def State.imageInput (s : State) (w : Work) (region : Nat) : Nat → Nat → Nat → List HeldSlot → List HeldSlot × Option Refuse
  | 0, _, _, acc => (acc, some (badParam 0x1106))
  | n + 1, slot, need, acc =>
    match (s.fn w.fn).region? region with
    | none => (acc, some (bellowsBad 0x0501 region slot))
    | some g =>
      if g.count ≤ slot then (acc, some (badParam 0x1106))
      else
        let gen := field (s.hostRead w.fn (g.headerAt slot) 8) 1 1
        match s.holdSlot w acc.length { region := region, slot := slot, gen := gen, dir := 0 } with
        | .error e => (acc, some e)
        | .ok h =>
          let need := if acc = [] then field h.bytes 8 8 else need
          let acc := acc ++ [h]
          if need ≤ acc.foldl (fun k x => k + x.length) 0 then (acc, none)
          else s.imageInput w region n (slot + 1) need acc

/-- The valid bytes of held input slots, in order (R599). -/
def streamOf (hs : List HeldSlot) : List Byte := hs.flatMap (fun h => h.bytes.take h.length)
def Work.stream (w : Work) : List Byte := streamOf w.held

/-- A header field invalid at an offset (reason 0x1101). -/
def headerBad (o : Nat) : Refuse := { badParam 0x1101 with tail := leBytes 4 o }

/-- Step 1 of R600: the header against Table 17.2 and the target group, with the reasons of Table 17.5 (R261; DEDUCED, assumption
122); `beyond` is a byte that is not zero from 168 on, where there is one. -/
def State.headerProblemGiven (s : State) (t : Nat) (h : List Byte) (beyond : Option Nat) : Option Refuse :=
  let pages := field h 28 4
  let high := field h 160 8
  let bads : List (Bool × Nat) :=
    [(decide (field h 0 2 ≠ 1), 0), (decide (1 < field h 2 1), 2), (decide (field h 3 1 ≠ 0), 3), (decide (field h 4 4 ≠ 4096), 4)
    , (decide (field h 8 8 ≠ 4096 + field h 40 4 + field h 44 4 + 65600 * pages), 8)
    , (decide (field h 22 2 < 5 ∨ 50000 < field h 22 2), 22), (! [1, 2, 4, 8, 16].contains (field h 24 1), 24)
    , (decide (15 < field h 25 1), 25), (decide (field h 26 1 < 1 ∨ 16 < field h 26 1), 26), (decide (field h 27 1 ≠ 0), 27)
    , (decide (field h 40 4 % 4096 ≠ 0), 40), (decide (field h 44 4 % 4096 ≠ 0), 44), (decide (field h 60 4 ≠ 0), 60)
    , (decide ((pages = 0 ∧ high ≠ 2 ^ 64 - 1) ∨ (pages ≠ 0 ∧ high % pageBytes ≠ 0)), 160)
    , (beyond.isSome, 168)]
  match bads.find? (·.1) with
  | some (_, o) => some (headerBad o)
  | none =>
    if field h 56 2 ≠ 1 ∨ field h 58 2 ≠ 1 then some (badParam 0x1103)
    else if pages ≠ 0 ∧ !s.inGroup t high pageBytes then some (badParam 0x1104)
    else none

def State.headerProblem (s : State) (t : Nat) (h : List Byte) : Option Refuse :=
  s.headerProblemGiven t h (firstNonZero h 168 3832)

/-- RESTORE at issue: its slots taken. Slots that end before the image length (0x1106) are found after step 1 (R600). -/
def State.startRestore (s : State) (w : Work) (region first : Nat) : State :=
  let (hs, e) := s.imageInput w region 65536 first 0 []
  let s := s.modWork w.train w.id (fun w => { w with held := hs, stage := .outside })
  match e with
  | none => s
  | some r => s.failIssue w (if r.reason = 0x1106 ∧ hs ≠ [] then (s.headerProblem w.train (streamOf hs)).getD r else r)

/-- Records of an object section, from `bs` on; `n` counts them. -/
def objectsOf : Nat → List Byte → List (List Byte)
  | 0, _ => []
  | n + 1, bs =>
    let len := if field bs 0 1 = 6 then 64 + roundUp (16 * field bs 40 2) 64 else 64
    bs.take len :: objectsOf n (bs.drop len)

/-- Records of a carried section. -/
def carriedSplit : Nat → List Byte → List (List Byte)
  | 0, _ => []
  | n + 1, bs =>
    let len := 64 + roundUp (field bs 12 4) 64
    bs.take len :: carriedSplit n (bs.drop len)

/-- The page records of an image: address, check and data. -/
def imagePages (im : List Byte) : List (Nat × Nat × List Byte) :=
  let o := 4096 + field im 40 4 + field im 44 4
  (List.range (field im 28 4)).map (fun i =>
    let r := slice im (o + 65600 * i) 65600
    (field r 0 8, field r 8 4, r.drop 64))

/-- The failure of one page record at step 2 (R600). -/
def State.pageBad (s : State) (t : Nat) (im : List Byte) (a check : Nat) (bs : List Byte) : Option Refuse :=
  if a % pageBytes ≠ 0 ∨ field im 160 8 < a then some (headerBad 160)
  else if !s.inGroup t a pageBytes then some (badParam 0x1104)
  else if s.rangeRetired t a pageBytes then some (badParam 0x1105)
  else if crc32c bs ≠ check then some (badParam 0x1102) else none

/-- Page records written before the first one that fails, and that failure (R600 step 2). -/
def State.pagesWritten (s : State) (t : Nat) (im : List Byte) :
    List (Nat × Nat × List Byte) → List (Nat × Nat × List Byte) × Option Refuse
  | [] => ([], none)
  | p :: ps => match s.pageBad t im p.1 p.2.1 p.2.2 with
    | some r => ([], some r)
    | none => let (ws, r) := State.pagesWritten s t im ps; (p :: ws, r)

/-- The first failure of steps 4 and 5 (R600). -/
def State.lateFault (s : State) (t : Nat) (im : List Byte) : Option Refuse :=
  match (objectsOf (field im 32 4) (im.drop 4096)).findSome? (fun r =>
    if field r 0 1 = 2 ∧ s.groupCores t < field r 12 2 + field r 14 2 then some (noResource 0x0012) else none) with
  | some r => some r
  | none => if sha256 ((im.drop 4096).take (field im 8 8 - 4096)) ≠ slice im 128 32 then some (badParam 0x1102) else none

/-- The first failure of step 2 or later (R600). -/
def State.imageFault (s : State) (t : Nat) (im : List Byte) : Option Refuse :=
  match (s.pagesWritten t im (imagePages im)).2 with
  | some r => some r
  | none => s.lateFault t im

/-- HBM of a group with the pages of an image and zeros elsewhere; retired pages stay (R600). -/
def State.loadPages (s : State) (t : Nat) (pages : List (Nat × Nat × List Byte)) : State :=
  let n := s.groupSize t
  (s.members t).foldl (fun s p =>
    let mine := pages.filterMap (fun (a, _, bs) =>
      let (q, l) := mapHbm t n (s.localAddr a)
      if q = p ∧ s.onCard a then some (l, bs) else none)
    let held := mine.map (fun x => x.1 / pageBytes)
    s.modPart p (fun x => { x with
      hbm := mine.foldl (fun m (l, bs) => m.write l bs)
        { cells := x.hbm.cells.filter (fun c => s.pageRetired p (c.1 / pageBytes)) }
      unmarked := (List.range (partBytes / pageBytes)).filter (fun q => !held.contains q && !s.pageRetired p q) })) s

/-- A residency pinned again from its model's restored range (R600). -/
def State.repin (s : State) (t : Nat) (o : Objects) (r : Residency) : State :=
  match o.models.find? (·.handle == r.model) with
  | none => s
  | some m => (List.range r.cores).foldl (fun s i => s.writeSlab t m (r.firstCore + i) i) s

/-- One object record added to the objects of the restoring function. -/
def State.addObject (s : State) (t fn : Nat) (o : Objects) (r : List Byte) : Objects :=
  let h := field r 4 4
  let above (h : Nat) (o : Objects) : Objects := { o with handles := o.handles.map (fun n => max n (h / 6 + 1)) }
  match field r 0 1 with
  | 1 => above h { o with models := o.models ++ [{
      handle := h, fn := fn, digest := slice r 8 32, addr := field r 40 8, length := field r 48 8, format := field r 56 1 }] }
  | 2 => above h { o with residencies := o.residencies ++ [{
      handle := h, fn := fn, model := field r 8 4, firstCore := field r 12 2, cores := field r 14 2 }] }
  | 3 => above h { o with programs := o.programs ++ [{
      handle := h, fn := fn, addr := field r 8 8, count := field r 16 2, restored := true
      digest := sha256 (s.hbmRead t (field r 8 8) (128 * field r 16 2)) }] }
  | 4 =>
    let d := s.hbmRead t (field r 8 8) 64
    let p := poolOf fn (field r 8 8) (field r 16 4) (field r 20 1) h d
    let top := (List.range p.capacity).foldl (fun m j => max m (s.seqRead t p j).handle) 0
    above top (above h { o with pools := o.pools ++ [p] })
  | 5 =>
    let first := field r 4 1
    { o with shapes := o.shapes.mapIdx (fun i v => if first ≤ i ∧ i < first + 14 then field r (8 + 4 * (i - first)) 4 else v) }
  | _ => o

/-- Objects of an image (R600). -/
def State.restoredObjects (s : State) (t fn : Nat) (im : List Byte) : Objects :=
  (objectsOf (field im 32 4) (im.drop 4096)).foldl (fun o r => s.addObject t fn o r) (s.train t).objects.emptied

/-- A RESTORE that fails after step 1 (R600): the group as a PART_GROUP naming the current grouping leaves it, the pages
that RESTORE wrote zero; after step 3 the pages that the image does not hold are zero too. The rings and regions stay, as
the reply and the slots go through them (assumption 77). -/
def State.failRestore (s : State) (w : Work) (im : List Byte) (r : Refuse) : State :=
  let t := w.train
  let (written, early) := s.pagesWritten t im (imagePages im)
  let s := ((s.failIssue w r).clearCores t).modTrain t (fun x => { x.dropWork with
    objects := x.objects.emptied, works := x.works, due := x.due, n5Next := x.n5Next, floor := 0, stepNext := x.stepNext })
  let s := if early.isSome then s else s.loadPages t written
  written.foldl (fun s (a, _, _) =>
    if s.onCard a then
      let (p, l) := mapHbm t (s.groupSize t) (s.localAddr a)
      s.modPart p (fun x => { x with
        hbm := x.hbm.clear l pageBytes, unmarked := x.unmarked.filter (· != l / pageBytes) })
    else s) s

/-- The RESTORE of a group that has taken its slots. -/
def State.restoring (s : State) (t : Nat) : Option Work :=
  (s.train t).works.find? (fun w => w.cmd.opcode == 0x82 && w.stage == .outside)

/-- A RESTORE that pins a residency on chip-wide core `c` again (R600). -/
def State.repinning (s : State) (t c : Nat) : Option Work :=
  match s.restoring t with
  | none => none
  | some w =>
    if (s.headerProblem t w.stream).isNone && (s.imageFault t w.stream).isNone
        && (objectsOf (field w.stream 32 4) (w.stream.drop 4096)).any (fun r => field r 0 1 == 2 &&
          (List.range (field r 14 2)).any (fun i => 16 * t + (field r 12 2 + i) % (16 * s.groupSize t) == c))
    then some w else none

/-- RESTORE finishes (R600): pages, residencies and digest; its objects and jobs follow at the passing seal. -/
def execRestoreComplete (train : Nat) (s : State) : Host.Outcome State Fault Refusal :=
  match s.restoring train with
  | none => .next s
  | some w =>
    let im := w.stream
    match s.headerProblem train im with
    | some r => .next (s.failIssue w r)
    | none =>
      match s.imageFault train im with
      | some r => .next (s.failRestore w im r)
      | none =>
        let s := s.loadPages train (imagePages im)
        let o := s.restoredObjects train w.fn im
        let s := o.residencies.foldl (fun s r => s.repin train o r) s
        .next (s.modWork train w.id (fun w =>
          { w.finish 0 (leBytes 6 (field im 16 6)) with
            auxBytes := im, extra := leBytes 6 (field im 16 6) ++ zeros 2 ++ leBytes 8 (field im 8 8)
            digests := [(3, 0, slice im 128 32)] }))

/-- A job of an image as it waits for its next step (R602); none when it is not resumed. -/
def State.resumeJob (s : State) (t fn part order : Nat) (im r : List Byte) : Option Work :=
  let steps := field r 16 2
  let sealed_ := field r 18 2
  let cmd : Command := .jobSubmit (field r 20 4) (field r 8 8) steps {} {}
  let w : Work := { id := order, fn := fn, bulk := field r 26 1 = 1, cmd := cmd, flags := 0, seq := field r 24 2, tag := field r 28 4
                    part := part, params := fit 52 cmd.params, train := t, behaviour := .sliced, refs := [{}, {}] }
  let mine := (carriedSplit (field im 36 4) (im.drop (4096 + field im 40 4))).filter (fun c => field c 0 4 == field r 4 4)
  if !bit (field r 27 1) 0 || mine.any (fun c => decide (s.groupCores t ≤ field c 4 2)) then none
  else match s.entryChecked w with
    | .error _ => none
    | .ok w =>
      let dims := (List.range (field r 40 2)).map (fun i =>
        ({ m := field r (64 + 16 * i) 4, n := field r (68 + 16 * i) 4, k := field r (72 + 16 * i) 4, g := field r (76 + 16 * i) 4 } : Shape))
      some { w with
        shapes := dims, stepsAdmitted := sealed_, stepsDone := sealed_, stepsSealed := sealed_, stage := .running
        auxBytes := slice r 32 8
        carried := mine.map (fun c => {
          core := 16 * t + field c 4 2, off := field c 8 4, len := field c 12 4
          working := ({} : Memory).write (field c 8 4) (slice c 64 (field c 12 4))
          committed := ({} : Memory).write (field c 8 4) (slice c 64 (field c 12 4)) }) }

/-- What RESTORE commits (R600 to R602). -/
def State.commitRestore (s : State) (w : Work) : State :=
  let t := w.train
  let im := w.auxBytes
  let o := s.restoredObjects t w.fn im
  let s := s.modObjects t (fun _ => o)
  let recs := objectsOf (field im 32 4) (im.drop 4096)
  let jobs := recs.filter (fun r => field r 0 1 == 6)
  let opens := (recs.filter (fun r => field r 0 1 == 7)).length
  let (s, n) := jobs.foldl (fun (s, n) r =>
    match s.resumeJob t w.fn w.part s.dev.nextOrder im r with
    | none => (s, n)
    | some j =>
      let s := (s.modDev (fun d => { d with nextOrder := d.nextOrder + 1 })).modTrain t (fun x => { x with works := x.works ++ [j] })
      (s, n + 1)) (s, 0)
  s.modWork t w.id (fun w => { w with
    detail := leBytes 6 (field im 16 6) ++ leBytes 2 n ++ leBytes 2 (jobs.length - n + opens) })

end Sys2Proof.Machine
end

