-- ==== Sys2Proof/Machine/Bellows.lean ====
section
/-! DEFINITION. Deregistration and the failures of Bellows accesses (R168 to R172). -/

namespace Sys2Proof.Machine

/-- What a command has done in the Breath in progress to its sequence or session is taken back (R464, R488, R530): SCORE and
VID_DECODE as before the command, HIST_PREFILL as at the start of the Breath. Where another command of the Breath has appended to
the sequence since, its token goes too (DESIGN CHOICE, assumption 116). -/
def State.undoAppends (s : State) (t : Nat) (w : Work) : State :=
  let back (h : Nat) (old : List Memory) : State := match s.sequence? t w.fn h with
    | some (p, j, _) => s.undoSequence t old p j
    | none => s
  match w.cmd with
  | .score _ h .. => if w.live || w.undo == [] then s else back h w.undo
  | .histPrefill _ h _ => if w.stage = .running ∨ w.stage = .finished then back h (s.train t).saved.hbm else s
  | .vidDecode .. => match w.before with
    | some x => if w.live then s else s.setSession t x
    | none => s
  | _ => s

/-- The same for one that had finished without an error. -/
def State.undoFinished (s : State) (t : Nat) (w : Work) : State :=
  if w.live || w.status ≠ 0 then s else s.undoAppends t w

/-- The record of an executing SCORE or HIST_PREFILL that ends carries the positions of its sequence (R468). -/
def State.noteOwn (s : State) (w : Work) : State :=
  if w.stage = .waiting then s
  else match w.cmd with
    | .score _ h .. => s.notePositions w h
    | .histPrefill _ h _ => s.notePositions w h
    | _ => s

/-- Commands of a train ended from outside, the last first where they have to take something back. -/
def State.endWorks (s : State) (t : Nat) (ws : List Work) (r : Refuse) : State :=
  let s := ws.reverse.foldl (fun s w => s.undoFinished t w) s
  ws.foldl (fun s w =>
    let s := if (s.train t).checkpoint.any (fun c => c.work == w.id) then s.modTrain t (fun x => { x with checkpoint := none }) else s
    let s := if s.dev.stopWork = some w.id then s.restartStopped else s
    (s.noteOwn w).endWork t w.id r) s

/-- Every command that holds or names a slot of a region ended, whatever its progress; the number of commands. -/
def State.endRegionWorks (s : State) (fn h : Nat) (reason slot : Nat) : State × Nat :=
  s.activeTrains.foldl (fun (s, n) t =>
    let ws := (s.train t).works.filter (fun w => s.namesRegion w fn h)
    (s.endWorks t ws (bellowsBad reason h slot), n + ws.length)) (s, 0)

/-- A region withdrawn: its slots are the host's, no flag is written (R172). -/
def State.withdraw (s : State) (fn h : Nat) : State :=
  s.modFn fn (fun f => { f with regions := f.regions.filter (·.handle != h) })

/-- BELLOWS_DEREGISTER at issue: mode 0 withdrew the region at checking (R170). -/
def State.startDeregister (s : State) (w : Work) : State :=
  s.modWork w.train w.id (fun w => { w with stage := .outside })

/-- BELLOWS_DEREGISTER mode 1 at the end of the Breath to which it was admitted; a spill region of which a slot has been claimed
meanwhile stays (R171). -/
def State.forceDeregister (s : State) (t : Nat) : State :=
  ((s.train t).works.filter (fun w => w.stage == .outside && w.aux == [])).foldl (fun s w => match w.cmd with
    | .bellowsDeregister h 1 =>
      if ((s.fn w.fn).region? h).any (fun r => r.spill && r.claims != []) then s.failIssue w (bellowsBad 0x0515 h 0xFFFF 10)
      else
      let (s, n) := s.endRegionWorks w.fn h 0x050A 0xFFFF
      (s.withdraw w.fn h).modWork t w.id (fun w => { w with aux := [n, 1] })
    | _ => s) s

/-- Every access to a deregistered region has completed or timed out (R170). -/
def execDeregisterAccessesDone (fn region : Nat) (s : State) : Host.Outcome State Fault Refusal :=
  match s.allWorks.find? (fun w => w.fn == fn && w.stage == .outside && (w.cmd == .bellowsDeregister region 0
      || (w.cmd == .bellowsDeregister region 1 && w.aux != []))) with
  | none => .next s
  | some w => .next (s.finishWork w.train w.id 0 (leBytes 2 (w.aux.headD 0)))

/-- The report of a failed access: AER and BELLOWS_FAULT. -/
def State.bellowsFault (s : State) (fn region slot code : Nat) (withdrawn : Bool) : State :=
  ({ s with out := { s.out with aer := (fn, code) :: s.out.aer } }).raiseF fn 0x0201 2 (flag withdrawn)
    (leBytes 2 region ++ leBytes 2 slot ++ [byte code])

/-- A slot of a command marked to return RETIRED, also one that it names and could not take (R168). -/
def Work.retireSlot (w : Work) (region slot gen : Nat) : Work :=
  let here (h : HeldSlot) : Bool := h.ref.region == region && h.ref.slot == slot
  if w.held.any here then { w with held := w.held.map (fun h => if here h then { h with retired := true } else h) }
  else
    let ref := (((namedSlots w.refs).map (·.2)).find? (fun r => r.region == region && r.slot == slot)).getD
      { region := region, slot := slot, gen := gen, dir := 1 }
    { w with held := w.held ++ [{ ref := ref, ordinal := w.held.length, length := 0, bytes := [], retired := true }] }

/-- A slot of a spill region whose data could not be read: RETIRED, and not used again (R168). -/
def State.retireSpill (s : State) (fn : Nat) (r : Region) (slot : Nat) : State :=
  ((s.slotWrite fn r (r.headerAt slot) [0x7F] false).badSlot fn r.handle slot).modFn fn (fun f => f.modRegion r.handle (fun r => { r with
    retired := if r.retired.contains slot then r.retired else slot :: r.retired }))

/-- A slot read that failed (R168): the command that needed it ends, also one that has finished and not replied, and the slot
returns RETIRED. Of a spill region, it is the oldest running command that uses the region (DEDUCED, assumption 126). -/
def State.slotReadFailed (s : State) (fn region slot code : Nat) : State :=
  let r? := (s.fn fn).region? region
  let spill := r?.any (fun r => r.spill && (r.claim? slot).isSome)
  let needs (w : Work) : Bool :=
    if spill then w.stage == .running && s.namesRegion w fn region
    else w.fn == fn && w.slots.contains (region, slot)
  match r?, s.allWorks.find? needs with
  | some r, some w =>
    let s := if w.live || w.status = 0 then s.endWorks w.train [w] (bellowsBad 0x0508 region slot) else s
    let s := if spill then s.retireSpill fn r slot
      else s.modWork w.train w.id (fun x => { x.retireSlot region slot ((r.last slot + 1) % 256) with unexecuted := x.unexecuted || w.stage == .waiting })
    s.bellowsFault fn region slot code false
  | _, _ => s

/-- A poisoned completion on a slot read. -/
def execBellowsPoisonedCompletion (fn region slot : Nat) (s : State) : Host.Outcome State Fault Refusal :=
  .next (s.slotReadFailed fn region slot 1)

/-- A slot read that times out. -/
def execBellowsCompletionTimeout (fn region slot : Nat) (s : State) : Host.Outcome State Fault Refusal :=
  .next (s.slotReadFailed fn region slot 2)

/-- Unsupported Request or Completer Abort on a region (R169). -/
def execBellowsUnsupportedRequest (fn region : Nat) (completerAbort : Bool) (s : State) : Host.Outcome State Fault Refusal :=
  match (s.fn fn).region? region with
  | none => .next s
  | some _ =>
    let s := (s.endRegionWorks fn region 0x0509 0xFFFF).1
    .next ((s.withdraw fn region).bellowsFault fn region 0xFFFF (if completerAbort then 4 else 3) true)

end Sys2Proof.Machine
end

