-- ==== Sys2Proof/Machine/Links.lean ====
section
/-! DEFINITION. Ligature links: routing, sending, the link checks of received frames, replays and retraining (R555 to R561). -/

namespace Sys2Proof.Machine

/-! Wiring and routes (R557, R558). -/

/-- The ports named in CONSORT_FORM, ascending. -/
def State.namedPorts (s : State) : List Nat := (List.range 6).filter (bit s.consort.ports)

/-- The card at the far end of the `k`-th named port (Table 16.2). -/
def Consort.neighbour (c : Consort) (k : Nat) : Nat :=
  if c.topology = 0 then (if k = 0 then (c.card + 1) % c.members else (c.card + c.members - 1) % c.members)
  else
    let row := c.card / 4
    let col := c.card % 4
    if k = 0 then 4 * row + (col + 1) % 4 else if k = 1 then 4 * row + (col + 3) % 4
    else if k = 2 then 4 * ((row + 1) % 4) + col else 4 * ((row + 3) % 4) + col

/-- Named-port positions that lead towards card `d`, the preferred one first (R558): along the shorter way round, a tie
in the rising direction; in a torus the column first. -/
def Consort.ways (c : Consort) (d : Nat) : List Nat :=
  if c.topology = 0 then
    let up := (d + c.members - c.card) % c.members
    if up ≤ c.members - up then [0, 1] else [1, 0]
  else
    let cols := (d % 4 + 4 - c.card % 4) % 4
    let rows := (d / 4 + 4 - c.card / 4) % 4
    (if cols = 0 then [] else if cols ≤ 2 then [0] else [1]) ++ (if rows = 0 then [] else if rows ≤ 2 then [2] else [3])

/-- The port by which a frame for card `d` leaves; none where no route is trained. -/
def State.route (s : State) (d : Nat) : Option Nat :=
  (s.consort.ways d).findSome? (fun k => match s.namedPorts[k]? with
    | some p => if (s.link p).state = 2 then some p else none
    | none => none)

/-- A frame leaves by a port with that port's next link sequence (R559): fields port, sequence, then its own. -/
def State.sendPort (s : State) (p kind : Nat) (fields : List Nat) (bs : List Byte) : State :=
  let l := s.link p
  { s with
    links := s.links.set p { l with sendSeq := (l.sendSeq + 1) % 65536 }
    out := { s.out with frames := { kind := kind, fields := p :: l.sendSeq :: fields, bytes := bs } :: s.out.frames } }

/-- A frame to one card (Table 16.3), its destination before its fields. -/
def State.sendTo (s : State) (d kind : Nat) (fields : List Nat) (bs : List Byte) : State :=
  match s.route d with
  | some p => s.sendPort p kind (d :: fields) bs
  | none => s

/-- The other cards of the consort that have not left. -/
def State.others (s : State) : List Nat :=
  (List.range s.consort.members).filter (fun c => c != s.consort.card && !s.consort.gone.any (·.1 == c))

/-- A frame to every other member. -/
def State.sendAll (s : State) (kind : Nat) (fields : List Nat) (bs : List Byte) : State :=
  s.others.foldl (fun s d => s.sendTo d kind fields bs) s

/-- The card is a follower of a consort (R74). -/
def State.follows (s : State) : Bool := s.consort.member && s.consort.card != 0

/-! Link state (R560). -/

def State.modLink (s : State) (p : Nat) (g : Link → Link) : State := s.setLink p (g (s.link p))

/-- An event of a port, at most once a second for its code. -/
def State.linkEvent (s : State) (code sev port : Nat) (payload : List Byte) : State :=
  let (ok, s) := s.once code port
  if ok then s.raiseD code sev port 0 payload else s

/-- A counter of a port counts, saturating (R741). -/
def State.countReplay (s : State) (p : Nat) : State :=
  let l := s.link p
  let n := satAdd 32 l.replays 1
  (s.setLink p { l with replays := n, replaysSince := l.replaysSince + 1 }).saturated 0xFF (0x4008 + 0x20 * p) l.replays n
def State.countRetrain (s : State) (p : Nat) : State :=
  let l := s.link p
  let n := satAdd 32 l.retrains 1
  (s.setLink p { l with retrains := n }).saturated 0xFF (0x4010 + 0x20 * p) l.retrains n

/-- A retraining begins. -/
def State.retrain (s : State) (p : Nat) : State := s.modLink p (fun l => { l with state := 1, tries := 0, violationTimes := [] })

/-- A frame discarded and a replay asked for; after four replays of it the link retrains. -/
def State.replayFrame (s : State) (p : Nat) : State :=
  if 4 ≤ (s.link p).tries then s.retrain p
  else
    let s := (s.countReplay p).modLink p (fun l => { l with tries := l.tries + 1 })
    if s.dev.onceThisSecond.contains (0x0601, p) then s
    else (s.linkEvent 0x0601 0 p (leBytes 4 (s.link p).replaysSince)).modLink p (fun l => { l with replaysSince := 0 })

/-- A well-formed frame that is meaningless in its state, discarded and counted. -/
def State.linkViolation (s : State) (p : Nat) : State :=
  let now := s.clock.timebase
  let s := s.modLink p (fun l => { l with
    violations := satAdd 32 l.violations 1, violationsSince := l.violationsSince + 1
    violationTimes := (now :: l.violationTimes.filter (fun t => decide (now ≤ t + 100000000))).take 64 })
  let s := if s.dev.onceThisSecond.contains (0x0604, p) then s
    else (s.linkEvent 0x0604 1 p (leBytes 4 (s.link p).violationsSince)).modLink p (fun l => { l with violationsSince := 0 })
  if 64 ≤ (s.link p).violationTimes.length then s.retrain p else s

/-- The link checks of a received frame: the frame is taken when the first component holds (R559, R560). A port that is
not trained receives nothing. -/
def State.takeFrame (s : State) (l : FrameLink) : Bool × State :=
  let x := s.link l.port
  if x.state ≠ 2 ∨ !s.powered then (false, s)
  else if !l.crcGood || l.linkSeq != x.expect then (false, s.replayFrame l.port)
  else (true, s.setLink l.port { x with expect := (x.expect + 1) % 65536, tries := 0 })

end Sys2Proof.Machine
end

