-- ==== Sys2Proof/Machine/Breath.lean ====
section
/-! DEFINITION. The Breath: issue of the admitted set, admission, work completion, the seal with its pass and failure, the
re-run, the closing Breath, regrouping and shutdown (chapters 2, 3 and 15). -/

namespace Sys2Proof.Machine

/-! Issue. -/

/-- A command with zero estimates at issue. -/
def State.startZero (s : State) (w : Work) : State :=
  match w.cmd with
  | .auditPolicy p => s.startPolicy w p
  | .sealClear => s.startSealClear w
  | _ => s.execZero w

/-- A command of the Waits behaviour at issue. -/
def State.startWaits (s : State) (w : Work) : State :=
  let outside (s : State) : State := s.modWork w.train w.id (fun w => { w with stage := .outside })
  match w.cmd with
  | .bellowsDeregister .. => s.startDeregister w
  | .snapshotShadow f _ _ rate => s.startShadow w f rate
  | .snapshotStop b _ _ => s.startStop w b
  | .restore r first => s.startRestore w r first
  | .cartRetire b => s.startRetire w b
  | .ledgerFlush => s.startFlush w
  | .bayEject b => s.startEject w b
  | .fwUpdate _ target _ => s.startFirmware w target
  | .ownerKeyInstall _ => s.startOwnerKey w
  | .shutdown _ => (outside s).modWork w.train w.id (fun w => { w with aux := [s.clock.timebase] })
  | .consortLeave b =>
    if !s.consort.member then s.failIssue w (badParam 0x0606)
    else { outside s with consort := { s.consort with leave := s.consort.leave ++ [(w.id, b)] } }
  | _ => outside s

/-- A command runs: its replay token holds the period of the Breath that it issues in (R432, Table 11.7). -/
def Work.start (w : Work) (n5 : Nat) : Work :=
  { w with stage := .running, token := if w.token = [] then [] else splice w.token 80 (leBytes 2 n5) }

/-- A command issues at a Breath start, its slots taken first (R158, R161). -/
def State.issueWork (s : State) (t id : Nat) : State :=
  match s.work? t id with
  | none => s
  | some w =>
    if w.stage != .waiting then s
    else
      let failed := w.held.find? (·.retired)
      let s := match failed with
        | some h => s.failIssue w (bellowsBad 0x0508 h.ref.region h.ref.slot)
        | none => if namedSlots w.refs = [] then s else s.takeSlots w
      match s.work? t id with
      | none => s
      | some w =>
        if !w.live then s
        else match w.behaviour with
          | .zero => s.startZero w
          | .waits => s.startWaits w
          | _ =>
            let s := s.fixSteps w
            match s.work? t id with
            | some w => if w.live then s.modWork t id (fun w => w.start (s.train t).n5) else s
            | none => s

/-- The pieces of the admitted set that need no Reed core are done at issue. -/
def State.markIssued (s : State) (t : Nat) : State :=
  s.modTrain t (fun x => { x with admitted := x.admitted.map (fun p => match x.work? p.work with
    | some w => if w.behaviour = .zero ∨ w.behaviour = .waits ∨ !w.live then { p with done := true } else p
    | none => { p with done := true }) })

/-- A re-run reads the input slots of commands that already ran again (R161). -/
def State.rereadRunning (s : State) (t : Nat) : State :=
  let ids := ((s.train t).admitted.map (·.work)).eraseDups
  ids.foldl (fun s id => match s.work? t id with
    | some w => if w.stage = .running then s.rereadInputs w else s
    | none => s) s

/-- The admitted set issues in order. -/
def State.issueAll (s : State) (t : Nat) : State :=
  let ids := ((s.train t).admitted.filter (fun p => !p.carried)).map (·.work)
  (ids.eraseDups.foldl (fun s id => s.issueWork t id) s).markIssued t

/-! Device time at a Breath start (R76, R77, R196). -/

/-- One TIME_SET applied. -/
def State.applyTime (s : State) (w : Work) (target : Nat) : State :=
  let now := s.clock.time
  if now ≤ target then
    ({ s with clock := { s.clock with time := target, isSet := true, slew := 0 } }.modWork w.train w.id (fun w =>
      { w.finish 0 (leBytes 8 now ++ [0]) with extra := leBytes 8 target }))
  else if now - target ≤ 1000000 then
    ({ s with clock := { s.clock with isSet := true, slew := now - target } }.modWork w.train w.id (fun w =>
      { w.finish 0 (leBytes 8 now ++ [1]) with extra := leBytes 8 now }))
  else s.failIssue w (badParam 0x0608)

/-- The TIME_SET commands that apply at the start of administrative Breath `b`. -/
def State.applyTimes (s : State) (b : Nat) : State :=
  (s.outside (fun c => c.opcode == 0x02)).foldl (fun s w => match w.cmd with
    | .timeSet target breath => if breath ≤ b ∨ b + 2 ^ 20 ≤ breath then s.applyTime w target else s
    | _ => s) s

/-! Admission (R59 to R65). -/

/-- An admission in progress. -/
structure Forming where
  total : Estimate := ⟨0, 0⟩
  urgent : Estimate := ⟨0, 0⟩
  count : Nat := 0
  pieces : List Piece := []
  refused : List (Nat × List Byte) := []

/-- The limits of the next Breath. -/
structure Limits where
  ceiling : Nat
  urgent : Nat
  share : Nat
  step : Nat
  quiet : Bool
  breath : Nat

def Limits.paced (l : Limits) (e : Estimate) : Nat := pacedAt e l.share l.step

/-- BREATH_FULL bytes 18 to 26 (Table 4.6). -/
def fullDetail (paced left cause : Nat) : List Byte :=
  ({ status := 0x33, tail := leBytes 4 (min paced 0xFFFFFFFF) ++ leBytes 4 (min left 0xFFFFFFFF) ++ [byte cause] } : Refuse).detail

/-- One eligible Urgent packet admitted or refused (R61, R62). -/
def Forming.urgentOne (f : Forming) (l : Limits) (w : Work) (e : Estimate) : Forming :=
  let own := l.paced e
  let left := l.ceiling - l.paced f.total
  let no (cause : Nat) : Forming := { f with refused := f.refused ++ [(w.id, fullDetail own left cause)] }
  if l.quiet ∧ (e.cycles ≠ 0 ∨ e.energy ≠ 0) then no 4
  else if 32 ≤ f.count then no 2
  else if l.ceiling < l.paced (f.total.add e) then no 1
  else if l.urgent < l.paced (f.urgent.add e) then no 3
  else { f with
    total := f.total.add e, urgent := f.urgent.add e, count := f.count + 1
    pieces := f.pieces ++ [{ work := w.id, step := w.stepsAdmitted, cycles := e.cycles, energy := e.energy, breath := l.breath }] }

/-- The next steps of a Bulk command, as many as fit (R64, R65); `e` gives the estimate of each. -/
def Forming.bulkSteps (l : Limits) (w : Work) (e : Nat → Estimate) : Nat → Nat → Forming → Forming
  | 0, _, f => f
  | n + 1, k, f =>
    if (l.quiet ∧ ((e k).cycles ≠ 0 ∨ (e k).energy ≠ 0)) ∨ l.ceiling < l.paced (f.total.add (e k)) then f
    else Forming.bulkSteps l w e n (k + 1)
      { f with
        total := f.total.add (e k)
        pieces := f.pieces ++ [{ work := w.id, step := k, cycles := (e k).cycles, energy := (e k).energy, breath := l.breath }] }

/-- The estimate of step `k` with its drain-ahead pages (R592). -/
def State.stepEstimate (s : State) (w : Work) (k : Nat) : Estimate :=
  let e := w.stepCost k
  ⟨e.cycles + s.aheadCharge w, e.energy⟩

/-- A PART_POWER is eligible: the next Breath is quiet (R106). -/
def State.quietNext (s : State) (t limit : Nat) : Bool :=
  (s.train t).works.any (fun w => w.cmd.opcode == 0x13 && w.stage == .waiting && w.status == 0 && decide (w.arrived ≤ limit))

/-- The objects that a command names (R141): handles of models, programs, sequences and sessions, and regions beside their slots,
numbered from 2^32 on. A residency is no such object, and a JOB_CANCEL names a tag and no handle (DEDUCED, assumption 117). -/
def State.names (s : State) (w : Work) : List Nat :=
  w.uses.filter (fun h => !(s.train w.train).objects.residencies.any (·.handle == h)) ++ (match w.cmd with
    | .modelRelease h => [h]
    | .stopPin h .. => [h]
    | .progRelease h => [h]
    | .histClose h => [h]
    | .vidClose h => [h]
    | .bellowsDeregister h _ => [2 ^ 32 + h]
    | .histOpen _ _ h _ => [2 ^ 32 + h]
    | _ => w.imageSlot.toList.map (fun x => 2 ^ 32 + x.1))

/-- A Bulk command waits for an earlier one of its ring that names a common object and has steps neither admitted nor among
`pieces` (R141). -/
def State.heldBack (s : State) (t : Nat) (w : Work) (pieces : List Piece) : Bool :=
  let mine := s.names w
  (s.train t).works.any (fun o => decide (o.id < w.id) && o.bulk && o.fn == w.fn && o.live && o.status == 0 && !o.cut
    && decide (o.stepsAdmitted + (pieces.filter (·.work == o.id)).length < o.steps) && (s.names o).any mine.contains)

/-- The admitted set of the next Breath of train `t`, after the work carried into it, of the packets that had come by the
admission point `limit` (R59). A command that waits on the Bulk ring counts as a pending Bulk step whatever its estimate
(R63; DESIGN CHOICE, assumption 99). -/
def State.formSet (s : State) (t limit : Nat) : Forming :=
  let x := s.train t
  let step := x.stepNext.getD x.step
  let quiet := s.quietNext t limit
  let ready := x.works.filter (fun w => w.live && w.status == 0 && !w.cut
    && ((w.stage == .waiting && decide (w.arrived ≤ limit)) || (w.stage == .running && w.behaviour == .sliced))
    && decide (w.stepsAdmitted < w.steps))
  let urgents := ready.filter (!·.bulk)
  let bulks := ready.filter (·.bulk)
  let A := ceiling (x.n5Next.getD x.n5) step
  let l : Limits :=
    { ceiling := A, urgent := if bulks = [] then A else A * (20 - x.floorNow) / 20, share := s.groupShare t, step := step
      quiet := quiet, breath := x.next }
  let carried := x.admitted.filter (fun p => p.carried && !p.done)
  let cost (ps : List Piece) : Estimate := ps.foldl (fun e p => e.add ⟨p.cycles, p.energy⟩) ⟨0, 0⟩
  let isUrgent (p : Piece) : Bool := (x.work? p.work).any (!·.bulk)
  let f : Forming := { total := (s.drainCharge t).add (cost carried), urgent := cost (carried.filter isUrgent) }
  let f := urgents.foldl (fun f w => f.urgentOne l w (s.stepEstimate w w.stepsAdmitted)) f
  bulks.foldl (fun f w =>
    if s.heldBack t w f.pieces then f
    else Forming.bulkSteps l w (s.stepEstimate w) (w.steps - w.stepsAdmitted) w.stepsAdmitted f) f

/-- Waiting commands that are not sliced end before admission, for a drain or a shutdown (R95, R198); a SHUTDOWN and a
PART_GROUP run to completion (R99). -/
def State.endWaiting (s : State) (t : Nat) (r : Refuse) : State :=
  ((s.train t).works.filter (fun w => w.stage == .waiting && w.status == 0 && w.behaviour != .sliced
      && w.cmd.opcode != 0x03 && w.cmd.opcode != 0x11)).foldl
    (fun s w => s.modWork t w.id (fun w => { w.fail r with unexecuted := true })) s

/-- Work still carried at its second admission point is stopped (R68), for a regroup with its own status (R96). -/
def State.stopCarried (s : State) (t : Nat) : State :=
  let x := s.train t
  let late := x.admitted.filter (fun p => p.carried && !p.done)
  if late = [] then s
  else
    let drained := s.drainElapsed t
    let s := s.addResultEvent t (s.event 0x0101 1 t 0xFFFF 0xFF 1 (leBytes 4 (late.foldl (fun n p => n + p.cycles) 0)))
    late.foldl (fun s p => match s.work? t p.work with
      | none => s
      | some w =>
        if !w.live then s
        else s.endWork t w.id (if drained then cutRefuse 2 w.stepsDone else { status := 0x7F, reason := 0 })) s

/-- Work unfinished at the end of the work window is carried (R66, R67): the cycles not yet issued are a free value, at
most the estimate, and their energy another (assumption 45). -/
def State.carryOn (s : State) (t : Nat) : State :=
  let open_ := (s.train t).admitted.filter (fun p => !p.done)
  if open_ = [] then s
  else
    let (s, ps) := open_.foldl (fun (s, ps) p =>
      let (v, s) := s.fresh
      let (u, s) := s.fresh
      (s, ps ++ [{ p with carried := true, cycles := v % (p.cycles + 1), energy := u % (p.energy + 1) }])) (s, [])
    let s := s.modTrain t (fun x => { x with admitted := x.admitted.filter (·.done) ++ ps })
    let s := if t < 16 then s.modPart t (fun p => { p with perf := { p.perf with overrunBreaths := p.perf.overrunBreaths + 1 } }) else s
    s.addResultEvent t (s.event 0x0101 1 t 0xFFFF 0xFF 0 (leBytes 4 (ps.foldl (fun n p => n + p.cycles) 0)))

/-- The retirements of a train's Breath take effect in its history pools (R466). -/
def State.retirePages (s : State) (t : Nat) : State :=
  (s.train t).retirements.foldl (fun s a => (s.train t).objects.pools.foldl (fun s o => s.retireInPool t o a) s) s

/-- Shares, policy and retirements that apply from an admission point (R103, R267, R493). -/
def State.applyAtAdmission (s : State) (t : Nat) : State :=
  let s := (s.modDev (fun d => { d with configDigest := s.ownDigest s.consort.topology s.consort.members })).applyPolicy t
  if t = adminTrain then s
  else
    let new := (s.members t).flatMap (fun p => (s.part p).retiring.map (fun q => unmapHbm t (s.groupSize t) p (q * pageBytes)))
    let s := (s.members t).foldl (fun s p => s.modPart p (fun x => { x with
      share := x.shareNext.getD x.share, shareNext := none, retiring := [] })) s
    (s.modTrain t (fun x => { x with retirements := x.retirements ++ new })).retirePages t

/-- Nothing is admitted to the next Breath of the train. -/
def State.admitsNothing (s : State) (t : Nat) : Bool :=
  let x := s.train t
  x.stopFor != .none || x.closing || x.closeNext || x.closed || s.stopsHere t
    || (decide (t < 16) && (s.consort.gone != [] || s.consort.forming.isSome))

/-- The drain limit of a SHUTDOWN has elapsed since its issue (R198). -/
def State.shutdownElapsed (s : State) : Bool :=
  s.dev.state == .shuttingDown && (s.outside (fun c => c.opcode == 0x03)).any (fun w => match w.cmd with
    | .shutdown limit => decide (w.aux.headD 0 + 100000 * limit ≤ s.clock.timebase)
    | _ => false)

/-- Every sliced command of a train ends without further steps (R96, R198). -/
def State.cutTrain (s : State) (t reason : Nat) : State :=
  ((s.train t).works.filter (·.sliced)).foldl (fun s w => s.cutWork t w.id reason) s

/-- The admission point of train `t` at the timebase value `limit` (R59, R60): draining starts (R95), and what the next
Breath admits is fixed. A drain limit that has elapsed admits no step, also after a re-run (R96, Case 3.4). -/
def State.admitAt (s : State) (t limit : Nat) : State :=
  let s := s.applyAtAdmission t
  let s := s.modTrain t (fun x => { x with
    draining := (s.regroupOf t).isSome, drainStart := if x.draining then x.drainStart else limit })
  let s := if (s.train t).draining then s.endWaiting t (noResource 2)
    else if s.dev.state == .shuttingDown then s.endWaiting t (noResource 0x0018) else s
  let s := if s.drainElapsed t then s.cutTrain t 2 else if s.shutdownElapsed then s.cutTrain t 0x0018 else s
  if s.admitsNothing t then s
  else
    let f := s.formSet t limit
    let quiet := s.quietNext t limit
    let s := f.refused.foldl (fun s (id, d) => s.modWork t id (fun w => { w with status := 0x33, detail := d, unexecuted := true })) s
    s.modTrain t (fun x => { x with forming := if s.follows then x.forming else f.pieces, quiet := quiet })

/-- The admission point of the Breath in progress, with `P` its period in timebase units. -/
def Train.admissionPoint (x : Train) : Nat := x.start + periodUnits x.n5 - 200

/-- No Breath starts at the end of the Breath in progress: a new period has another grid (R47). -/
def Train.gapFollows (x : Train) : Bool :=
  !x.rerun && !onGrid (x.n5Next.getD x.n5) (x.start + periodUnits x.n5)

/-- The end of the work window of a Breath (R59, R60, R66 to R68): unfinished work is carried or stopped, and the admission
point of the next Breath passes. Where no Breath follows at once, that point is 2 µs before the next Breath's start, and
passes then (DESIGN CHOICE, assumption 97). -/
def State.admitNext (s : State) (t : Nat) : State :=
  let s := s.modTrain t (fun x => { x with phase := .sealing })
  let s := (s.stopCarried t).carryOn t
  if (s.train t).gapFollows then s else s.admitAt t (s.train t).admissionPoint

/-- The leader of a consort sends its admitted set (R571). -/
def State.sendAdmitted (s : State) (t : Nat) : State :=
  let x := s.train t
  if s.consort.member && decide (s.consort.card = 0 ∧ t < 16) then
    s.sendAll 3 (t :: x.next :: x.forming.flatMap (fun p => [p.work, p.step, p.cycles])) []
  else s

/-! The start of a Breath (R49, R52, R545). -/

/-- Host addresses of a range of a group's spill windows (R541, R542): the payload of its slots. -/
def State.spillHost (s : State) (t : Nat) (r : Range) : List Range :=
  match s.spillRegion? (t + 1) (spillHandle r.start) with
  | none => []
  | some g => [⟨g.payloadBase + spillOffset r.start, r.len⟩]

/-- The check words of some units of a region as a saved copy holds them (R499, R542). -/
def Region.restoreChecks (r old : Region) (units : List Nat) : Region :=
  let here (slot u : Nat) : Bool := units.contains (slot * (r.slotSize / spillUnit) + u)
  { r with claims := r.claims.map (fun c => { c with
      checks := c.checks.filter (fun x => !here c.slot x.1)
        ++ (((old.claim? c.slot).map (·.checks)).getD []).filter (fun x => here c.slot x.1) }) }

/-- A spill region of a group after a failed seal: what serves history as it was at the start of the Breath; of what serves memory
the check words of the journaled units. -/
def Saved.region (v : Saved) (journal : List Range) (fn : Nat) (r : Region) : Region :=
  match v.regions.find? (fun o => o.1 == fn && o.2.handle == r.handle) with
  | none => r
  | some (_, o) =>
    if r.memoryUse = some false then { r with claims := o.claims, lastGen := o.lastGen, bad := o.bad, memoryUse := o.memoryUse }
    else
      let mine := journal.filter (fun x => isSpill x.start && spillHandle x.start == r.handle)
      r.restoreChecks o (mine.flatMap (fun x => (List.range ((spillOffset x.start + x.len + spillUnit - 1) / spillUnit
        - spillOffset x.start / spillUnit)).map (· + spillOffset x.start / spillUnit)))

/-- The state of a group as a re-run starts from it (Table 15.3). -/
def State.rollback (s : State) (t : Nat) : State :=
  let x := s.train t
  let v : Saved := x.saved
  let s := s.restoreHbm t v.hbm (x.journal.filter (fun r => !isSpill r.start))
  let hist := (s.spillRegions t).filter (fun r => r.2.memoryUse == some false)
  let hostRanges := ((x.journal.filter (fun r => isSpill r.start)).flatMap (s.spillHost t)).map (fun r => (t + 1, r))
    ++ hist.flatMap (fun r => r.2.ranges.map (fun y => (r.1, y)))
  let s := { s with host := hostRanges.foldl (fun (m : Memory) (r : Nat × Range) => m.copyFrom v.host (hostKey r.1 r.2.start) r.2.len) s.host }
  let s := s.modFn (t + 1) (fun f => { f with regions := f.regions.map (v.region x.journal (t + 1)) })
  let s := s.modFn 0 (fun f => { f with regions := f.regions.map (fun (r : Region) => if r.train = t then v.region x.journal 0 r else r) })
  let inSet (id : Nat) : Bool := v.admitted.any (·.work == id)
  let back (w : Work) : Work :=
    match v.works.find? (·.id == w.id) with
    | some o =>
      if w.behaviour = .waits ∧ w.stage ≠ .waiting then { w with replayed := w.replayed || inSet w.id }
      else if w.struck then
        { o.finish 0x50 (({ status := 0x50, reason := 0x0F03
                            tail := leBytes 6 x.firstFailed ++ leBytes 2 x.lastCauses ++ leBytes 2 x.sealStatus.core
                              ++ [byte x.sealStatus.unit, 1] } : Refuse).detail) with held := w.held }
      else { o with held := w.held, replayed := w.replayed || inSet w.id }
    | none => if w.stage = .waiting then { w with status := 0, detail := [], unexecuted := false } else w
  let s := s.modTrain t (fun x => { x with
    works := x.works.map back, objects := { v.objects with shapes := x.objects.shapes }
    admitted := v.admitted.map (fun (p : Piece) => { p with breath := if p.carried then p.breath else x.breath, done := false })
    journal := [], n5Next := none, floorNext := none, stepNext := none })
  let s := ((s.members t).zip v.shares).foldl (fun s (p, k) => s.modPart p (fun y => { y with share := k, shareNext := none })) s
  (s.modTrain t (fun x => { x with works := x.works.map (fun w => { w with
    carried := w.carried.map (fun c => { c with working := c.committed }) }) })).retirePages t

/-- A re-run Breath of the administrative train: its commands keep what they have done outside the I/O die, and a policy
is set again (R134; DEDUCED, assumption 127). -/
def State.rerunAdmin (s : State) : State :=
  let s := s.modTrain adminTrain (fun x => { x with
    works := x.works.map (fun w => if x.saved.admitted.any (·.work == w.id) then { w with replayed := true } else w) })
  (s.train adminTrain).works.foldl (fun s w => match w.cmd with
    | .auditPolicy p => if w.live then s else s.startPolicy w p
    | _ => s) s

/-- The Drone slot: the known-sum tests of the Breath (R370, R551). -/
def State.droneSlot (s : State) (t : Nat) : State := if t < 16 then s.droneTests t else s

/-- A Breath begins: counter, period, clock and conditioning sets; the restore of a re-run or the issue of the admitted
set. A closing Breath issues nothing; the state is that of a failed seal (R544, R548). The issue of Table 2.1 at 0.5 µs is part of
this row (DESIGN CHOICE, assumption 120). -/
def State.begin (s : State) (t : Nat) : State :=
  let x := s.train t
  let x := { x with closing := x.closing || x.closeNext, closeNext := false }
  let n5 := x.n5Due
  let s := s.setTrain t { x with
    breath := x.next, next := (x.next + 1) % 2 ^ 48, start := s.clock.timebase - s.clock.timebase % periodUnits n5, phase := .working
    causes := 0, core := 0xFFFF, unit := 0xFF, resultEvents := [], startTime := s.clock.time }
  if x.closing then
    let s := if x.rerun && decide (t ≠ adminTrain) then s.rollback t else s
    s.modTrain t (fun x => { x with rerun := false, n5 := n5, n5Next := none, floor := x.floorNow, floorNext := none, admitted := [] })
  else if x.rerun then
    let s := if t = adminTrain then s.rerunAdmin else s.rollback t
    let repairs := (s.train t).repairs
    let s := repairs.foldl (fun s (c, m) => s.repairMacro t c m) (s.modTrain t (fun x => { x with
      repaired := repairs, repairs := [], rerun := false }))
    ((s.droneSlot t).rereadRunning t).issueAll t
  else
    let s := s.modTrain t (fun x => { x with
      n5 := n5, step := x.stepNext.getD x.step, floor := x.floorNow
      n5Next := none, floorNext := none, stepNext := none, journal := [], marks := [], unmarks := [], retirements := []
      objects := { x.objects with sessions := x.objects.sessions.map Session.startBreath }
      admitted := x.admitted.filter (fun p => p.carried && !p.done) ++ x.forming, forming := []
      sets := (x.breath, x.forming.map (fun p => (p.work, p.step))) :: x.sets.take 63
      works := x.works.map (fun w => 
        let n := (x.forming.filter (·.work == w.id)).length
        { w with stepsAdmitted := w.stepsAdmitted + n, admittedTo := if n = 0 then w.admittedTo else x.breath }) })
    let y := s.train t
    let s := s.modTrain t (fun x => { x with saved := {
      works := y.works, objects := y.objects, admitted := y.admitted, hbm := s.groupHbm t, regions := s.spillRegions t
      host := s.host, shares := (s.members t).map (fun p => (s.part p).share) } })
    let s := if t < 16 then
        s.modPart t (fun p => { p with perf := { p.perf with
          cyclesAdmitted := p.perf.cyclesAdmitted + (y.admitted.filter (!·.carried)).foldl (fun n q => n + (match y.work? q.work with
            | some _ => s.paced t ⟨q.cycles, q.energy⟩
            | none => q.cycles)) 0 } })
      else s
    let s := if t = adminTrain then s.modLedger (fun l => { l with startSeq := l.nextSeq }) else s
    ((s.droneSlot t).drainNow t).issueAll t

/-- Whether a Breath of the train may start now. -/
def State.mayBegin (s : State) (t : Nat) : Bool :=
  let x := s.train t
  let n5 := x.n5Due
  let T := s.clock.timebase
  let late := s.consort.member && decide (t < 16 ∧ T % periodUnits n5 ≤ 50)
  s.activeTrains.contains t && [DevState.ready, .shuttingDown].contains s.dev.state && x.halt == .none
    && (x.phase == .stopped || (x.phase == .decided && decide (x.start + periodUnits x.n5 ≤ T))) && (onGrid n5 T || late)
    && s.powered && (!s.consort.member || decide (s.consort.start ≤ T))

/-! Completion of admitted work. -/

/-- The performance counters of the group's cores over a step of `cycles` core cycles: those that count cycles and lines advance
by a free value, at most one a cycle; rows and gather accesses are counted as their runs make them (R733, assumption 38). -/
def State.countCores (s : State) (t cycles : Nat) : State :=
  (List.range (16 * s.groupSize t)).foldl (fun s i =>
    let c := 16 * t + i
    let k := s.dev.freeIndex
    let s := (s.modCounters c (fun x => x.add (fun j => if j < 6 then Config.freeValue (k + j) % (cycles + 1) else 0))).modDev (fun d => { d with
      freeIndex := k + 8 })
    s.raiseWrap c) s

/-- The next piece of the admitted set completes, having used `cycles` core cycles (R66, R67). -/
def State.completePiece (s : State) (t cycles : Nat) : State :=
  let x := s.train t
  match x.admitted.find? (fun p => !p.done) with
  | none => s
  | some p =>
    let s := s.modTrain t (fun x => { x with admitted := x.admitted.map (fun q =>
      if q.work == p.work && q.step == p.step then { q with done := true } else q) })
    let s := if t < 16 then s.countCores t cycles else s
    let s := s.modWork t p.work (fun w => { w with cyclesUsed := w.cyclesUsed + cycles, late := w.late || decide (p.breath ≠ x.breath) })
    match s.work? t p.work with
    | none => s
    | some w =>
      if !w.live then s
      else
        let s := s.execStep w p.step (decide (p.step + 1 = w.steps)) p.carried
        let s := s.modWork t w.id (fun w => if w.live || w.status = 0 then { w with stepsDone := p.step + 1 } else w)
        match s.work? t w.id with
        | some v =>
          if v.live && v.cut && decide ((s.train t).piecesOf w.id = []) then s.failWork t w.id (cutRefuse v.status v.stepsDone) else s
        | none => s

/-- Admitted work finishes within the work window: not in the Drone slot and not in the seal window (R52). -/
def execWorkComplete (train cycles : Nat) (s : State) : Host.Outcome State Fault Refusal :=
  let x := s.train train
  let T := s.clock.timebase
  .next (if x.phase = .working ∧ s.powered ∧ x.start + 50 ≤ T ∧ T ≤ x.admissionPoint then s.completePiece train cycles else s)

/-- Whether 2 µs from now a stopped train, or one between two Breaths, may start a Breath (R47, R59). -/
def State.mayAdmit (s : State) (t : Nat) : Bool :=
  let x := s.train t
  let T := s.clock.timebase
  s.activeTrains.contains t && [DevState.ready, .shuttingDown].contains s.dev.state && x.halt == .none
    && (x.phase == .stopped || (x.phase == .decided && decide (x.start + periodUnits x.n5 < T + 200))) && onGrid x.n5Due (T + 200)

/-- The admission point: 2 µs before the end of the Breath, or before the first Breath after a stop (R59). -/
def execAdmissionPoint (train : Nat) (s : State) : Host.Outcome State Fault Refusal :=
  let x := s.train train
  let T := s.clock.timebase
  .next (if !s.powered then s
    else if x.phase = .working ∧ x.admissionPoint ≤ T then (s.admitNext train).sendAdmitted train
    else if s.mayAdmit train then (s.admitAt train T).sendAdmitted train
    else s)

/-- A picture exceeds its engine time (R521). -/
def execEngineTimeout (train session : Nat) (s : State) : Host.Outcome State Fault Refusal :=
  let x := s.train train
  let running (w : Work) : Bool := w.stage == .running && (match w.cmd with
    | .vidDecode h _ _ => h == session
    | _ => false)
  match x.works.find? running, x.objects.sessions.find? (·.handle == session) with
  | some w, some z =>
    if x.phase ≠ .working ∨ !s.powered then .next s
    else
      let s := s.setSession train { z with waiting := [], ready := [], decoded := z.decoded ++ [[]] }
      .next ((s.raiseL train 0x0502 2 0xFFFF z.engine 0 (leBytes 4 session ++ leBytes 4 z.frames)).endWork train w.id
        { status := 0x7F, reason := 0x0E30 })
  | _, _ => .next s

/-! The seal (R53, R534 to R549, R553). -/

/-- A STOP_PIN whose last step is in progress and whose cores include chip-wide core `c` (R356). -/
def State.pinning (s : State) (t c : Nat) : Option Work :=
  let x := s.train t
  x.works.find? (fun w => w.stage == .running && x.admitted.any (fun p => p.work == w.id && p.step + 1 == w.steps && !p.done)
    && (match w.cmd with
      | .stopPin _ first n => (List.range n).any (fun i => s.slabCore t (first + i) == some c)
      | _ => false))

/-- The known-sum test of a macro fails at a pin (R356): at the first time it is rewritten from HBM and tested again, at the second
`gone` follows. `aux` holds the macros that have failed once. -/
def State.macroFails (s : State) (w : Work) (core unit : Nat) (rewrite : State → State) (gone : State → Refuse → State) : State :=
  let (v, s) := s.fresh
  let s := s.raiseO 0x0303 2 (core / 16) core unit 0 [byte (v % 5)]
  if w.aux.contains (8 * core + unit) then gone s (pinRefuse w.train core unit)
  else (rewrite s).modWork w.train w.id (fun w => { w with aux := (8 * core + unit) :: w.aux })

/-- A macro of a STOP_PIN rewritten. -/
def State.rewritePin (s : State) (w : Work) (core unit : Nat) : State :=
  match w.cmd with
  | .stopPin m first _ => match (s.train w.train).objects.models.find? (·.handle == m) with
    | some x => (s.rewriteFrom w.train x core (s.groupCore w.train core - first) unit).1
    | none => s
  | _ => s
/-- A STOP_PIN ended by a macro that failed twice. -/
def State.endPin (s : State) (w : Work) (core : Nat) (r : Refuse) : State :=
  match w.cmd with
  | .stopPin _ first n => (s.releasePin w.train first n core).endWork w.train w.id r
  | _ => s

/-- Admitted work runs a STOPMM on a residency of which core `c` holds a slab (R369). -/
def State.runsStop (s : State) (t c : Nat) : Bool :=
  let x := s.train t
  (s.residencyAt t c).any (fun r => x.admitted.any (fun p => (x.work? p.work).any (fun w => w.bound.any (fun d =>
    d.1.op == opStopmm && d.1.b.addr % 2 ^ 32 == r.handle))))

/-- The known-sum tests that can fail in a Breath (R356, R370, R372, R600): of the Drone slot, of a repair, of a pin. -/
def State.testsMacro (s : State) (t core unit : Nat) : Bool :=
  decide (unit < 8) && (((s.residencyAt t core).isSome && (testedIndices (s.breathOf t)).any (fun i =>
      testedMacro i == (core % 16, unit)))
    || (s.train t).repaired.contains (core, unit) || (s.pinning t core).isSome || (s.repinning t core).isSome)

/-- What a check can be attributed to (R369 to R371, R376, R534, R536, Table 15.5): causes 9, 14 and 15 to no core; Stop causes to a
macro; 2 and 11 to one of 128 lanes, and 1, 3 and 4 to a lane or to none; 8 to the core that the Drone tests; 10 to one of 16 banks;
0 and 12 to no unit (DEDUCED, assumption 123). -/
def State.checkFires (s : State) (t cause core unit : Nat) : Bool :=
  let here := decide (16 * t ≤ core ∧ core < 16 * (t + s.groupSize t))
  match cause with
  | 0 => here && unit == 0xFF
  | 2 => here && decide (unit < 128)
  | 5 => here && decide (unit < 8) && s.runsStop t core
  | 6 => here && decide (unit < 8) && s.runsStop t core
  | 7 => here && s.testsMacro t core unit
  | 8 => here && decide (core % 16 = s.breathOf t % 16) && unit == 0xFF
  | 9 => core == 0xFFFF && unit == 0xFF && (s.train t).objects.monitorFault
  | 10 => here && decide (unit < 16)
  | 11 => here && decide (unit < 128)
  | 12 => here && unit == 0xFF
  | 13 => here
  | 14 => core == 0xFFFF && unit == 0xFF && s.consort.member
  | 15 => core == 0xFFFF && unit == 0xFF
  | _ => here && (decide (unit < 128) || unit == 0xFF)

/-- The unit as it is reported: lanes by eights (Table 15.4, R778). -/
def reportedUnit (cause unit : Nat) : Nat := if [1, 2, 3, 4, 11].contains cause ∧ unit < 128 then unit / 8 else unit

/-- A check fires during the Breath. The known-sum test that ends a STOP_PIN or a RESTORE is repeated once and then ends
the command with INTERNAL 0x0090 (R356, R600); a closing Breath and the administrative train see cause 15 alone. -/
def execCheckFailure (train cause core unit : Nat) (s : State) : Host.Outcome State Fault Refusal :=
  let x := s.train train
  if (x.phase ≠ .working ∧ x.phase ≠ .sealing) ∨ !s.powered ∨ 15 < cause ∨ ((x.closing ∨ train = adminTrain) ∧ cause ≠ 15)
      ∨ !s.activeTrains.contains train ∨ !s.checkFires train cause core unit then .next s
  else if cause ≠ 7 then .next (s.latchFailure train cause core (reportedUnit cause unit))
  else match s.pinning train core, s.repinning train core with
    | some w, _ => .next (s.macroFails w core unit (fun s => s.rewritePin w core unit) (fun s r => s.endPin w core r))
    | none, some w => .next (s.macroFails w core unit id (fun s r => (s.failRestore w w.stream r).modPart (core / 16) (fun p =>
        { p with fault := if p.fault = 0 then 1 else p.fault })))
    | none, none => .next (s.latchFailure train cause core unit)

/-- The range monitors whose windows are full are evaluated (R376): cause 9 in fault mode, STOP_MONITOR tied to the pass. -/
def State.evalMonitors (s : State) (t : Nat) : State :=
  let o := (s.train t).objects
  let full := o.monitors.filter (fun m => decide (m.window ≤ m.runs))
  let s := full.foldl (fun s m =>
    if m.outside then
      let s := s.addResultEvent t (s.event 0x0305 1 t 0xFFFF 0xFF (flag o.monitorFault)
        (leBytes 4 m.residency ++ [byte m.matrix, byte m.statistic] ++ leBytes 2 m.record ++ leBytes 4 (encode32 m.value)))
      if o.monitorFault then s.modTrain t (fun x => { x with causes := Nat.lor x.causes 512, core := 0xFFFF, unit := 0xFF }) else s
    else s) s
  s.modObjects t (fun o => { o with monitors := o.monitors.map (fun m => if m.window ≤ m.runs then m.reopen else m) })

/-- SEAL_STATUS (R535). -/
def State.noteSeal (s : State) (t : Nat) (failed : Bool) : State :=
  s.modTrain t (fun x => { x with sealStatus := {
    breath := x.breath, consort := s.consort.member && decide (t < 16), failed := failed, causes := x.causes
    failures := x.failures, core := x.core, unit := x.unit } })

/-- Written marks of the Breath's writes and fills (R586). -/
def State.applyMarks (s : State) (t : Nat) : State :=
  let x := s.train t
  let n := s.groupSize t
  let on (g p : Nat) : Bool := t + g % n == p
  let s := (s.members t).foldl (fun s p => s.modPart p (fun y => { y with
    unmarked := (y.unmarked.filter (fun q => !x.marks.any (fun g => on g p && g / n == q)))
      ++ ((x.unmarks.filter (fun g => on g p)).map (· / n)).filter (fun q => !y.unmarked.contains q) })) s
  s.modTrain t (fun x => { x with marks := [], unmarks := [] })

/-- BAR2 writes held for a group, applied oldest first; those to undrained frozen pages stay (R538, R593). -/
def State.applyHeld (s : State) (t : Nat) : State :=
  let n := s.groupSize t
  let stays (h : HeldWrite) : Bool := match (s.train t).checkpoint with
    | some c => c.active && c.left.any (fun a => (Range.mk a pageBytes).meets ⟨unmapHbm t n h.part h.addr, h.data.length⟩)
    | none => false
  let mine := s.dev.heldWrites.filter (fun h => (s.members t).contains h.part && !stays h)
  let s := s.modDev (fun d => { d with heldWrites := d.heldWrites.filter (fun h => !((s.members t).contains h.part && !stays h)) })
  (mine.foldl (fun s h => s.hbmWrite t (unmapHbm t n h.part h.addr) h.data) s).applyMarks t

/-- Everything that a successful command commits. -/
def State.commitAny (s : State) (w : Work) : State :=
  match w.cmd with
  | .restore .. => s.commitRestore w
  | _ => s.commit w

/-- The late and re-run bits of a STREAM_DAMAGED reply (R143). -/
def Work.sealedDetail (w : Work) : Work :=
  if w.status = 0x70 then { w with detail := splice (fit 16 w.detail) 14 [byte (flag w.late + 2 * flag w.replayed)] } else w.withCycles

/-- Partitions that own failing cores of a finished DIAG_RUN are faulted (R552). -/
def State.faultDiag (s : State) (w : Work) : State :=
  if w.cmd.opcode = 0xC0 ∧ w.status = 0 then
    w.aux.foldl (fun s c => s.modPart (c / 16) (fun p => { p with fault := if p.fault = 0 then 5 else p.fault })) s
  else s

/-- The jobs among the commands that leave which a drain limit ended, for the reply of its PART_GROUP (R96, R202). -/
def State.countDrained (s : State) (t : Nat) (done : List Work) : State :=
  match s.regroupOf t with
  | none => s
  | some g =>
    let n := (done.filter (fun w => w.behaviour == .sliced && w.status == 0x30 && field w.detail 0 2 == 2)).length
    s.modWork adminTrain g.id (fun w => { w with aux := [w.aux.headD 0 + n] })

/-- Finished commands leave with their slots and replies, with the refusals that were due (R123, R160). -/
def State.releaseFinished (s : State) (t : Nat) : State :=
  let b := s.breathOf t
  let done := ((s.train t).works.filter (fun w => !w.live)).map Work.sealedDetail
  let s := done.foldl (fun s w => s.returnSlots b { w with status := w.finalStatus }) (s.countDrained t done)
  let dues := (s.train t).due ++ done.map Work.toDue
  let s := s.modTrain t (fun x => { x with works := x.works.filter (·.live), due := [] })
  done.foldl (fun s w => s.faultDiag w) (s.release t b dues)

/-- Events tied to results are raised (R553). -/
def State.raiseResults (s : State) (t : Nat) : State :=
  let es := (s.train t).resultEvents
  let s := s.modTrain t (fun x => { x with resultEvents := [] })
  es.foldl (fun s e => s.raise (if t < 16 then t + 1 else 0) { e with time := s.clock.time, breath := s.breathOf t, part := if t < 16 then t else 0xFF }) s

/-- Every train is idle but for the SHUTDOWN in progress (R198). -/
def State.allIdle (s : State) : Bool :=
  s.activeTrains.all (fun t => (s.train t).idle (s.dev.shutdownWork.getD 0xFFFFFFFFFFFFFFFF))

/-- Everything staged and idle in a shutdown: the open folio closes (R198). -/
def State.shutdownIdle (s : State) : State :=
  if s.dev.state == .shuttingDown && s.allIdle then s.closeFolio else s

/-- The ABORT record of a train (R554). -/
def State.stageAbort (s : State) (t reason first : Nat) : State :=
  s.stageEvent 0xC3 t (if t < 16 then t else 0xFF) (leBytes 2 reason ++ leBytes 6 first ++ [byte (if t < 16 then s.groupSize t else 0)])

/-- A passed seal of a Breath that is not a closing one. -/
def State.passSeal (s : State) (t : Nat) : State :=
  let s := (s.modTrain t (fun x => { x with failures := 0, repairs := [], repaired := [] })).noteSeal t false
  let s := s.modTrain t (fun x => { x with works := x.works.map (fun w => { w with
    carried := w.carried.map (fun c => { c with committed := c.working }) }) })
  let s := s.forceDeregister t
  let s := s.modTrain t (fun x => { x with works := x.works.map (fun w =>
    if w.stage = .waiting ∧ w.status ≠ 0 then w.finish w.status w.detail else { w with stepsSealed := w.stepsDone, struck := false }) })
  let s := ((s.train t).works.filter (fun w => !w.live && w.status == 0)).foldl (fun s w => s.commitAny w) s
  let s := ((s.applyMarks t).sealDrain t (s.breathOf t)).freezeAt t (s.breathOf t)
  let struck := (s.train t).works.any (fun w => !w.live && w.status == 0x50)
  let s := (s.modTrain t (fun x => { x with phase := .decided, journal := [] })).releaseFinished t
  let s := if struck then s.stageAbort t 0x0F03 (s.train t).firstFailed else s
  ((s.raiseResults t).applyHeld t).shutdownIdle

/-- A failed seal (R544, R547): the next Breath is a re-run, or after three failures a closing Breath. -/
def State.failSeal (s : State) (t : Nat) : State :=
  let x := s.train t
  let n := x.failures + 1
  let s := s.setTrain t { x with
    failures := n, firstFailed := if x.failures = 0 then x.breath else x.firstFailed, lastCauses := x.causes, rerun := true
    closeNext := x.closeNext || decide (3 ≤ n), phase := .decided, forming := [], resultEvents := []
    marks := [], unmarks := [], works := x.works.map (fun w =>
      if w.stage = .waiting ∧ w.status ≠ 0 then { w with status := 0, detail := [], unexecuted := false } else w) }
  let s := if t = adminTrain then s.revertPolicy else s
  let s := s.noteSeal t true
  let s := (s.members t).foldl (fun s p =>
    let k := satAdd 32 (s.part p).sealFails 1
    (s.modPart p (fun y => { y with sealFails := k })).saturated p (blockBase p + 0x3000) (s.part p).sealFails k) s
  let s := if t < 16 then
      (s.members t).foldl (fun s p => s.modFn (p + 1) (fun f => { f with events := { f.events with status := Nat.lor f.events.status 32 } })) s
    else s
  let s := s.raiseL t 0x0401 2 x.core x.unit 0 (leBytes 2 x.causes ++ [byte n])
  s.stageEvent 0xC2 t (if t < 16 then t else 0xFF) (leBytes 2 x.causes ++ leBytes 2 x.core ++ [byte x.unit, byte n])

/-- INTEGRITY_ABORT detail (Table 15.4). -/
def Train.abortDetail (x : Train) (reason : Nat) : List Byte :=
  ({ status := 0x50, reason := reason
     tail := leBytes 6 x.firstFailed ++ leBytes 2 x.lastCauses ++ leBytes 2 x.sealStatus.core ++ [byte x.sealStatus.unit, byte x.failures] }
    : Refuse).detail

/-- The seal of a closing Breath (R548, R577, R580): every command of the train ends. -/
def State.closeSeal (s : State) (t : Nat) : State :=
  let x := s.train t
  let abort := x.closeStatus = 0x50
  let inSet (w : Work) : Bool := x.saved.admitted.any (·.work == w.id)
  let reason := if x.works.any inSet then 0x0F01 else 0x0F02
  let s := s.modTrain t (fun x => { x with
    works := x.works.map (fun w => w.finish x.closeStatus (if abort then x.abortDetail (if inSet w then 0x0F01 else 0x0F02) else x.closeDetail))
    admitted := [], forming := [], rerun := false, checkpoint := none, phase := .decided })
  let s := s.modTrain t (fun y => { y with sealStatus := { y.sealStatus with breath := y.breath, failed := false, causes := 0, failures := 0 } })
  let s := s.releaseFinished t
  let s := if abort then s.stageAbort t reason x.firstFailed else s
  let s := s.modTrain t (fun y => { y with
    closing := false, failures := 0, closed := y.closed || decide (t = adminTrain) || !abort, closeStatus := 0x50, closeDetail := [] })
  if abort ∧ t < 16 then
    ((s.members t).foldl (fun s p => s.modPart p (fun y => { y with fault := if y.fault = 0 then 2 else y.fault })) s).modTrain t
      (fun y => { y with halt := .faulted, phase := .stopped })
  else s

/-! Stopping of trains (R47, R97, R564, R595, R710). -/

/-- Every train has stopped for a Chanter restart: the device state changes and the event is raised (R710). -/
def State.noteRestart (s : State) : State :=
  if s.dev.restartCause ≠ 0 ∧ (s.dev.state = .ready ∨ s.dev.state = .shuttingDown) ∧ s.activeTrains.all (fun t => (s.train t).halt != .none) then
    (s.modDev (fun d => { d with state := .restarting, kept := some s.chanterWords })).raiseD 0x0107 1 0xFF 0 [byte s.dev.restartCause]
  else s

/-- After a decided seal, the train stops if something asks for it. -/
def State.settle (s : State) (t : Nat) : State :=
  let x := s.train t
  let stop (h : Halt) : State := (s.modTrain t (fun x => { x with
    halt := h, phase := .stopped, stopFor := if x.stopFor = h then .none else x.stopFor })).noteRestart
  if x.halt ≠ .none ∨ x.phase ≠ .decided then s.noteRestart
  else if x.stopFor = .restart ∧ (s.dev.restartCause = 2 ∨ x.clearOfWork) then stop .restart
  else if x.rerun ∨ x.closing ∨ x.closeNext then s
  else if x.stopFor = .formation then stop .formation
  else if s.stopsHere t then stop .snapshot
  else if x.draining ∧ (s.regroupOf t).isSome ∧ x.idle then stop .regroup
  else s

/-! Regrouping (R92 to R100). -/

/-- A bitmap of partitions. -/
def bitmap (ps : List Nat) : Nat := ps.foldl (fun n p => n + 2 ^ p) 0

/-- The oldest issued regroup whose trains have all stopped (R97). -/
def State.regroup? (s : State) : Option (Work × Nat × Nat × Nat × Nat × Nat) :=
  (s.outside (fun c => c.opcode == 0x11)).findSome? (fun w => match w.cmd with
    | .partGroup b bs ns step n5 _ =>
      if s.leaders.all (fun t => decide (t < b ∨ b + bs ≤ t) || (s.train t).halt == .regroup || (s.train t).halt == .faulted) then
        some (w, b, bs, ns, step, n5)
      else none
    | _ => none)

/-- The drain limit elapses (R96): every unfinished job of each train whose own limit has elapsed is ended. -/
def execDrainLimit (s : State) : Host.Outcome State Fault Refusal :=
  .next (s.leaders.foldl (fun s t => if s.drainElapsed t then s.cutTrain t 2 else s) s)

/-- Refusals due at the trains of a block are released before its queues are emptied (R95, R97). -/
def State.releaseDue (s : State) (t : Nat) : State :=
  let x := s.train t
  if x.due = [] then s else (s.modTrain t (fun x => { x with due := [] })).release t x.breath x.due

/-- The new grouping of a block (R97, R98): the PART_GROUP's reply follows the first seal of the block's lowest group. -/
def State.applyRegroup (s : State) (w : Work) (b bs ns step n5 : Nat) : State :=
  let block := (List.range bs).map (· + b)
  let old := s.leaders.filter block.contains
  let s := old.foldl (fun s t => s.releaseDue t) s
  let top := old.foldl (fun (x : Train) t => if x.next < (s.train t).next then s.train t else x) (s.train b)
  let seals := block.map (fun p => (s.train (s.leaderOf p)).sealStatus)
  let handles := (List.range 6).map (fun k => block.foldl (fun n p => max n ((s.train p).objects.handles.getD k 0)) 0)
  let s := old.foldl (fun s t => s.clearGroup t) s
  let s := block.foldl (fun s p =>
    let leader := b + (p - b) / ns * ns
    (s.modPart p (fun x => { x with leader := leader, size := ns, shareNext := none })).setTrain p {
      breath := top.breath, next := top.next, start := top.start, startTime := top.startTime, n5 := n5, step := step
      objects := { handles := handles }, sealStatus := seals.getD (p - b) {} }) s
  let news := s.leaders.filter block.contains
  let done := (w.finish 0 (leBytes 2 (bitmap old) ++ leBytes 2 (bitmap news) ++ leBytes 2 (w.aux.headD 0)))
  let s := s.modTrain adminTrain (fun x => { x with works := x.works.filter (·.id != w.id) })
  s.modTrain b (fun x => { x with works := [{ done with train := b }] })

/-- Every affected train has stopped: the regroup is applied. -/
def execRegroupApply (s : State) : Host.Outcome State Fault Refusal :=
  match s.regroup? with
  | none => .next s
  | some (w, b, bs, ns, step, n5) =>
    if s.powered then .next ((s.applyRegroup w b bs ns step n5).checkRings) else .next s

/-! The end of a shutdown (R713). -/

/-- The SHUTDOWN reply has been released: its record is the last of the last folio, and the device is HALTED (R713). -/
def State.enterHalted (s : State) : State :=
  if s.dev.state == .shuttingDown && s.dev.shutdownWork.isSome && (s.dev.shutdownWork.bind (s.work? adminTrain)).isNone then
    let s := (s.closeFolio 4).modDev (fun d => { d with state := .halted, shutdownWork := none })
    s.activeTrains.foldl (fun s t => s.modTrain t (fun x => { x with halt := .halted, phase := .stopped })) s
  else s

end Sys2Proof.Machine
end

