-- ==== Sys2Proof/Machine/Consort.lean ====
section
/-! DEFINITION. The consort: formation, timebase alignment, the consort verdict, departures, and the starts and seals of
Breaths (chapter 16, R45, R52, R535, R544). -/

namespace Sys2Proof.Machine

def State.modConsort (s : State) (g : Consort → Consort) : State := { s with consort := g s.consort }

/-! Formation (R562 to R565). -/

/-- Formation ends without success: no card is left formed, trains restart. -/
def State.endFormation (s : State) (r : Refuse) : State :=
  match s.consort.forming with
  | none => s
  | some id =>
    let s := s.failWork adminTrain id r
    let s := { s with consort := {}, links := s.links.map (fun (l : Link) => { l with named := false, state := 0 }) }
    s.activeTrains.foldl (fun s t => s.modTrain t (fun x => { x with
      halt := if x.halt = .formation then .none else x.halt, stopFor := if x.stopFor = .formation then .none else x.stopFor })) s

/-- Formation fails at this card: every other member is told the reason and the first bytes of its detail (R563; the
coding is the model's: assumption 36). -/
def State.failFormation (s : State) (r : Refuse) : State :=
  if s.consort.forming.isNone then s
  else (s.sendAll 6 [6, s.consort.card, 0, r.reason + 65536 * leVal (r.tail.take 6)] []).endFormation r

/-- Byte ranges of the configuration block's fields, by bit of the field bitmap (Table 16.4). -/
def blockFields : List (Nat × Nat) :=
  [(2, 1), (3, 2), (6, 2), (8, 2), (16, 32), (48, 32), (80, 16), (96, 32), (128, 16), (144, 16)]
/-- The field bitmap of two blocks. -/
def blockDiff (a b : List Byte) : Nat :=
  (blockFields.mapIdx (fun i (o, k) => if slice a o k = slice b o k then 0 else 2 ^ i)).foldl (· + ·) 0

/-- The checks of a HELLO at a named port (R563): the first failure. -/
def State.helloProblem (s : State) (port card members topology : Nat) (block : List Byte) : Option Refuse :=
  let c := s.consort
  let k := s.namedPorts.findIdx (· == port)
  let expected := c.neighbour k
  if members ≠ c.members ∨ topology ≠ c.topology then some (mismatch 0x1005 (zeros 4 ++ [byte card]))
  else if card = c.card ∨ c.members ≤ card then some (mismatch 0x1004 (zeros 4 ++ [byte card]))
  else if card ≠ expected then some (mismatch 0x1003 (zeros 4 ++ [byte c.card, byte port, byte expected, byte card]))
  else
    let d := blockDiff (s.configBlock c.topology c.members s.microcode) block
    if d ≠ 0 then some (mismatch 0x1002 (leBytes 4 d ++ [byte card])) else none

/-- A HELLO frame (R563). -/
def execHello (link : FrameLink) (card members topology port : Nat) (block : List Byte) (s : State) :
    Host.Outcome State Fault Refusal :=
  let (ok, s) := s.takeFrame link
  if !ok then .next s
  else if s.consort.forming.isNone || !(s.link link.port).named then .next (s.linkViolation link.port)
  else match s.helloProblem link.port card members topology block with
    | some r => .next (s.failFormation r)
    | none =>
      let s := s.modLink link.port (fun l => { l with farCard := card })
      .next (s.modConsort (fun c => { c with
        heard := if c.heard.contains card then c.heard else card :: c.heard
        agreed := if c.agreed.contains port then c.agreed else port :: c.agreed }))

/-- Formation is complete (R563 to R565): counters, cleared groups, the reply. -/
def State.form (s : State) (id start adminBreath : Nat) (groupBreaths : List Nat) : State :=
  let s := s.leaders.foldl (fun s t =>
    (s.clearGroup t).modTrain t (fun x => { x with
      next := max x.next (groupBreaths.getD t x.next), halt := .none, stopFor := .none, phase := .stopped, closed := false })) s
  let s := s.modTrain adminTrain (fun x => { x with next := adminBreath, halt := .none, stopFor := .none, phase := .stopped })
  let s := s.modConsort (fun c => { c with member := true, forming := none, start := start, phaseGood := 0, phaseBad := 0 })
  s.finishWork adminTrain id 0 ([0, byte s.consort.members] ++ leBytes 6 adminBreath)

/-- All members agree and phase errors have settled; the leader has announced T0. -/
def execFormationComplete (start adminBreath : Nat) (groupBreaths : List Nat) (s : State) : Host.Outcome State Fault Refusal :=
  match s.consort.forming with
  | none => .next s
  | some id =>
    let ready := s.activeTrains.all (fun t => [Halt.formation, .faulted].contains (s.train t).halt)
      && s.namedPorts.all (fun p => (s.link p).state == 2) && decide (s.consort.card = 0 ∨ 16 ≤ s.consort.phaseGood)
      && decide ((s.train adminTrain).next ≤ adminBreath ∧ s.clock.timebase ≤ start)
    .next (if ready && s.powered then s.form id start adminBreath groupBreaths else s)

/-- The timeout of the CONSORT_FORM in progress has passed since its acceptance (R563). -/
def State.formationOver (s : State) : Bool :=
  match s.consort.forming.bind (s.work? adminTrain) with
  | some w => match w.cmd with
    | .consortForm _ _ _ _ _ timeout => decide (w.arrived + 100000 * timeout ≤ s.clock.timebase)
    | _ => false
  | none => false

/-- The timeout of a CONSORT_FORM expires (R563). -/
def execFormationTimeout (heard : Nat) (s : State) : Host.Outcome State Fault Refusal :=
  .next (if s.powered && s.formationOver then s.failFormation (mismatch 0x1006 (zeros 8 ++ leBytes 2 heard)) else s)

/-! Departures (R577, R580 to R582). -/

/-- Every group's next Breath is a closing Breath that ends with a status and detail; a group already closing keeps its own. -/
def State.closeGroups (s : State) (r : Refuse) : State :=
  s.leaders.foldl (fun s t => s.modTrain t (fun x =>
    if x.closing || x.closeNext || x.closed then x
    else { x with closeNext := true, closeStatus := r.status, closeDetail := r.detail })) s

/-- The events and records of a departure: `kind` 2 left, 3 ejected, 4 quarantined (R580). -/
def State.noteGone (s : State) (card cause kind : Nat) : State :=
  let s := s.raiseD (if kind = 4 then 0x0607 else 0x0606) (if kind = 4 then 3 else 2) 0xFF 0 [byte card, byte cause]
  if card ≠ s.consort.card ∨ kind = 4 then
    s.stageEvent 0x90 adminTrain 0xFF [byte kind, byte cause, byte card, byte s.consort.members]
  else s

/-- The card leaves the consort (R565, R581): groups cleared, counters and settings kept. Every CONSORT_LEAVE in progress ends with
the Breath after which it left; a card that left otherwise names the administrative Breath of its departure (DESIGN CHOICE,
assumption 118). -/
def State.leaveConsort (s : State) : State :=
  let quarantined := s.consort.gone.any (fun (c, cause) => c == s.consort.card && cause == 3)
  let left := s.consort.leave
  let b := s.consort.leftAt.getD s.adminBreath
  let s := s.leaders.foldl (fun s t =>
    (s.clearGroup t).modTrain t (fun x => { x with
      closed := false, halt := if x.halt = .faulted ∨ x.halt = .reset ∨ x.halt = .restart then x.halt else .none
      phase := .stopped })) s
  let s := { s with consort := {}, links := s.links.map (fun (l : Link) => { l with named := false, state := 0 }) }
  let s := if quarantined then (List.range 16).foldl (fun s p => s.modPart p (fun x => { x with fault := 3 })) s else s
  left.foldl (fun s x => s.finishWork adminTrain x.1 0 (leBytes 6 b)) s

/-- A card that has left ends its membership once every group has closed. -/
def State.tryLeave (s : State) : State :=
  if s.consort.member && s.consort.gone.any (·.1 == s.consort.card)
      && s.leaders.all (fun t => (s.train t).closed || ((s.train t).halt != .none && (s.train t).halt != .restart)) then s.leaveConsort.checkRings
  else s

/-- A member departs. -/
def State.memberGone (s : State) (card cause kind : Nat) : State :=
  if !s.consort.member || s.consort.gone.any (·.1 == card) || decide (s.consort.members ≤ card) then s
  else
    let s := s.modConsort (fun c => { c with gone := c.gone ++ [(card, cause)] })
    let s := if card = s.consort.card ∧ kind = 2 then s else s.noteGone card cause kind
    (s.closeGroups (Machine.ejected (if card = s.consort.card then 0x1020 else 0x1021) card cause)).tryLeave

/-- Announced leaves whose Breath has ended (R582). -/
def State.applyLeaves (s : State) (ended : Nat) : State :=
  let own := s.consort.leave.filter (fun x => decide (x.2 ≤ ended))
  let s := if own ≠ [] ∧ s.consort.leftAt.isNone then s.modConsort (fun c => { c with leftAt := some ended }) else s
  if own.any (fun x => s.others.all (fun c => s.consort.leaves.contains (c, x.2))) then
    ((s.closeGroups { status := 0x61, reason := 0x1023, tail := zeros 5 ++ [5] }).modConsort (fun c => { c with
      gone := c.gone ++ [(c.card, 5)] })).tryLeave
  else
    let s := (s.consort.leaves.filter (fun x => decide (x.2 ≤ ended))).foldl (fun s x => s.memberGone x.1 5 2) s
    if own = [] then s else s.memberGone s.consort.card 5 2

/-! The consort verdict (R575 to R579). -/

/-- The object table of a group: the live handles of each kind and the last ones issued. -/
def Objects.table (o : Objects) : List (List Nat) :=
  [o.models.map (·.handle), o.residencies.map (·.handle), o.programs.map (·.handle), o.pools.map (·.handle)
  , o.sessions.map (·.handle), o.handles]

/-- The sealed control state of a group (R578): its object table, the admitted sets of the 64 Breaths up to this one, the step
counters of its jobs and commands, and the Breath counter. -/
def Train.controlState (x : Train) (t : Nat) : List (List Nat) :=
  [[t, x.breath]] ++ x.objects.table ++ [x.works.flatMap (fun w => [w.id, w.stepsDone])]
    ++ (x.sets.take 64).map (fun y => y.1 :: y.2.flatMap (fun p => [p.1, p.2]))

/-- The digest of a group's sealed control state, at every 64th Breath (R578). -/
def State.controlDigest (s : State) (t : Nat) : List Byte :=
  let x := s.train t
  if x.breath % 64 = 0 then Config.stateDigest (x.controlState t) else []

/-- The verdicts received for the Breath in progress of a group. -/
def State.verdictsOf (s : State) (t : Nat) : List Verdict :=
  s.consort.verdicts.filter (fun v => v.group == t && v.breath == s.breathOf t)

/-- The seal of train `t` acted on: pass, failure, or the end of a closing Breath. -/
def State.actSeal (s : State) (t : Nat) (pass : Bool) (causes : Nat) : State :=
  let s := s.modTrain t (fun x => { x with causes := Nat.lor x.causes causes })
  let s := s.modConsort (fun c => { c with verdicts := c.verdicts.filter (·.group != t) })
  let s := if (s.train t).closing then s.closeSeal t else if pass then s.passSeal t else s.failSeal t
  ((s.settle t).enterHalted.tryLeave).checkRings

/-- Members outside the largest set of equal digests, if that set is more than half of all (R579). -/
def outliers (members : Nat) (ds : List (Nat × List Byte)) : Option (List Nat) :=
  let count (d : List Byte) : Nat := (ds.filter (·.2 == d)).length
  match ds.find? (fun x => decide (members < 2 * count x.2)) with
  | some x => some ((ds.filter (·.2 != x.2)).map (·.1))
  | none => none

/-- Differing digests: quarantine of the minority, or the end of the consort (R579). -/
def State.compareDigests (s : State) (t : Nat) (vs : List Verdict) : State :=
  let ds := vs.map (fun v => (v.card, v.digest))
  let close (s : State) (card : Nat) : State := s.modTrain t (fun x => { x with
    closeNext := true, closeStatus := 0x60, closeDetail := (mismatch 0x1011 (zeros 4 ++ [byte card])).detail })
  if s.breathOf t % 64 ≠ 0 ∨ ds.all (fun x => x.2 == (ds.headD (0, [])).2) then s
  else match outliers ds.length ds with
    | some bad => bad.foldl (fun s c =>
        (s.sendAll 6 [2, c, 3, 0] []).memberGone c 3 4) (close s (bad.foldl min 0xFF))
    | none => ((close s 0xFF).sendAll 6 [1, 0xFF, 4, 0] []).memberGone s.consort.card 4 3

/-- The leader decides once every member's verdict is there (R575). -/
def State.decideConsort (s : State) (t : Nat) : State :=
  let vs := s.verdictsOf t
  let need := s.consort.card :: s.others
  if need.all (fun c => vs.any (·.card == c)) then
    let pass := vs.all (·.pass)
    let follower := vs.any (fun v => v.card != s.consort.card && !v.pass)
    let s := s.modTrain t (fun x => { x with causes := if follower then Nat.lor x.causes 0x4000 else x.causes })
    let s := s.compareDigests t vs
    let s := s.sendAll 5 [t, s.breathOf t, flag pass, (s.train t).causes] []
    s.actSeal t pass 0
  else s

/-- The own seal of a consort group's Breath (R575). -/
def State.ownVerdict (s : State) (t : Nat) : State :=
  let x := s.train t
  let v : Verdict := { card := s.consort.card, group := t, breath := x.breath, pass := x.closing || decide (x.causes = 0)
                       causes := x.causes, digest := s.controlDigest t }
  if (s.verdictsOf t).any (·.card == s.consort.card) then s
  else
    let s := s.modConsort (fun c => { c with verdicts := v :: c.verdicts })
    if s.consort.card = 0 then s.decideConsort t
    else s.sendTo 0 5 [s.consort.card, t, v.breath, flag v.pass, v.causes] v.digest

/-! Starts and seals of Breaths. -/

/-- What happens around an administrative Breath start: leaves take effect (R582), TIME_SETs apply, the TIME frame is sent,
notices of a leave or a stop just issued go out (R595). -/
def State.beginAdmin (s : State) : State :=
  let leave := s.consort.leave
  let stop := s.dev.stopWork
  let n := s.adminBreath
  let s := (s.begin adminTrain).applyTimes (s.train adminTrain).next
  let x := s.train adminTrain
  let s := match s.dev.stopWork with
    | none => s
    | some id => match s.work? adminTrain id with
      | some w => match w.cmd with
        | .snapshotStop b _ _ =>
          let s := if stop.isNone ∧ s.consort.member then s.sendAll 6 [3, s.consort.card, 0, b] [] else s
          if b = x.breath then s.modWork adminTrain id (fun w => { w with aux := [x.start + periodUnits x.n5] }) else s
        | _ => s
      | none => s
  if s.consort.member then
    let s := if s.consort.card = 0 then s.sendAll 2 [x.start] [] else s
    ((s.consort.leave.filter (fun x => !leave.contains x)).foldl (fun s x => s.sendAll 6 [0, s.consort.card, 5, x.2] []) s).applyLeaves n
  else s

/-- A Breath start (R45, R49, R52). -/
def execBreathStart (train : Nat) (s : State) : Host.Outcome State Fault Refusal :=
  if !s.mayBegin train then .next s
  else if train = adminTrain then .next s.beginAdmin
  else .next (s.begin train)

/-- The seal decision (R535): in the last 2 µs of the Breath. A stopped train still releases refusals by a seal at the same
place of the grid, but while its group resets or the Chanter restarts (R132, assumption 25). -/
def execSealDecision (train : Nat) (s : State) : Host.Outcome State Fault Refusal :=
  let x := s.train train
  let P := periodUnits x.n5
  let T := s.clock.timebase
  if !s.powered ∨ !s.activeTrains.contains train then .next s
  else if x.phase = .stopped then
    if [Halt.faulted, .halted, .regroup, .snapshot, .formation].contains x.halt ∧ P - 200 ≤ T % P ∧ T % P ≤ P - 50 ∧ x.due ≠ [] then
      .next (s.releaseDue train).checkRings
    else .next s
  else if x.phase ≠ .sealing ∨ T < x.start + P - 200 ∨ x.start + P - 50 < T then .next s
  else
    let s := if x.closing then s else s.evalMonitors train
    let alone := !s.consort.member || decide (train = adminTrain) 
      || s.consort.gone.any (fun x => x.1 == s.consort.card || (x.1 == 0 && s.consort.card != 0))
    .next (if alone then s.actSeal train (decide ((s.train train).causes = 0)) 0 else s.ownVerdict train)

/-! Frames of a formed consort (R571, R573 to R577). -/

/-- A phase error of a follower reported (R574). -/
def State.phaseEvent (s : State) (err card : Nat) : State :=
  let (ok, s) := s.once 0x0605 card
  if ok then s.raiseD 0x0605 1 0xFF 0 (leBytes 4 err ++ [byte card]) else s

/-- A TIME frame (R563, R573, R574): during formation the timebase is stepped to the leader's; afterwards the error is
measured. -/
def execTime (link : FrameLink) (leaderTimebase delay : Nat) (phaseError : Int) (s : State) : Host.Outcome State Fault Refusal :=
  let (ok, s) := s.takeFrame link
  let size := phaseError.natAbs
  let word := (phaseError % (2 ^ 32 : Int)).toNat
  if !ok then .next s
  else if s.consort.forming.isSome && s.consort.card != 0 then
    let s := s.modConsort (fun c => { c with phase := phaseError, phaseGood := if size ≤ 200 then c.phaseGood + 1 else 0 })
    .next (if size ≤ 200 then s else { s with clock := { s.clock with timebase := leaderTimebase + delay / 10 } })
  else if !s.follows then .next (s.linkViolation link.port)
  else
    let s := s.modConsort (fun c => { c with phase := phaseError, phaseBad := if 1000 < size then c.phaseBad + 1 else 0 })
    let s := if 200 < size then (s.phaseEvent word s.consort.card).sendTo 0 6 [5, s.consort.card, 0, word] [] else s
    .next (if 8 ≤ s.consort.phaseBad then
        (s.sendAll 6 [1, s.consort.card, 1, 0] []).memberGone s.consort.card 1 3
      else s)

/-- An ADMIT frame (R571): the set that the follower issues at its next Breath start. -/
def execAdmitFrame (link : FrameLink) (group breath : Nat) (steps : List AdmitStep) (s : State) : Host.Outcome State Fault Refusal :=
  let (ok, s) := s.takeFrame link
  if !ok then .next s
  else if !s.follows || !s.leaders.contains group || decide ((s.train group).next ≠ breath) then .next (s.linkViolation link.port)
  else .next (s.modTrain group (fun x => { x with
    forming := steps.map (fun a => {
      work := a.work, step := a.step, cycles := a.cycles, breath := breath
      energy := ((x.work? a.work).map (fun w => (w.stepCost a.step).energy)).getD 0 }) }))

/-- A DATA frame (R559, R575): provisional bytes of the Breath in progress, which a failed verdict takes back. -/
def execData (link : FrameLink) (breath part addr : Nat) (bytes : List Byte) (s : State) : Host.Outcome State Fault Refusal :=
  let (ok, s) := s.takeFrame link
  let t := s.leaderOf part
  let x := s.train t
  if !ok then .next s
  else if !s.consort.member || decide (x.breath ≠ breath ∨ partBytes < addr + bytes.length) || ! [Phase.working, .sealing].contains x.phase then
    .next (s.linkViolation link.port)
  else
    let g := unmapHbm t (s.groupSize t) part addr
    .next ((s.modTrain t (fun x => { x with
      journal := x.journal ++ [⟨g, bytes.length⟩]
      marks := if x.marks.contains (g / pageBytes) then x.marks else g / pageBytes :: x.marks })).modPart part (fun p => { p with
        hbm := p.hbm.write addr bytes }))

/-- The deadline of a verdict at this card (Table 16.7): 0.1 µs after the Breath on the leader, 0.5 µs on a follower. -/
def State.verdictDue (s : State) (group : Nat) : Nat :=
  let x := s.train group
  x.start + periodUnits x.n5 + (if s.consort.card = 0 then 10 else 50)

/-- Verdicts missing at their deadline (R577): the leader ejects the followers that it has not heard, a follower ejects itself.
A missing verdict does not count towards R547. -/
def State.verdictMissing (s : State) (group : Nat) : State :=
  let x := s.train group
  let act (s : State) : State := (s.actSeal group false 0x4000).modTrain group (fun y => { y with failures := x.failures })
  if s.consort.card = 0 then
    let vs := s.verdictsOf group
    let missing := s.others.filter (fun c => !vs.any (·.card == c))
    if missing = [] then s
    else
      let s := missing.foldl (fun s c => (s.sendAll 6 [1, c, 2, 0] []).memberGone c 2 3) s
      act (s.sendAll 5 [group, x.breath, 0, Nat.lor x.causes 0x4000] [])
  else act ((s.sendAll 6 [1, s.consort.card, 2, 0] []).memberGone s.consort.card 2 3)

/-- A SEAL frame (R575, R576): a member's verdict at the leader, the consort verdict at a follower. One that comes after its
deadline counts as missing (Case 16.2; DEDUCED, assumption 125). -/
def execSealFrame (link : FrameLink) (card group breath : Nat) (pass : Bool) (causes : Nat) (digest : List Byte) (s : State) :
    Host.Outcome State Fault Refusal :=
  let (ok, s) := s.takeFrame link
  let x := s.train group
  if !ok then .next s
  else if !s.consort.member || decide (16 ≤ group) || !s.leaders.contains group || decide (x.breath ≠ breath) then
    .next (s.linkViolation link.port)
  else if x.phase = .sealing ∧ s.verdictDue group < s.clock.timebase then .next ((s.verdictMissing group).linkViolation link.port)
  else if s.consort.card = 0 then
    if !s.others.contains card || (s.verdictsOf group).any (·.card == card) then .next (s.linkViolation link.port)
    else
      .next ((s.modConsort (fun c => { c with
        verdicts := { card := card, group := group, breath := breath, pass := pass, causes := causes, digest := digest } :: c.verdicts })).decideConsort
          group)
  else if card ≠ 0 ∨ x.phase ≠ .sealing ∨ !(s.verdictsOf group).any (·.card == s.consort.card) then .next (s.linkViolation link.port)
  else .next (s.actSeal group pass (if pass then 0 else causes))

/-- The deadline of a group's verdicts passes (R577). -/
def execVerdictDeadline (group : Nat) (s : State) : Host.Outcome State Fault Refusal :=
  if !s.consort.member || decide (16 ≤ group ∨ (s.train group).phase ≠ .sealing ∨ s.clock.timebase < s.verdictDue group) then .next s
  else .next (s.verdictMissing group)

/-- The stop Breath that another member holds (R595). -/
def State.stopNotice (s : State) (card value : Nat) : State :=
  let s := s.modConsort (fun c => { c with stops := (card, value) :: c.stops.filter (·.1 != card) })
  match s.dev.stopWork.bind (s.work? adminTrain) with
  | some w => match w.cmd with
    | .snapshotStop own _ _ =>
      if own = value then s
      else s.failStop w (mismatch 0x1010 (leBytes 6 own))
    | _ => s
  | none => s

/-- A CONTROL frame (R559): 0 leave, 1 eject, 2 quarantine, 3 stop Breath, 4 retraining request, 5 phase error,
6 formation failed at another member (the coding is the model's: assumption 36). -/
def execControl (link : FrameLink) (kind card cause value : Nat) (s : State) : Host.Outcome State Fault Refusal :=
  let (ok, s) := s.takeFrame link
  if !ok then .next s
  else if kind = 4 then .next (s.retrain link.port)
  else if kind = 6 ∧ s.consort.forming.isSome then .next (s.endFormation (mismatch (value % 65536) (leBytes 6 (value / 65536))))
  else if !s.consort.member then .next (s.linkViolation link.port)
  else if kind = 1 ∧ card = 0xFF then .next (s.memberGone s.consort.card cause 3)
  else if s.consort.members ≤ card then .next (s.linkViolation link.port)
  else match kind with
    | 0 => .next (s.modConsort (fun c => { c with leaves := (card, value) :: c.leaves.filter (· != (card, value)) }))
    | 1 => .next (s.memberGone card cause 3)
    | 2 => .next (s.memberGone card cause 4)
    | 3 => .next (s.stopNotice card value)
    | 5 => .next (if s.consort.card = 0 then s.phaseEvent value card else s.linkViolation link.port)
    | _ => .next (s.linkViolation link.port)

/-! Retraining (R560, R563, R804). -/

/-- A training failed: three within a second mark the link down. -/
def State.trainingFailed (s : State) (p : Nat) : State :=
  let now := s.clock.timebase
  let s := s.modLink p (fun l => { l with failedAt := (now :: l.failedAt.filter (fun t => decide (now ≤ t + 100000000))).take 3 })
  if (s.link p).failedAt.length < 3 then s
  else
    let s := (s.modLink p (fun l => { l with state := 3 })).linkEvent 0x0603 2 p []
    if s.consort.member && s.namedPorts.all (fun q => (s.link q).state == 3) then s.memberGone s.consort.card 6 3 else s

/-- A HELLO frame is sent at a port that has trained during formation. -/
def State.greet (s : State) (p : Nat) : State :=
  let c := s.consort
  s.sendPort p 1 [c.card, c.members, c.topology, p] (s.configBlock c.topology c.members s.microcode)

/-- A training of a link ends. -/
def execLinkRetrain (port : Nat) (trained : Bool) (s : State) : Host.Outcome State Fault Refusal :=
  let l := s.link port
  let good := trained && l.usable
  if !l.named ∨ l.state ≠ 1 ∨ !s.powered then .next s
  else if s.consort.forming.isSome then
    if !l.usable then
      .next (s.failFormation (mismatch 0x1003 (zeros 4 ++ [byte s.consort.card, byte port
        , byte (s.consort.neighbour (s.namedPorts.findIdx (· == port))), 0xFF])))
    else if good then
      let s := (s.modLink port (fun l => { l with state := 2 })).greet port
      .next (if s.namedPorts.all (fun p => (s.link p).state == 2) then
          s.activeTrains.foldl (fun s t => s.modTrain t (fun x => { x with stopFor := .formation })) s
        else s)
    else .next (s.trainingFailed port)
  else
    let s := (s.countRetrain port).linkEvent 0x0602 1 port [byte (flag (!good))]
    .next (if good then s.modLink port (fun l => { l with state := 2, failedAt := [] }) else s.trainingFailed port)

end Sys2Proof.Machine
end

