-- ==== Sys2Proof/Machine/Hbm.lean ====
section
/-! DEFINITION. HBM read outcomes, poison, page retirement, and the scrub of CLM (chapter 13, R374, R549, R551). -/

namespace Sys2Proof.Machine

/-- Bytes 28 to 43 of the events that name a page (Table 22.3). -/
def State.pagePayload (s : State) (part page : Nat) : List Byte :=
  let t := s.leaderOf part
  [byte part, 0, 0, 0] ++ leBytes 4 page ++ leBytes 8 (unmapHbm t (s.groupSize t) part (page * pageBytes))

def State.channel (s : State) (part c : Nat) : Channel := (s.part part).channels.getD c {}
def State.modChannel (s : State) (part c : Nat) (g : Channel → Channel) : State :=
  s.modPart part (fun p => { p with channels := modAt p.channels c g })

/-- One error counter of a pseudo-channel counts (R485, R741): 0 corrected, 1 uncorrectable, 2 parity. -/
def State.countChannel (s : State) (part c which : Nat) : State :=
  let x := s.channel part c
  let old := if which = 0 then x.corrected else if which = 1 then x.uncorrectable else x.parity
  let n := satAdd 32 old 1
  (s.modChannel part c (fun x =>
    if which = 0 then { x with corrected := n } else if which = 1 then { x with uncorrectable := n } else { x with parity := n })).saturated
      part (blockBase part + 0x3200 + 0x10 * c + 4 * which) old n

/-- A day of device time in ns. -/
def dayNs : Nat := 86400000000000

/-- A corrected error tracked (R486). -/
def State.trackPage (s : State) (part c page : Nat) : State :=
  let now := s.clock.time
  let xs := (s.part part).suspects
  let times := now :: (((xs.find? (·.page == page)).map (·.times)).getD []).filter (fun t => decide (now ≤ t + dayNs))
  let full := decide (8 ≤ times.length)
  let s := s.modPart part (fun p => { p with
    suspects := ({ page := page, times := if full then [] else times } :: xs.filter (·.page != page)).take 64 })
  if full then s.raiseO 0x0205 1 part 0xFFFF c 0 (s.pagePayload part page) else s

/-- MEM_POISON (Table 13.6). -/
def State.poisonRefuse (s : State) (reason part page c : Nat) : Refuse :=
  let t := s.leaderOf part
  let a := unmapHbm t (s.groupSize t) part (page * pageBytes)
  { status := 0x51, reason := reason
    tail := leBytes 8 (if s.consort.member then s.consort.card * 2 ^ 40 + a else a) ++ [byte part, byte c] }

/-- A running command stops in the step in progress: what it wrote in this Breath holds an incomplete run's values, its sequence
is restored (R464, R488). -/
def State.stopRunning (s : State) (w : Work) (r : Refuse) : State :=
  if w.stage ≠ .running then s
  else
    let s := match (s.train w.train).admitted.find? (fun p => p.work == w.id && !p.done) with
      | some p => s.spoil w p.step (w.stepWrites p.step) r
      | none => s
    (s.undoAppends w.train w).noteOwn w

/-- A command that read poisoned data stops (R487 to R489); a checkpoint has its own reason (Table 17.5). -/
def State.poisonWork (s : State) (w : Work) (reason part page c : Nat) : State :=
  let e := s.poisonRefuse reason part page c
  if w.cmd.opcode = 0x81 then s.failStop w { e with reason := 0x1110 }
  else if w.cmd.opcode = 0x80 then (s.modTrain w.train (fun x => { x with checkpoint := none })).endWork w.train w.id { e with reason := 0x1110 }
  else (s.stopRunning w e).endWork w.train w.id e

/-- A residency whose repair reads the page in the re-run in progress (R374). -/
def State.repairHit (s : State) (t a : Nat) : Option Residency :=
  let x := s.train t
  x.objects.residencies.find? (fun r => x.repaired.any (fun (c, mac) =>
    let g := s.groupCore t c
    decide (r.firstCore ≤ g ∧ g < r.firstCore + r.cores) && x.objects.models.any (fun m => m.handle == r.model
      && (Range.mk (m.addr + 4096 + (g - r.firstCore) * slabBytes + mac * 131072) 131072).meets ⟨a, pageBytes⟩)))

/-- The residency is broken, and the re-run's commands that use it end (R374). -/
def State.breakResidency (s : State) (t : Nat) (r : Residency) (e : Refuse) : State :=
  let mark (o : Objects) : Objects := { o with
    residencies := o.residencies.map (fun x => if x.handle == r.handle then { x with broken := true } else x) }
  let s := s.modTrain t (fun x => { x with objects := mark x.objects, saved := { x.saved with objects := mark x.saved.objects } })
  ((s.train t).works.filter (fun w => w.live && w.uses.contains r.handle && (s.train t).admitted.any (·.work == w.id))).foldl
    (fun s w => s.endWork t w.id e) s

/-- Poisoned data reaches its use: a command, a Stop repair, or a BAR2 read (R374, R487, R490). -/
def State.poisoned (s : State) (part c page reason : Nat) (work : Option Nat) : State :=
  let t := s.leaderOf part
  let a := unmapHbm t (s.groupSize t) part (page * pageBytes)
  let body := s.pagePayload part page
  match work.bind (fun id => s.allWorks.find? (fun w => w.id == id && w.live)), s.repairHit t a with
  | some w, _ => (s.poisonWork w reason part page c).raiseO 0x0203 2 part 0xFFFF c 0 body
  | none, some r => (s.breakResidency t r (s.poisonRefuse reason part page c)).raiseO 0x0203 2 part 0xFFFF c 0 body
  | none, none =>
    ({ s with out := { s.out with poisoned := true } }).raise 0 (s.event 0x0203 2 part 0xFFFF c 1 body)

/-- A pseudo-channel marked failed (Table 13.5). -/
def State.failChannel (s : State) (part c : Nat) : State :=
  let (stack, ch, pc) := channelPlace part c
  let s := (s.modChannel part c (fun x => { x with failed := true })).modDev (fun d => { d with trained := false })
  (s.modPart part (fun p => { p with fault := if p.fault = 0 then 4 else p.fault })).raiseO 0x0204 3 part 0xFFFF c 0
    [byte stack, byte ch, byte pc]

/-- An HBM read outcome (Table 13.5): 1 single-bit and 2 multi-bit corrected, 3 uncorrectable, 4 a parity error gone on
a retry, 5 still there, 6 a command or write parity error gone on a retry, 7 still there; anything else: no error. -/
def execHbmReadOutcome (part channel page outcome : Nat) (work : Option Nat) (s : State) : Host.Outcome State Fault Refusal :=
  if !s.powered || decide (16 ≤ part ∨ 16 ≤ channel) then .next s
  else match outcome with
    | 1 => .next ((s.countChannel part channel 0).trackPage part channel page)
    | 2 =>
      let s := (s.countChannel part channel 0).trackPage part channel page
      let (ok, s) := s.once 0x0202 (16 * part + channel)
      .next (if ok then s.raiseO 0x0202 0 part 0xFFFF channel 0 (s.pagePayload part page) else s)
    | 3 => .next ((s.countChannel part channel 1).poisoned part channel page 0x0D01 work)
    | 4 => .next (s.countChannel part channel 2)
    | 5 => .next ((s.countChannel part channel 2).poisoned part channel page 0x0D02 work)
    | 6 => .next (s.countChannel part channel 2)
    | 7 => .next ((s.countChannel part channel 2).failChannel part channel)
    | _ => .next s

/-! Retirement (R218, R491 to R494). -/

/-- A page entered in the table. -/
def State.retirePage (s : State) (p q : Nat) : State :=
  let s := s.modDev (fun d => { d with retired := d.retired ++ [(p, q)] })
  let s := s.modPart p (fun x => { x with
    retiring := q :: x.retiring, unmarked := if x.unmarked.contains q then x.unmarked else q :: x.unmarked })
  let n := s.dev.retired.length
  let s := if n = 3584 then (s.modDev (fun d => { d with tableHigh := true })).raiseD 0x0206 1 0xFF 0 (leBytes 2 n) else s
  if n = 4096 then (s.modDev (fun d => { d with service := true })).raiseD 0x0207 3 0xFF 0 [1] else s

/-- The flash write of a retirement completes (R491). In a consort a page of another card enters that card's table: its
reply's count is a free value (R569). -/
def execRetireFlashWriteDone (s : State) : Host.Outcome State Fault Refusal :=
  match s.oldestOutside 0x25 with
  | none => .next s
  | some w =>
    match w.cmd with
    | .retirePage a =>
      if !s.powered then .next s
      else if !s.onCard a then
        let (v, s) := s.fresh
        .next (s.finishWork w.train w.id 0 (leBytes 2 v ++ [0]))
      else
        let (p, l) := mapHbm w.train (s.groupSize w.train) (s.localAddr a)
        let q := l / pageBytes
        if s.dev.retired.contains (p, q) then .next (s.finishWork w.train w.id 0 (leBytes 2 s.dev.retired.length ++ [1]))
        else if 4096 ≤ s.dev.retired.length then .next (s.failWork w.train w.id (noResource 0x0016))
        else
          let s := s.retirePage p q
          .next (s.finishWork w.train w.id 0 (leBytes 2 s.dev.retired.length ++ [0]))
    | _ => .next s

/-! CLM (R549, R551, R553). -/

/-- The CLM bank of a line: the sixteen banks in turn by line (PRESUMED, assumption 37). -/
def clmBank (off : Nat) : Nat := off / 64 % 16

/-- The scrub meets an error in a CLM line: corrected and written back, or uncorrectable; `strikes` is the command whose
committed copy or journal line lies there, which fails the seal (Table 15.2, bit 10). -/
def execClmScrub (core off : Nat) (corrected : Bool) (strikes : Option Nat) (s : State) : Host.Outcome State Fault Refusal :=
  let p := core / 16
  if !s.powered || decide (256 ≤ core) then .next s
  else if corrected then
    let old := (s.core core).corrections
    let n := satAdd 32 old 1
    let s := (s.modCore core (fun c => { c with corrections := n, correctedSince := c.correctedSince + 1 })).saturated p
      (blockBase p + 0x3100 + 8 * (core % 16)) old n
    let (ok, s) := s.once 0x0402 core
    .next (if ok then
        (s.raiseO 0x0402 0 p core (clmBank off) 0 (leBytes 4 (s.core core).correctedSince)).modCore core (fun c => { c with
          correctedSince := 0 })
      else s)
  else
    let t := s.leaderOf p
    let fails (x : Train) : Bool := (x.phase == .working || x.phase == .sealing) && !x.closing && x.works.any (fun w => some w.id == strikes)
    let s := s.modTrain t (fun x => { x with
      works := x.works.map (fun w => if some w.id == strikes then { w with struck := true } else w)
      causes := if fails x then Nat.lor x.causes 1024 else x.causes
      core := if fails x then core else x.core
      unit := if fails x then clmBank off else x.unit })
    .next (s.raiseO 0x0403 2 p core (clmBank off) 0 (leBytes 4 off))

end Sys2Proof.Machine
end

