-- ==== Sys2Proof/Machine/Startup.lean ====
section
/-! DEFINITION. Start-up phases, resets, Chanter restart and recovery (chapter 21, R91, R794, R795). -/

namespace Sys2Proof.Machine

/-! Cold and device reset (R706 to R708, Table 21.5). -/

/-- HBM training and contents are kept (R708). -/
def State.keepsTraining (s : State) (cold : Bool) : Bool := !cold && s.dev.keepTraining && s.dev.trained

/-- The state after a cold or device reset: what Table 21.5 keeps beside the reset values. A reset that takes the link
down waits for the link's training as a cold reset waits for PERST#. CONFIG_DIGEST reads zeros until the first admission point
(DESIGN CHOICE, assumption 96). -/
def State.bootReset (s : State) (cold linkDown : Bool) : State :=
  let d := s.dev
  let kept := s.keepsTraining cold
  { State.reset with
    pending := s.pending
    dev := {
      cold := cold, bootCount := d.bootCount, banks := d.banks, activeBank := d.activeBank, selector := d.selector
      fallback := d.fallback, minSvn := d.minSvn, revoked := d.revoked, ownerKey := d.ownerKey
      keepTraining := !cold && d.keepTraining, trained := kept, selfTestPart := d.selfTestPart, selfTestDev := d.selfTestDev
      service := d.service, retired := d.retired, tableHigh := d.tableHigh, linkGen := if cold || linkDown then 0 else d.linkGen
      linkWidth := if cold || linkDown then 0 else d.linkWidth, freeIndex := d.freeIndex }
    parts := (List.range 16).map (fun p => {
      leader := p, hbm := if kept then (s.part p).hbm else {}
      unmarked := (d.retired.filter (·.1 == p)).map (·.2) })
    presence := { s.presence with window := none, refusals := 0 }
    ledger := { s.ledger with reserved := 0, failOpen := false, policyNext := none, policyWas := [], faultsOwed := [] }
    bays := s.bays.map (fun b => match b.cart with
      | some c => { state := .mounting, cart := some c }
      | none => {})
    links := s.links.map (fun (l : Link) => { usable := l.usable })
    board := { s.board with
      good := true, holdUp := false, perst := cold || linkDown
      sensors := (s.board.sensors.zip State.reset.board.sensors).map (fun (a, b) => { b with now := a.now }) }
    host := s.host
    out := s.out }

/-- A device reset (Table 21.4): PF function-level reset, hot or link-down reset, PERST# with power on. -/
def execDeviceReset (linkDown : Bool) (s : State) : Host.Outcome State Fault Refusal :=
  .next (if s.powered then s.bootReset false linkDown else s)

/-- Power-good (R794): a cold reset begins. It follows only the loss of the rails; the auxiliary supply comes first. -/
def execPowerGood (s : State) : Host.Outcome State Fault Refusal :=
  .next (if s.board.aux && !s.board.good then s.bootReset true true else s)

/-- PERST# is deasserted, or the link comes back after a reset that took it down: it trains (R795). -/
def execPerstDeassert (gen width : Nat) (s : State) : Host.Outcome State Fault Refusal :=
  .next (if s.powered && s.board.perst then
      { s with board := { s.board with perst := false }, dev := { s.dev with linkGen := gen, linkWidth := width } }
    else s)

/-! Bank selection and boot attempts (R698, R699). -/

/-- Why the ROM skips a bank (R698). -/
def State.bankSkipped (s : State) (b : Nat) : Bool :=
  let img := (s.bank b).image
  img == [] || (s.imageProblem img img.length).isSome

/-- A failed attempt on the selected bank: counted, three lead to the other bank, and to FAILED when both have failed
(R699). -/
def State.attemptFailed (s : State) (skipped : Bool) : State :=
  let b := s.dev.selector
  let s := s.modBank b (fun k => { k with attempts := k.attempts + 1, skipped := skipped })
  let both := s.bankSkipped 0 && s.bankSkipped 1
  let again (s : State) : State := { s with dev := { s.dev with trained := false } }.bootReset false false
  if both then s.modDev (fun d => { d with state := .failed, phase1 := false })
  else if (s.bank b).attempts < 3 then again s
  else if 3 ≤ (s.bank (1 - b)).attempts then s.modDev (fun d => { d with state := .failed, phase1 := false })
  else again ((s.modBank (1 - b) (fun k => { k with attempts := 0 })).modDev (fun d => { d with selector := 1 - b, fallback := true }))

/-- Phase 1 ends (R695): the ROM selects the bank, and phase 2 begins. -/
def execPowerAndRomComplete (s : State) : Host.Outcome State Fault Refusal :=
  if !s.powered || s.dev.state != .booting || !s.dev.phase1 || s.board.perst then .next s
  else
    let s := s.modDev (fun d => { d with phase1 := false, attemptStart := s.clock.timebase })
    if s.bankSkipped s.dev.selector then .next (s.attemptFailed true)
    else .next (s.modBank s.dev.selector (fun k => { k with skipped := false }))

/-- Phase 2 ends (R689): the image is verified and loaded. Phase 3 begins, where a fallback is reported. -/
def execImageCheckComplete (s : State) : Host.Outcome State Fault Refusal :=
  if !s.powered || s.dev.state != .booting || s.dev.phase1 then .next s
  else if s.bankSkipped s.dev.selector then .next (s.attemptFailed true)
  else
    let fell := s.dev.fallback
    let s := s.modDev (fun d => { d with state := .recovering, activeBank := d.selector, fallback := false })
    .next (if fell then s.raiseD 0x0804 2 0xFF 0 [byte s.dev.selector] else s)

/-- A boot attempt fails: the watchdog unanswered for 5 s, or no READY within 150 s (R699). -/
def execBootAttemptTimeout (s : State) : Host.Outcome State Fault Refusal :=
  if s.powered && s.beforeReady && s.dev.state != .failed && !s.dev.phase1
      && decide (s.dev.attemptStart + 500000000 ≤ s.clock.timebase) then
    .next (s.attemptFailed false)
  else .next s

/-! Phases 3 to 7 (R701 to R705). -/

/-- Phase 3 ends: a folio left open is closed with the values of its last record; the holding-flash map is checked
(R664, R703). Kept training skips phase 4 (R708). -/
def execStagingRecoveryComplete (flashMapGood : Bool) (s : State) : Host.Outcome State Fault Refusal :=
  if !s.powered || s.dev.state != .recovering then .next s
  else
    let l := s.ledger
    let s := s.closeWith 0 none l.lastTime l.lastBreath l.lastIdentity
    let s := s.modLedger (fun l => { l with
      flashFailed := !flashMapGood, faultsOwed := if flashMapGood then l.faultsOwed else l.faultsOwed ++ [(2, 0x11)] })
    .next (s.modDev (fun d => { d with state := if d.trained then .testing else .training }))

/-- Phase 4 ends: the stacks are trained. -/
def execHbmTrainingComplete (s : State) : Host.Outcome State Fault Refusal :=
  .next (if s.powered && s.dev.state == .training then s.modDev (fun d => { d with state := .testing, trained := true }) else s)

/-- SELFTEST_FAIL (Table 22.3) of a unit row of Table 21.3. -/
def State.selfTestFail (s : State) (row unit part : Nat) : State :=
  if part < 16 then s.raiseO 0x0805 2 part 0xFFFF unit 0 [byte row] else s.raiseD 0x0805 2 unit 0 [byte row]

/-- A partition faulted by self-test. -/
def State.faultSelfTest (s : State) (p : Nat) : State :=
  (s.modPart p (fun x => { x with fault := if x.fault = 0 then 1 else x.fault, selfTestFailed := true })).modDev (fun d => { d with
    selfTestPart := Nat.lor d.selfTestPart (2 ^ p) })

/-- The device units of SELFTEST_DEV that failed, with their row and unit (Table 21.3, R762). -/
def deviceRows : List (Nat × Nat × Nat) :=
  [(0, 3, 0xFF), (1, 4, 0xFF), (2, 5, 0xFF), (3, 6, 0), (4, 6, 1), (5, 6, 2), (6, 6, 3), (7, 7, 0), (8, 7, 1), (9, 7, 2), (10, 7, 3)
  , (11, 7, 4), (12, 7, 5), (13, 8, 0xFF), (14, 9, 0xFF), (15, 10, 0xFF)]

/-- Phase 5 ends (R701, R702): `parts` are the partitions whose core or fabric tests failed, `units` the device units as
SELFTEST_DEV numbers them, `channels` the failed pseudo-channels. -/
def execSelfTestComplete (parts units : Nat) (channels : List (Nat × Nat)) (s : State) : Host.Outcome State Fault Refusal :=
  if !s.powered || s.dev.state != .testing then .next s
  else
    let units := units % 65536
    let s := s.modDev (fun d => { d with selfTestPart := 0, selfTestDev := units })
    let s := ((List.range 16).filter (bit parts)).foldl (fun s p => (s.faultSelfTest p).selfTestFail 0 0xFF p) s
    let s := channels.foldl (fun s (p, c) => ((s.failChannel p c).faultSelfTest p).selfTestFail 1 c p) s
    let s := (deviceRows.filter (fun x => bit units x.1)).foldl (fun s x => s.selfTestFail x.2.1 x.2.2 0xFF) s
    let s := { s with enginesOffline := (List.range 4).filter (fun e => bit units (3 + e)) }
    let s := s.modLedger (fun l => { l with
      mramFailed := bit units 0, flashFailed := l.flashFailed || bit units 1, gaspFailed := bit units 2
      faultsOwed := l.faultsOwed ++ (if bit units 0 then [(1, 0x20)] else []) ++ (if bit units 1 then [(2, 0x10)] else []) })
    let s := if bit units 0 then s.setHold 0x1302 else s.lightAlarm
    .next (s.modDev (fun d => { d with state := if bit units 13 || bit units 14 || bit units 15 then .failed else .initialising }))

/-- Phase 6 ends (R695): CLM and Stop banks are zero. -/
def execCoreInitialisationComplete (s : State) : Host.Outcome State Fault Refusal :=
  if s.powered && s.dev.state == .initialising then
    .next ({ s with parts := s.parts.map (fun (p : Part) => { p with cores := p.cores.map Core.clearAll }) }.modDev (fun d => { d with
      state := .mounting }))
  else .next s

/-- Step 1 of R704: the last-gasp records staged with the sequences they carry, then the file cleared; its losses count
for the GAP record (R667). -/
def State.stageGasp (s : State) : State :=
  let g := s.ledger.gasp
  if s.ledger.mramFailed then s
  else
    let s := if g.entries = [] then s
      else s.modLedger (fun l => { l with
        open_ := g.entries, openTime := s.clock.time, lastTime := s.clock.time, lastBreath := s.adminBreath
        lastIdentity := s.identityBlock })
    s.modLedger (fun l => { l with
      gasp := {}
      gap := if g.lostEntries = 0 then l.gap else {
        entries := l.gap.entries + g.lostEntries, records := l.gap.records + g.lost
        firstBreath := if l.gap.entries = 0 then g.firstBreath else l.gap.firstBreath, lastBreath := g.lastBreath
        firstTime := if l.gap.entries = 0 then g.firstTime else l.gap.firstTime, lastTime := g.lastTime
        parts := (l.gap.parts.zip g.lostParts).map (fun (a, b) => min (a + b) 0xFFFF) } })

/-- The records of a start-up, in the order of R704. -/
def State.stageStartup (s : State) : State :=
  let put (s : State) (type : Nat) (body : List Byte) : State :=
    (s.stage false 0 [s.eventRecord type 0xFF s.adminBreath body] 0xFF s.adminBreath).2
  let top := s.ledger.nextSeq - 1
  let s := s.stageGasp
  let s := if s.ledger.genesis then s else (put s 0x01 (fit 16 Config.serial)).modLedger (fun l => { l with genesis := true })
  let s := s.tryGap
  let s := s.ledger.faultsOwed.foldl (fun s (tier, code) =>
    (put s 0xA5 (byte tier :: leBytes 2 code)).raiseD 0x0704 (if tier = 1 then 3 else 2) tier 0 (leBytes 2 code)) s
  let s := s.modLedger (fun l => { l with faultsOwed := [] })
  put s 0x02 ([byte (flag (!s.dev.cold)), byte s.dev.activeBank] ++ leBytes 2 (imageRelease (s.bank s.dev.activeBank).image)
    ++ leBytes 8 s.dev.bootCount ++ leBytes 8 top)

/-- Records raised before the start-up records, staged behind them (assumption 34). -/
def State.stageOwed (s : State) : State :=
  let rs := s.ledger.owed
  rs.foldl (fun s (p, b, r) => (s.stage false 0 [r] p b).2) (s.modLedger (fun l => { l with owed := [] }))

/-- Phase 7 ends (R704, R705): the start-up records are staged and the device is READY. -/
def execLedgerMountComplete (s : State) : Host.Outcome State Fault Refusal :=
  if !s.powered || s.dev.state != .mounting || s.bays.any (·.state == .mounting) then .next s
  else
    let b := s.dev.activeBank
    let img := (s.bank b).image
    let s := s.modDev (fun d => { d with bootCount := d.bootCount + 1 })
    let s := s.stageStartup
    let s := (s.modDev (fun d => { d with
      state := .ready, minSvn := max d.minSvn (imageFloor img), revoked := Nat.lor d.revoked (imageRevokes img) })).modBank b
        (fun k => { k with attempts := 0 })
    let s := s.stageOwed
    let s := if s.ledger.hold = 0x1302 ∧ !s.ledger.mramFailed then s.setHold 0 else s
    let s := if s.presence.breakOwed then (s.modPresence (fun p => { p with breakOwed := false })).loopBreak else s
    .next s.checkRings

/-! Recovery (R700, R772). -/

/-- A refused write to an RWP field (R21, R682). -/
def State.refuseWrite (s : State) (off value status : Nat) : State :=
  s.presenceRecord 2 (s.eventRecord 0xB5 0xFF s.adminBreath ([2, byte status, 0, 0] ++ leBytes 4 off ++ leBytes 4 value))

/-- A write to RECOVERY_CTRL (R21, R22, R772): any write of its RWP bit is refused and recorded without presence; a reserved
bit that is set discards the write whole (R753), the read-only bits are ignored (Table 0.2). `image` is what the ROM reads at
RECOVERY_ADDR. -/
def execGo (fn value : Nat) (image : List Byte) (s : State) : Host.Outcome State Fault Refusal :=
  if fn ≠ 0 ∨ !s.registersAnswer ∨ !s.powered then .next s
  else match s.presenceProblem false with
    | some r => .next (s.refuseWrite 0x400310 (value % 2 ^ 32) r.status)
    | none =>
      if 2 ^ 32 ≤ value ∨ bits value 1 3 ≠ 0 ∨ bits value 8 8 ≠ 0 ∨ !bit value 0 then .next s
      else if s.dev.state != .failed || !(s.bankSkipped 0 && s.bankSkipped 1) || [1, 2, 3].contains s.dev.recoveryProgress then .next s
      else
        let img := fit s.dev.recoveryLen image
        match s.imageProblem img s.dev.recoveryLen with
        | some reason => .next (s.modDev (fun d => { d with recoveryProgress := 5, recoveryReason := reason }))
        | none => .next (s.modDev (fun d => { d with recoveryProgress := 2, recoveryReason := 0, recoveryImage := img }))

/-- The ROM has written the image to both banks and read them back; then a device reset. -/
def execRecoveryComplete (bank0Good bank1Good : Bool) (s : State) : Host.Outcome State Fault Refusal :=
  if !s.powered || s.dev.state != .failed || s.dev.recoveryProgress != 2 then .next s
  else
    let img := s.dev.recoveryImage
    let put (s : State) (b : Nat) (good : Bool) : State := s.modBank b (fun _ => if good then { image := img } else {})
    let s := put (put s 0 bank0Good) 1 bank1Good
    if bank0Good && bank1Good then
      .next ({ s with dev := { s.dev with selector := 0, recoveryProgress := 4, trained := false } }.bootReset false false)
    else .next (s.modDev (fun d => { d with recoveryProgress := 5, recoveryReason := 0x1408, recoveryImage := [] }))

/-! Partition reset (R91, R709, R712). -/

/-- An event queue emptied (R719). -/
def EventQueue.emptied (q : EventQueue) : EventQueue :=
  { q with
    head := 0, tail := 0, phase := true, seq := 0, hold := [], raisedDisabled := 0, lostFull := 0, lostRate := 0, lostFirst := 0
    lostLast := 0, rate := [], moderated := none, owed := false }

/-- A function's PCIe function state reset (R91). -/
def Function.resetPcie (f : Function) : Function :=
  { f with msixTable := {}, masked := List.range 64, pendingBits := [], functionMask := false, latch := none, ledgerLatch := none }

/-- The Stop banks that a STOP_PIN in progress was changing are cleared (R357). -/
def State.clearPinned (s : State) (t : Nat) : State :=
  ((s.train t).works.filter (fun w => w.stage == .running)).foldl (fun s w => match w.cmd with
    | .stopPin _ first n =>
      ((List.range n).filterMap (fun i => s.slabCore t (first + i))).foldl (fun s c => s.modCore c Core.emptyStop) s
    | _ => s) s

/-- The partition reset of a group (Table 21.5): it ends without reply, and the self-test runs. -/
def State.partitionReset (s : State) (t : Nat) : State :=
  let s := s.clearPinned t
  let s := (s.members t).foldl (fun s p =>
    (s.modPart p (fun x => { x with cores := x.cores.map (·.clearClm), perf := {} })).modFn (p + 1) (fun f =>
      { f.reinit with events := f.events.emptied })) (s.dropClaims t)
  s.modTrain t (fun x => { x.dropWork with
    objects := { x.objects with pools := [], sessions := [] }, phase := .stopped, halt := .reset, closed := s.consort.member })

/-- A VF function-level reset (R91); a card in a consort leaves it, its other groups at their next Breath boundary (R712). -/
def execFunctionLevelReset (vf : Nat) (s : State) : Host.Outcome State Fault Refusal :=
  if vf = 0 ∨ 16 < vf ∨ !s.powered then .next s
  else
    let p := vf - 1
    let s := s.modFn vf (·.resetPcie)
    if s.leaderOf p ≠ p then .next (s.modFn vf (fun f => { f with events := f.events.emptied }))
    else
      let s := if s.consort.member then s.memberGone s.consort.card 2 3 else s
      .next (s.partitionReset p)

/-- The partition self-test ends (R709): `failing` is a bitmap of members. -/
def execPartitionSelfTestComplete (leader failing : Nat) (s : State) : Host.Outcome State Fault Refusal :=
  if !s.powered || (s.train leader).halt != .reset || s.beforeReady then .next s
  else
    let bad (p : Nat) : Bool := bit failing p || (s.part p).channels.any (·.failed)
    let s := (s.members leader).foldl (fun s p =>
      if bad p then
        let c := (s.part p).channels.findIdx (·.failed)
        (s.faultSelfTest p).selfTestFail (if bit failing p then 0 else 1) (if bit failing p then 0xFF else c) p
      else
        (s.modPart p (fun x => { x with fault := if x.fault = 3 then 3 else 0, selfTestFailed := false })).modDev (fun d => { d with
          selfTestPart := d.selfTestPart - (if bit d.selfTestPart p then 2 ^ p else 0) })) s
    .next ((s.modTrain leader (fun x => { x with halt := .none })).noteRestart.checkRings)

/-! Shutdown (R198). -/

/-- A command that a shutdown's drain limit ends: not the SHUTDOWN itself, nor a privileged command that has begun, which runs
to completion (R99, R681). -/
def Work.endsWithShutdown (w : Work) : Bool :=
  w.live && w.status == 0 && ! [0x03, 0x11, 0xA1, 0xB0, 0xB1].contains w.cmd.opcode

/-- One command ended at the drain limit of a shutdown: steps in progress finish, effects that continue are given up (DEDUCED,
assumption 76). -/
def State.endForShutdown (s : State) (w : Work) : State :=
  let r := noResource 0x0018
  if w.sliced then s.cutWork w.train w.id 0x0018
  else if (s.train w.train).piecesOf w.id ≠ [] then s
  else match w.cmd with
    | .consortForm .. => s.failFormation r
    | .restore .. => if w.stage = .outside then s.failRestore w w.stream r else s.endWork w.train w.id r
    | .snapshotStop .. => s.failStop w r
    | .snapshotShadow .. => (s.modTrain w.train (fun x => { x with checkpoint := none })).endWork w.train w.id r
    | _ => s.endWork w.train w.id r

/-- The SHUTDOWN drain limit elapses: what is unfinished ends. -/
def execShutdownDrainLimit (s : State) : Host.Outcome State Fault Refusal :=
  .next (if s.shutdownElapsed then (s.allWorks.filter (·.endsWithShutdown)).foldl (fun s w => s.endForShutdown w) s else s)

/-- Every train is idle and every staged record is committed as far as a tier can take it (R198, R713). -/
def execShutdownCommitDone (s : State) : Host.Outcome State Fault Refusal :=
  match s.outside (fun c => c.opcode == 0x03) with
  | [] => .next s
  | w :: _ =>
    if s.dev.state = .shuttingDown ∧ s.allIdle ∧ s.ledger.open_ = [] ∧ s.nothingToCommit then
      let top := (s.ledger.flash.map Folio.lastSeq).foldl max s.ledger.committed
      .next (s.finishWork adminTrain w.id 0 (leBytes 8 top))
    else .next s

/-! Chanter restart (R710 to R712). -/

/-- Every train is to stop for a restart. -/
def State.restartTrains (s : State) (cause : Nat) : State :=
  let s := s.modDev (fun d => { d with restartCause := cause })
  (s.activeTrains.foldl (fun s t => s.modTrain t (fun x => { x with stopFor := .restart })) s).noteRestart

/-- A PF write to DEV_CTRL (R710, R712, R760): the restart request, and KEEP_HBM_TRAINING. -/
def execChanterRestart (fn value : Nat) (s : State) : Host.Outcome State Fault Refusal :=
  if fn ≠ 0 ∨ !s.registersAnswer ∨ 4 ≤ value then .next s
  else if bit value 0 && s.consort.member then .next (s.raiseD 0x0107 1 0xFF 1 [1])
  else
    let s := s.modDev (fun d => { d with keepTraining := bit value 1 })
    .next (if bit value 0 && s.dev.state == .ready && s.dev.restartCause == 0 then s.restartTrains 1 else s)

/-- The Chanter has not answered its watchdog for 5 ms (R711): the seal of every Breath in progress fails with cause 15; a card in
a consort leaves it (R712). -/
def execChanterWatchdog (s : State) : Host.Outcome State Fault Refusal :=
  if !s.powered || !(s.dev.state == .ready || s.dev.state == .shuttingDown) then .next s
  else
    let s := if s.consort.member then s.memberGone s.consort.card 2 3 else s
    let s := s.activeTrains.foldl (fun s t => s.modTrain t (fun x =>
      if x.phase = .working ∨ x.phase = .sealing then { x with causes := Nat.lor x.causes 0x8000, core := 0xFFFF, unit := 0xFF } else x)) s
    let s := s.restartTrains 2
    .next (s.activeTrains.foldl (fun s t => s.settle t) s)

/-- The reloaded Chanter is verified (R710): every train may restart. -/
def execChanterReloadComplete (s : State) : Host.Outcome State Fault Refusal :=
  if !s.powered || s.dev.state != .restarting then .next s
  else
    let s := s.modDev (fun d => { d with state := if d.shutdownWork.isSome then .shuttingDown else .ready, restartCause := 0, kept := none })
    .next ((s.activeTrains.foldl (fun s t => s.modTrain t (fun x => { x with
      halt := if x.halt = .restart then .none else x.halt, stopFor := if x.stopFor = .restart then .none else x.stopFor })) s).checkRings)

end Sys2Proof.Machine
end

