-- ==== Sys2Proof/Machine/Events.lean ====
section
/-! DEFINITION. Snapshots and clears of performance counters, event status, MSI-X vectors, moderation, the end of a second,
the end of a slew (chapter 22). -/

namespace Sys2Proof.Machine

/-! PART_PERF_CTRL (R735, R736, R785). -/

/-- The snapshot of a partition (R736). -/
def State.snapshot (s : State) (p : Nat) : State :=
  s.modPart p (fun x => { x with perfShadow := x.perf, cycShadow := x.cycSnap, timebaseShadow := s.clock.timebase })

/-- A write to PART_PERF_CTRL: the snapshot, then the clear (R785). -/
def State.perfCtrl (s : State) (fn blk value : Nat) : State :=
  if 16 ≤ blk ∨ (fn ≠ 0 ∧ fn ≠ blk + 1) ∨ !s.registersAnswer ∨ 4 ≤ value then s
  else
    let s := if bit value 0 then s.snapshot blk else s
    if bit value 1 then s.modPart blk (fun x => { x with perf := {} }) else s

/-- PART_PERF_CTRL.SNAP. -/
def execSnap (fn blk value : Nat) (s : State) : Host.Outcome State Fault Refusal := .next (s.perfCtrl fn blk value)

/-- PART_PERF_CTRL.CLEAR. -/
def execClear (fn blk value : Nat) (s : State) : Host.Outcome State Fault Refusal := .next (s.perfCtrl fn blk value)

/-! EVENT_STATUS (R784). -/

/-- A write to EVENT_STATUS: bits written as 1 are cleared. -/
def execEventStatusWrite (fn blk value : Nat) (s : State) : Host.Outcome State Fault Refusal :=
  match blockOwner fn blk with
  | none => .next s
  | some f =>
    if !s.registersAnswer then .next s
    else .next (s.modFn f (fun x => { x with events := { x.events with
      status := (List.range 6).foldl (fun n i => n + (if bit x.events.status i && !bit value i then 2 ^ i else 0)) 0 } }))

/-! MSI-X (R732). -/

/-- The pending message of an unmasked vector is sent; that of the event vector begins a moderation interval. -/
def State.sendPending (s : State) (fn vec : Nat) : State :=
  (if vec = 1 then s.modFn fn (fun f => { f with events := f.events.spaced s.clock.timebase }) else s).signal fn vec

/-- A vector unmasked: its pending message is sent. -/
def State.unmask (s : State) (fn vec : Nat) : State :=
  let f := s.fn fn
  let s := s.setFn fn { f with masked := f.masked.filter (· != vec) }
  if f.pendingBits.contains vec && !f.functionMask then
    (s.modFn fn (fun f => { f with pendingBits := f.pendingBits.filter (· != vec) })).sendPending fn vec
  else s

/-- The function mask cleared: every pending message of an unmasked vector is sent. -/
def State.unmaskFunction (s : State) (fn : Nat) : State :=
  let f := s.fn fn
  let go := f.pendingBits.filter (fun v => !f.masked.contains v)
  let s := s.setFn fn { f with functionMask := false, pendingBits := f.pendingBits.filter (fun v => f.masked.contains v) }
  go.foldl (fun s v => s.sendPending fn v) s

/-- A vector's mask, or the function mask, is cleared. -/
def execMsixVectorUnmask (fn : Nat) (vector : Option Nat) (s : State) : Host.Outcome State Fault Refusal :=
  .next (match vector with
    | some v => s.unmask fn v
    | none => s.unmaskFunction fn)

/-- A moderation interval ends (R732): the message that waited is sent and a new interval begins. -/
def execMsixModerationExpiry (fn : Nat) (s : State) : Host.Outcome State Fault Refusal :=
  let q := (s.fn fn).events
  match q.moderated with
  | none => .next s
  | some e =>
    if s.clock.timebase < e then .next s
    else
      let s := s.modFn fn (fun f => { f with events := { q with moderated := none, owed := false } })
      .next (if q.owed then s.signalEvents fn else s)

/-! The end of a second (R722, R725, R740). -/

/-- A whole second of the timebase ends: rate limits begin anew, EVENTS_LOST and COUNTER_WRAP records that waited are
written. -/
def execEventSecondEnd (s : State) : Host.Outcome State Fault Refusal :=
  if s.clock.timebase % 100000000 ≠ 0 ∨ !s.board.good then .next s
  else
    let s := s.modDev (fun d => { d with onceThisSecond := [] })
    let s := (List.range 17).foldl (fun s f =>
      ((s.modFn f (fun x => { x with events := { x.events with rate := [] } })).flushLost f).announce f (s.fn f).events.tail) s
    .next ((List.range 256).foldl (fun s c => s.raiseWrap c) s)

/-- The last of a backward slew is removed (R77). -/
def execTimeSlewComplete (s : State) : Host.Outcome State Fault Refusal :=
  .next (if s.clock.slew ≤ 1 then { s with clock := { s.clock with slew := 0 } } else s)

end Sys2Proof.Machine
end

