-- ==== Sys2Proof/Machine/Registers.lean ====
section
/-! DEFINITION. The register map: reads with their latches, writes, the BAR2 aperture (chapter 23, R683). A BAR0 word is
the 8 bytes at an aligned address; wider registers are consecutive words. -/

namespace Sys2Proof.Machine

/-! Words of the device block (Table 23.3). -/

/-- A signed value in `w` bits. -/
def twos (w : Nat) (n : Int) : Nat := (n % (2 ^ w : Int)).toNat

/-- DEV_STATUS (Table 23.4). -/
def State.devStatus (s : State) : Nat :=
  stateCode s.dev.state + 2 ^ 4 * flag s.clock.isSet + 2 ^ 5 * flag (decide (0 < s.clock.slew)) + 2 ^ 6 * flag s.dev.service
    + 2 ^ 7 * flag (decide (s.ledger.hold ≠ 0)) + 2 ^ 8 * flag s.consort.member + 2 ^ 12 * s.dev.linkGen + 2 ^ 16 * s.dev.linkWidth

/-- An entry of the retirement table (R763). -/
def retireWord (e : Option (Nat × Nat)) : Nat :=
  match e with
  | some (p, q) => q + 2 ^ 24 * p + 2 ^ 31
  | none => 0

/-- LINK_STATUS (R764). -/
def Link.status (l : Link) : Nat := l.state + (if l.state = 2 then 2 ^ 4 * l.farCard else 0) + 2 ^ 8 * flag l.named

/-- CONSORT_STATUS (R764). -/
def Consort.status (c : Consort) : Nat :=
  flag c.member + 2 * flag c.forming.isSome + 2 ^ 4 * c.card + 2 ^ 8 * c.members + 2 ^ 13 * c.topology + 2 ^ 16 * c.ports

/-- A ring's five registers (Table 23.8), by offset from its first. -/
def Ring.word (r : Ring) (o : Nat) : Nat :=
  if o = 0x00 then r.depthLog2 + 2 ^ 8 * flag r.enable else if o = 0x08 then r.head else if o = 0x10 then r.tail
  else if o = 0x18 then r.expect else if o = 0x20 then r.suppressed else 0

/-- RING_STATUS (R781). -/
def Function.ringStatus (f : Function) : Nat :=
  flag f.urgent.enable + 2 * flag f.bulk.enable + 4 * flag f.reply.enable + 8 * flag f.frozen + 16 * flag f.reply.full
    + 32 * flag f.stopped + 2 ^ 16 * min f.reply.held.length 0xFFFF

/-- The ring, reply and violation registers, by offset from URG_CFG. -/
def Function.ringWord (f : Function) (o : Nat) : Nat :=
  if o < 0x40 then f.urgent.word o
  else if o < 0x80 then f.bulk.word (o - 0x40)
  else if o = 0x80 then f.reply.base
  else if o = 0x88 then f.reply.depthLog2 + 2 ^ 8 * flag f.reply.enable + 2 ^ 16 * flag f.reply.phase
  else if o = 0x90 then f.reply.head
  else if o = 0x98 then f.reply.tail
  else if o = 0xA0 then f.ringStatus
  else if o = 0xA8 then f.violations
  else if o = 0xB0 then f.lastViolation
  else 0

/-- The event queue registers, by offset from EVQ_BASE (R783). -/
def EventQueue.word (q : EventQueue) (mirror o : Nat) : Nat :=
  if o = 0x00 then q.base
  else if o = 0x08 then
    q.depthLog2 + 2 ^ 8 * flag q.enable + 2 ^ 16 * flag q.phase + 2 ^ 32 * q.moderation + 2 ^ 48 * mirror
  else if o = 0x10 then q.head
  else if o = 0x18 then q.tail
  else if o = 0x20 then q.seq
  else if o = 0x28 then q.lostTotal
  else if o = 0x30 then q.status
  else 0

/-- BAR2_WIN of a function (R765). -/
def Function.window (f : Function) : Nat := f.windowPart + f.windowBase

/-- A word of the device registers. -/
def State.deviceWord (s : State) (o : Nat) : Nat :=
  if o = 0x00 then 0x16B0
  else if o = 0x08 then imageRelease (s.bank s.dev.activeBank).image
  else if o = 0x10 ∨ o = 0x18 then wordOf (fit 16 Config.serial) ((o - 0x10) / 8)
  else if o = 0x20 then s.devStatus
  else if o = 0x28 then 2 * flag s.dev.keepTraining
  else if o = 0x30 then s.clock.time % 2 ^ 64
  else if o = 0x38 then s.clock.timebase % 2 ^ 64
  else if o = 0x40 then s.clock.slew
  else if o = 0x48 then s.dev.bootCount
  else if o = 0x50 then s.keptNow.bank
  else if 0x60 ≤ o ∧ o < 0x80 then wordOf s.firmwareDigest ((o - 0x60) / 8)
  else if 0x80 ≤ o ∧ o < 0xA0 then wordOf s.microcode ((o - 0x80) / 8)
  else if 0xA0 ≤ o ∧ o < 0xC0 then wordOf (s.bank (1 - s.dev.activeBank)).digest ((o - 0xA0) / 8)
  else if 0xC0 ≤ o ∧ o < 0xE0 then wordOf s.ownerDigest ((o - 0xC0) / 8)
  else if 0xE0 ≤ o ∧ o < 0x100 then wordOf s.dev.configDigest ((o - 0xE0) / 8)
  else if o = 0x100 then s.dev.selfTestPart
  else if o = 0x108 then s.dev.selfTestDev
  else if o = 0x110 then s.dev.retired.length
  else if 0x200 ≤ o ∧ o < 0x278 then twos 16 (((s.board.sensors[(o - 0x200) / 8]?).map (·.now)).getD 0)
  else if 0x280 ≤ o ∧ o < 0x2F8 then twos 16 (((s.board.sensors[(o - 0x280) / 8]?).map (·.warn)).getD 0)
  else if 0x300 ≤ o ∧ o < 0x328 then s.board.power.getD ((o - 0x300) / 8) 0
  else if 0x2000 ≤ o ∧ o < 0x20B8 then (s.fn 0).ringWord (o - 0x2000)
  else if 0x3000 ≤ o ∧ o < 0x3038 then (s.fn 0).events.word s.dev.mirror (o - 0x3000)
  else if 0x4000 ≤ o ∧ o < 0x40C0 then
    let l := s.link ((o - 0x4000) / 0x20)
    let r := o % 0x20
    if r = 0 then l.status else if r = 8 then l.replays else if r = 0x10 then l.retrains else 0
  else if o = 0x4100 then s.consort.status
  else if o = 0x4108 then (if s.follows then twos 32 s.consort.phase else 0)
  else if o = 0x5000 then (s.fn 0).window
  else if 0x10000 ≤ o ∧ o < 0x18000 then retireWord (s.dev.retired[(o - 0x10000) / 8]?)
  else 0

/-! Words of the ledger and presence block (Table 23.6). -/

/-- PRESENCE_STATUS (R767). -/
def State.presenceStatus (s : State) : Nat :=
  let p := s.presence
  let left := match p.window with
    | some e => ceilDiv (e - s.clock.timebase) 100000000
    | none => 0
  keyCode p.key + 4 * flag p.window.isSome + 8 * flag (p.loop && !p.latch) + 2 ^ 16 * left + 2 ^ 32 * p.length

/-- LOOP_STATUS (R768). -/
def Presence.loopStatus (p : Presence) : Nat := flag p.loop + 2 * flag p.latch + 4 * flag p.unpowered

/-- What LEDGER_COMMITTED, FOLIO_CLOSED and LEDGER_CHAIN hold now. -/
def State.ledgerNow (s : State) : LedgerLatch :=
  { committed := s.ledger.committed, closed := s.ledger.nextFolio - 1, chain := fit 32 s.ledger.lastChain }

/-- LAST_GASP_j (R773). -/
def State.gaspEntry (s : State) (j : Nat) : List Byte := fit 128 ((s.ledger.gasp.entries[j]?).getD [])

/-- A word of the ledger and presence block; the three latched registers as `l` holds them (R770). -/
def State.ledgerWord (s : State) (l : LedgerLatch) (o : Nat) : Nat :=
  if o = 0x00 then s.presenceStatus
  else if o = 0x08 then s.presence.loopStatus
  else if o = 0x10 then s.presence.latchTime
  else if o = 0x18 then s.presence.refusals
  else if o = 0x100 then s.keptNow.ledger
  else if o = 0x108 then s.ledger.nextSeq
  else if o = 0x110 then l.committed
  else if o = 0x118 then l.closed
  else if 0x120 ≤ o ∧ o < 0x140 then wordOf l.chain ((o - 0x120) / 8)
  else if o = 0x140 then s.ledger.flash.length + 2 ^ 32 * s.ledger.framesUsed
  else if 0x200 ≤ o ∧ o < 0x228 then (s.keptNow.bays.getD 0 []).getD ((o - 0x200) / 8) 0
  else if 0x240 ≤ o ∧ o < 0x268 then (s.keptNow.bays.getD 1 []).getD ((o - 0x240) / 8) 0
  else if o = 0x300 then s.dev.recoveryAddr
  else if o = 0x308 then s.dev.recoveryLen
  else if o = 0x310 then 2 ^ 4 * s.dev.recoveryProgress + 2 ^ 16 * s.dev.recoveryReason
  else if 0x1000 ≤ o ∧ o < 0x3000 then wordOf (s.gaspEntry ((o - 0x1000) / 128)) (o % 128 / 8)
  else if o = 0x3000 then s.ledger.gasp.entries.length
  else if o = 0x3008 then s.ledger.gasp.lost
  else 0

/-! Words of a partition block (Table 23.8). -/

/-- PART_STATUS (Table 23.9). -/
def State.partStatus (s : State) (p : Nat) : Nat :=
  let x := s.part p
  let t := s.train x.leader
  let jobs := (t.works.filter (fun w => w.live && w.behaviour == .sliced && w.cmd.opcode == 0x61)).length
  x.leader + 2 ^ 4 * Nat.log2 (s.groupSize x.leader) + 2 ^ 8 * flag (decide (x.fault ≠ 0)) + 2 ^ 9 * x.fault + 2 ^ 12 * flag t.draining
    + 2 ^ 13 * flag (s.checkpointing x.leader) + 2 ^ 14 * flag s.consort.member + 2 ^ 15 * flag t.quiet + 2 ^ 16 * jobs

/-- BREATH_CFG (R776). -/
def State.breathCfg (s : State) (p : Nat) : Nat :=
  let t := s.train (s.leaderOf p)
  t.n5 + 2 ^ 16 * t.floor + 2 ^ 20 * t.step + 2 ^ 24 * (s.part p).share

/-- SEAL_STATUS (R778), its two words. -/
def SealStatus.low (x : SealStatus) : Nat := x.breath + 2 ^ 62 * flag x.consort + 2 ^ 63 * flag x.failed
def SealStatus.high (x : SealStatus) : Nat := x.causes + 2 ^ 16 * x.failures + 2 ^ 24 * x.core + 2 ^ 40 * x.unit

/-- Counter `i` of Table 22.5. -/
def CoreCounters.at (c : CoreCounters) (i : Nat) : Nat :=
  [c.active, c.bore, c.stop, c.vector, c.stall, c.hbmLines, c.stopRows, c.gather].getD i 0

/-- Counter `i` of Table 22.6. -/
def PerfCounters.at (c : PerfCounters) (i : Nat) : Nat :=
  [c.replies, c.repliesLate, c.repliesReplayed, c.breathFull, c.overrunBreaths, c.cyclesAdmitted, c.cyclesUsed].getD i 0

/-- The shape registers as bound, zero in a non-leader block (R318). -/
def State.shapeWord (s : State) (p i : Nat) : Nat :=
  if s.leaderOf p = p then (s.train p).objects.shapes.getD i 0 else 0

/-- A word of partition block `p`. -/
def State.partWord (s : State) (p o : Nat) : Nat :=
  let x := s.part p
  let t := s.train x.leader
  let f := s.fn (p + 1)
  if o = 0x0000 then s.partStatus p
  else if o = 0x0100 then s.breathCfg p
  else if o = 0x0110 then t.breath
  else if o = 0x0118 then t.startTime
  else if o = 0x0120 then t.sealStatus.low
  else if o = 0x0128 then t.sealStatus.high
  else if 0x0200 ≤ o ∧ o < 0x02B8 then f.ringWord (o - 0x0200)
  else if 0x0400 ≤ o ∧ o < 0x0438 then f.events.word 0 (o - 0x0400)
  else if 0x0500 ≤ o ∧ o < 0x0580 then s.shapeWord p ((o - 0x0500) / 8)
  else if o = 0x0600 then f.window
  else if o = 0x1008 then x.cycSnap
  else if o = 0x1010 then x.cycShadow
  else if o = 0x1018 then x.timebaseShadow
  else if 0x1100 ≤ o ∧ o < 0x1138 then x.perf.at ((o - 0x1100) / 8)
  else if 0x1140 ≤ o ∧ o < 0x1178 then x.perfShadow.at ((o - 0x1140) / 8)
  else if 0x2000 ≤ o ∧ o < 0x2400 then (x.perf.cores.getD ((o - 0x2000) / 0x40) {}).at (o % 0x40 / 8)
  else if 0x2400 ≤ o ∧ o < 0x2800 then (x.perfShadow.cores.getD ((o - 0x2400) / 0x40) {}).at (o % 0x40 / 8)
  else if o = 0x3000 then x.sealFails
  else if 0x3100 ≤ o ∧ o < 0x3180 then (x.cores.getD ((o - 0x3100) / 8) {}).corrections
  else if 0x3180 ≤ o ∧ o < 0x3200 then (x.cores.getD ((o - 0x3180) / 8) {}).fabricRetries
  else if 0x3200 ≤ o ∧ o < 0x3300 then
    let c := s.channel p ((o - 0x3200) / 0x10)
    if o % 0x10 = 0 then c.corrected + 2 ^ 32 * c.uncorrectable else c.parity
  else 0

/-! BAR0 reads (R746, R747, R749, R750). -/

/-- Addresses that answer before phase 3 (R696). -/
def earlyAddress (a : Nat) : Bool :=
  decide (a < 8) || decide (0x20 ≤ a ∧ a < 0x28) || decide (0x400000 ≤ a ∧ a < 0x400010) || decide (0x401000 ≤ a ∧ a < 0x403010)

/-- The partition block and offset of an address. -/
def blockAt (a : Nat) : Option (Nat × Nat) :=
  if 0x01000000 ≤ a ∧ a < 0x02000000 then some ((a - 0x01000000) / 0x100000, (a - 0x01000000) % 0x100000) else none

/-- The BAR0 word at aligned address `a` as function `fn` reads it; `l`: the latched ledger registers. -/
def State.bar0Word (s : State) (fn : Nat) (l : LedgerLatch) (a : Nat) : Nat :=
  if !s.registersAnswer && !earlyAddress a then 0
  else match blockAt a with
    | some (p, o) => if fn = 0 ∨ fn = p + 1 then s.partWord p o else 0
    | none =>
      if fn ≠ 0 then 0
      else if a < 0x100000 then s.deviceWord a
      else if 0x400000 ≤ a ∧ a < 0x404000 then s.ledgerWord l (a - 0x400000)
      else 0

/-- `k` bytes of BAR0 from address `a`. -/
def State.bar0Bytes (s : State) (fn a k : Nat) : List Byte :=
  let l := (s.fn fn).ledgerLatch.getD s.ledgerNow
  (List.range k).map (fun i => byte (s.bar0Word fn l ((a + i) / 8 * 8) / 2 ^ (8 * ((a + i) % 8))))

/-- The width of a register of 16 or 32 bytes that begins at `a`; 8 for every other word. -/
def registerWidth (a : Nat) : Nat :=
  if a = 0x10 then 16
  else if [0x60, 0x80, 0xA0, 0xC0, 0xE0, 0x400120].contains a then 32
  else if a = 0x400210 ∨ a = 0x400250 then 16
  else match blockAt a with
    | some (_, o) => if o = 0x110 ∨ o = 0x120 then 16 else 8
    | none => 8

/-- The registers wider than 32 bits, whose low half a 4-byte read latches with the high half (R738, R750; DEDUCED, assumption
95).
Every other word holds a register of at most 32 bits, or two of them, and is never latched. -/
def halvesLatch (a : Nat) : Bool :=
  match blockAt a with
  | some (_, o) =>
    [0x280, 0x2B0, 0x400, 0x408, 0x600, 0x1008, 0x1010, 0x1018].contains o || decide (0x1100 ≤ o ∧ o < 0x1138)
      || decide (0x1140 ≤ o ∧ o < 0x1178) || decide (0x2000 ≤ o ∧ o < 0x2800)
  | none =>
    [0x20, 0x30, 0x38, 0x48, 0x50, 0x2080, 0x20B0, 0x3000, 0x3008, 0x5000, 0x400000, 0x400010, 0x400108, 0x400110, 0x400118
      , 0x400140, 0x400200, 0x400220, 0x400240, 0x400260, 0x400300].contains a
    || decide (0x10000 ≤ a ∧ a < 0x18000 ∧ a % 8 = 0)

/-- An access that R749 accepts as one. -/
def goodRead (a k : Nat) : Bool :=
  ((k == 4 || k == 8) && a % k == 0) || ((k == 16 || k == 32) && registerWidth a == k)

/-- The LAST_VIOLATION register that an address lies in: its function. -/
def violationAt (fn a : Nat) : Option Nat :=
  if fn = 0 ∧ a / 8 * 8 = 0x20B0 then some 0
  else match blockAt a with
    | some (p, o) => if o / 8 * 8 = 0x2B0 ∧ (fn = 0 ∨ fn = p + 1) then some (p + 1) else none
    | none => none

/-- What a read leaves latched: the rest of a register of 16 or 32 bytes that it began, or the high half of a 64-bit register
whose low half it read (R738, R750). A read that begins anywhere else latches nothing (R787, Case 23.1). -/
def State.latchAfter (s : State) (fn a k : Nat) : Option ReadLatch :=
  let w := registerWidth a
  if k < w ∧ (w ≠ 8 ∨ halvesLatch a = true) then some { next := a + k, bytes := s.bar0Bytes fn (a + k) (w - k) } else none

/-- The ledger latch after an access at BAR0 address `a` (R770). -/
def Function.keepLedger (f : Function) (a : Nat) : Option LedgerLatch :=
  if 0x400108 ≤ a ∧ a < 0x400140 then f.ledgerLatch else none

/-- A BAR0 read of `k` bytes by function `fn` at `a`: its completion and the latches it sets or uses. -/
def State.readBar0 (s : State) (fn a k : Nat) : State :=
  let f := s.fn fn
  let done (s : State) (bs : List Byte) : State := { s with out := { s.out with read := bs, poisoned := false } }
  if !goodRead a k then done s (s.bar0Bytes fn a k)
  else
    let cont := match f.latch with
      | some l => if l.next ≤ a ∧ a + k ≤ l.next + l.bytes.length then some l else none
      | none => none
    match cont with
    | some l =>
      let rest := l.bytes.drop (a + k - l.next)
      done (s.modFn fn (fun f => { f with
        latch := if rest = [] then none else some { next := a + k, bytes := rest }, ledgerLatch := f.keepLedger a }))
        ((l.bytes.drop (a - l.next)).take k)
    | none =>
      let s := s.modFn fn (fun f => { f with
        ledgerLatch := if fn = 0 ∧ a = 0x400108 then some s.ledgerNow else f.keepLedger a })
      let bs := s.bar0Bytes fn a k
      let s := s.modFn fn (fun f => { f with latch := s.latchAfter fn a k })
      let s := match violationAt fn a with
        | some g => s.modFn g (fun f => { f with lastViolation := 0 })
        | none => s
      done s bs

/-- A read that begins at LEDGER_NEXT (R770). -/
def execLedgerNextRead (fn size : Nat) (s : State) : Host.Outcome State Fault Refusal := .next (s.readBar0 fn 0x400108 size)

/-- A read of a register wider than 8 bytes, from its first byte or of its latched rest (R750). -/
def execWideRegisterRead (fn off size : Nat) (s : State) : Host.Outcome State Fault Refusal := .next (s.readBar0 fn off size)

/-- A 4-byte read of one half of a 64-bit register (R738). -/
def execHalfRegisterRead (fn off : Nat) (s : State) : Host.Outcome State Fault Refusal := .next (s.readBar0 fn off 4)

/-- The address of LAST_VIOLATION in a block. -/
def violationAddress (blk : Nat) : Nat := if blk = 16 then 0x20B0 else blockBase blk + 0x2B0

/-- A read of LAST_VIOLATION returns it and clears it (R782). -/
def execLastViolationRead (fn blk : Nat) (s : State) : Host.Outcome State Fault Refusal :=
  .next (s.readBar0 fn (violationAddress blk) 8)

/-! Writes (R749, R752, R753). -/

/-- A field of 64 bits after a write of 4 or 8 bytes at its low or high half. -/
def merge64 (old value size half : Nat) : Nat :=
  if size = 8 then value else if half = 0 then old / 2 ^ 32 * 2 ^ 32 + value else old % 2 ^ 32 + value * 2 ^ 32

/-- REPLY_BASE (R780). -/
def State.writeReplyBase (s : State) (fn value : Nat) : State :=
  if value % 4096 ≠ 0 ∨ (s.fn fn).reply.enable then s else s.modFn fn (fun f => { f with reply := { f.reply with base := value } })

/-- EVQ_BASE (R783). -/
def State.writeEvqBase (s : State) (fn value : Nat) : State :=
  if value % 4096 ≠ 0 ∨ (s.fn fn).events.enable then s else s.modFn fn (fun f => { f with events := { f.events with base := value } })

/-- THERM_WARN_s (R748): a signed value of 16 bits from −40 to 125. -/
def State.writeThermWarn (s : State) (i value : Nat) : State :=
  let v : Int := if value < 32768 then value else (value : Int) - 65536
  if 65536 ≤ value ∨ v < -40 ∨ 125 < v then s
  else { s with board := { s.board with sensors := modAt s.board.sensors i (fun x => { x with warn := v }) } }

/-- BAR2_WIN (R765). -/
def State.writeWindow (s : State) (fn blk value : Nat) : State :=
  let base := bits value 16 18 * 65536
  if bits value 4 12 ≠ 0 ∨ 2 ^ 34 ≤ value ∨ partBytes ≤ base ∨ !s.registersAnswer then s
  else if blk = 16 then
    if fn = 0 then s.modFn 0 (fun f => { f with windowPart := value % 16, windowBase := base }) else s
  else if fn = blk + 1 then s.modFn fn (fun f => { f with windowBase := base })
  else s

/-- A write to BAR2_WIN. -/
def execBar2WinWrite (fn blk value : Nat) (s : State) : Host.Outcome State Fault Refusal := .next (s.writeWindow fn blk value)

/-- A write of `value` in `size` bytes to RECOVERY_ADDR or RECOVERY_LEN (R21, R700, R753, R772): RWP fields. -/
def State.writeRecovery (s : State) (off size value : Nat) : State :=
  match s.presenceProblem false with
  | some r => s.refuseWrite (0x400000 + off) (value % 2 ^ 32) r.status
  | none =>
    if off / 8 * 8 = 0x300 then
      let v := merge64 s.dev.recoveryAddr value size (off % 8)
      if v % 4096 ≠ 0 then s else s.modDev (fun d => { d with recoveryAddr := v })
    else if 2 ^ 32 ≤ value then s
    else s.modDev (fun d => { d with recoveryLen := value })

/-- The ring, reply and event registers of a block, by offset from URG_CFG or EVQ_BASE; what a write to each does. -/
def State.writeRings (s : State) (fn blk o size value : Nat) : Host.Outcome State Fault Refusal :=
  let half := o % 8
  match blockOwner fn blk with
  | none => .next s
  | some f =>
    if o / 8 * 8 = 0x80 then .next (s.writeReplyBase f (merge64 (s.fn f).reply.base value size half))
    else if half ≠ 0 then .next s
    else if o = 0x00 then execRingCfgWrite fn blk false value s
    else if o = 0x10 then execDoorbell fn blk false value size [] s
    else if o = 0x40 then execRingCfgWrite fn blk true value s
    else if o = 0x50 then execDoorbell fn blk true value size [] s
    else if o = 0x88 then execReplyCfgWrite fn blk value s
    else if o = 0x90 then execReplyHeadWrite fn blk value s
    else .next s
def State.writeEvq (s : State) (fn blk o size value : Nat) : Host.Outcome State Fault Refusal :=
  match blockOwner fn blk with
  | none => .next s
  | some f =>
    let q := (s.fn f).events
    if o / 8 * 8 = 0x00 then .next (s.writeEvqBase f (merge64 q.base value size (o % 8)))
    else if o / 8 * 8 = 0x08 then
      execEvqCfgWrite fn blk (merge64 (q.word (if blk = 16 then s.dev.mirror else 0) 8) value size (o % 8)) s
    else if o = 0x10 then execEvqHeadWrite fn blk value s
    else if o = 0x30 then execEventStatusWrite fn blk value s
    else .next s

/-- A write to the device block. -/
def State.writeDevice (s : State) (fn a size value : Nat) : Host.Outcome State Fault Refusal :=
  if fn ≠ 0 then .next s
  else if a = 0x28 then execChanterRestart fn value s
  else if 0x280 ≤ a ∧ a < 0x2F8 ∧ a % 8 = 0 then .next (s.writeThermWarn ((a - 0x280) / 8) value)
  else if 0x2000 ≤ a ∧ a < 0x20B8 then s.writeRings 0 16 (a - 0x2000) size value
  else if a = 0x20C0 then execUnfreeze fn value s
  else if 0x3000 ≤ a ∧ a < 0x3038 then s.writeEvq 0 16 (a - 0x3000) size value
  else if a / 8 * 8 = 0x5000 then .next (s.writeWindow 0 16 (merge64 (s.fn 0).window value size (a % 8)))
  else if a / 8 * 8 = 0x400300 ∨ a = 0x400308 then .next (s.writeRecovery (a - 0x400000) size value)
  else if a = 0x400310 then execGo fn value (s.hostRead 0 s.dev.recoveryAddr s.dev.recoveryLen) s
  else .next s

/-- A write to partition block `p`. -/
def State.writeBlock (s : State) (fn p o size value : Nat) : Host.Outcome State Fault Refusal :=
  if 0x200 ≤ o ∧ o < 0x2B8 then s.writeRings fn p (o - 0x200) size value
  else if 0x400 ≤ o ∧ o < 0x438 then s.writeEvq fn p (o - 0x400) size value
  else if o / 8 * 8 = 0x600 then .next (s.writeWindow fn p (merge64 (s.fn fn).window value size (o % 8)))
  else if o = 0x1000 then .next (s.perfCtrl fn p value)
  else .next s

/-- A write into the MSI-X table of a function (R732, R745): address and data words, and the vector's mask bit. -/
def State.writeMsix (s : State) (fn off : Nat) (bs : List Byte) : State :=
  if 0x400 < off + bs.length then s
  else
    let s := s.modFn fn (fun f => { f with msixTable := f.msixTable.write off bs })
    let v := off / 16
    if off % 16 + bs.length ≤ 12 then s
    else if (s.fn fn).msixTable.get (16 * v + 12) % 2 = 1 then
      s.modFn fn (fun f => { f with masked := if f.masked.contains v then f.masked else v :: f.masked })
    else s.unmask fn v

/-- A write to any register (R749): 4 or 8 aligned bytes, anything else is discarded, but at a doorbell. -/
def execRegisterWrite (fn bar off size value : Nat) (s : State) : Host.Outcome State Fault Refusal :=
  let aligned := (size == 4 || size == 8) && off % size == 0
  let bell := match blockAt off with
    | some (p, o) => decide ((fn = 0 ∨ fn = p + 1) ∧ (o / 4 * 4 = 0x210 ∨ o / 4 * 4 = 0x250))
    | none => decide (fn = 0 ∧ (off / 4 * 4 = 0x2010 ∨ off / 4 * 4 = 0x2050))
  if bar = 4 then .next (if aligned then s.writeMsix fn off (leBytes size value) else s)
  else if bar ≠ 0 then .next s
  else
    let s := s.modFn fn (fun f => { f with latch := none, ledgerLatch := f.keepLedger off })
    if !aligned && !bell then .next s
    else if !s.registersAnswer then .next s
    else match blockAt off with
      | some (p, o) =>
        if !aligned then s.writeRings fn p ((o - 0x200) / 8 * 8) (if size = 4 then 0 else size) value else s.writeBlock fn p o size value
      | none =>
        if !aligned then s.writeRings fn 16 ((off - 0x2000) / 8 * 8) (if size = 4 then 0 else size) value else s.writeDevice fn off size value

/-! The BAR2 aperture (R492, R538, R683, R765). -/

/-- The physical partition and partition-local address of a BAR2 offset. -/
def State.apertureAt (s : State) (fn off : Nat) : Nat × Nat :=
  let f := s.fn fn
  (if fn = 0 then f.windowPart else fn - 1, f.windowBase + off)

/-- A byte read through the aperture: zero beyond 12 GiB and in a retired page. -/
def State.apertureByte (s : State) (p a : Nat) : Byte :=
  if partBytes ≤ a ∨ s.dev.retired.contains (p, a / pageBytes) then 0 else (s.part p).hbm.get a

/-- BAR2_REFUSED, at most once a second for reads and once for writes. -/
def State.bar2Refused (s : State) (write : Bool) (off : Nat) : State :=
  let (ok, s) := s.once 0x0209 (flag write)
  if ok then s.raiseD 0x0209 1 0xFF (flag write) (leBytes 8 off) else s

/-- A BAR2 read. -/
def execBar2Read (fn off size : Nat) (s : State) : Host.Outcome State Fault Refusal :=
  let done (s : State) (bs : List Byte) : State := { s with out := { s.out with read := bs, poisoned := false } }
  let (p, a) := s.apertureAt fn off
  if s.beforeReady then .next (done s (zeros size))
  else if s.presence.loop && !s.presence.latch then .next (done s ((List.range size).map (fun i => s.apertureByte p (a + i))))
  else .next (done (s.bar2Refused false off) (zeros size))

/-- Ranges of a group that no BAR2 write reaches: programs, pools, sessions (R299, R450, R506). -/
def State.protectedRanges (s : State) (t : Nat) : List Range :=
  let o := (s.train t).objects
  o.programs.map (fun p => ⟨p.addr, 128 * p.count⟩) ++ o.pools.map (fun p => ⟨p.base, p.length⟩) ++ o.sessions.flatMap (·.ranges)
    ++ ((s.train t).works.filter (fun w => w.cmd.opcode != 0x30)).flatMap (·.locks)

/-- A BAR2 write: held until the next passed seal, or discarded. -/
def execBar2Write (fn off : Nat) (data : List Byte) (s : State) : Host.Outcome State Fault Refusal :=
  let (p, a) := s.apertureAt fn off
  if s.beforeReady then .next s
  else if (s.presenceProblem false).isSome then .next (s.bar2Refused true off)
  else
    let t := s.leaderOf p
    let r : Range := ⟨unmapHbm t (s.groupSize t) p a, data.length⟩
    let held := s.dev.heldWrites.foldl (fun n h => n + h.data.length) 0
    if partBytes < a + data.length ∨ s.dev.retired.contains (p, a / pageBytes) ∨ (s.protectedRanges t).any (·.meets r) then .next s
    else if 65536 < held + data.length then .next (s.raiseD 0x0208 1 0xFF 0 (leBytes 8 off))
    else .next (s.modDev (fun d => { d with heldWrites := d.heldWrites ++ [{ part := p, addr := a, data := data }] }))

end Sys2Proof.Machine
end

