-- ==== Sys2Proof/Machine/Board.lean ====
section
/-! DEFINITION. Sensors, trips, power, the host link's retraining, Ligature modules, LEDs and the sideband (chapter 24,
R743, R744). -/

namespace Sys2Proof.Machine

def State.modBoard (s : State) (g : Board → Board) : State := { s with board := g s.board }

/-! Temperatures (R748, R800). -/

/-- Trip thresholds of sensors 0 to 14 in °C (Table 24.4). -/
def tripAt (i : Nat) : Int := if i = 0 then 55 else if i = 1 then 75 else if i < 7 then 110 else 105

/-- A reading of a temperature sensor: the warning, its arming, and the count towards a trip. -/
def execSensorReading (sensor : Nat) (value : Int) (s : State) : Host.Outcome State Fault Refusal :=
  match s.board.sensors[sensor]? with
  | none => .next s
  | some x =>
    if !s.board.good then .next s
    else
      let armed := x.armed || decide (value ≤ x.warn - 3)
      let warns := armed && decide (x.warn ≤ value)
      let put (s : State) (armed : Bool) : State := s.modBoard (fun b => { b with
        sensors := b.sensors.set sensor { x with
          now := value, armed := armed, overTrip := if tripAt sensor ≤ value then x.overTrip + 1 else 0 } })
      if warns then
        let (ok, s) := s.once 0x0901 sensor
        if ok then .next ((put s false).raiseD 0x0901 1 sensor 0 (leBytes 2 (twos 16 value))) else .next (put s armed)
      else .next (put s armed)

/-- The power-fail warning (R714, R798): the card stops; ALERT# is released (R813). -/
def State.powerFail (s : State) (cause : Nat) : State :=
  if s.powered then
    s.modBoard (fun b => { b with holdUp := true, alert := false, tripCause := if b.tripCause = 0 then cause else b.tripCause })
  else s

/-- A thermal trip: three consecutive readings at or above the threshold (R800). -/
def execThermalTrip (sensor : Nat) (s : State) : Host.Outcome State Fault Refusal :=
  match s.board.sensors[sensor]? with
  | none => .next s
  | some x => .next (if 3 ≤ x.overTrip then s.powerFail 1 else s)

/-- The power controller raises the warning (R797): 0 input voltage, 1 sense pins, 2 power above 1,650 W; the thermal trip
is a command of its own. Sense pins and power latch a power cause (R793, R799). -/
def execPowerFailWarning (cause : Nat) (s : State) : Host.Outcome State Fault Refusal :=
  .next (s.powerFail (if cause = 1 ∨ cause = 2 then 2 else 0))

/-- The hold-up ends: every rail but the auxiliary is off, the bay latches open (R640, R798). -/
def execHoldUpEnd (s : State) : Host.Outcome State Fault Refusal :=
  .next (if s.board.holdUp then
      { s.modBoard (fun b => { b with holdUp := false, good := false, perst := true }) with
        bays := s.bays.map (fun (b : Bay) => { b with latchClosed := false }) }
    else s)

/-- 3.3 V auxiliary is lost (R800, R810, R813): the trip cause and ALERT# go with it. -/
def execAuxPowerLoss (s : State) : Host.Outcome State Fault Refusal :=
  .next (s.modBoard (fun b => { b with aux := false, tripCause := 0, alert := false }))

/-- 3.3 V auxiliary returns (R794). -/
def execAuxPowerReturn (s : State) : Host.Outcome State Fault Refusal :=
  .next (s.modBoard (fun b => { b with aux := true }))

/-! Links. -/

/-- The host link retrains without a reset (R179, R802). -/
def execPcieLinkRetrain (gen width : Nat) (s : State) : Host.Outcome State Fault Refusal :=
  .next (if s.powered && !s.board.perst then s.modDev (fun d => { d with linkGen := gen, linkWidth := width }) else s)

/-- An OSFP module is inserted (R804): its kind, lanes and length decide whether the port may train. -/
def execModuleInserted (port : Nat) (passive active : Bool) (lanes metres : Nat) (s : State) : Host.Outcome State Fault Refusal :=
  .next (if port < 2 then
      s.modLink port (fun l => { l with usable := (passive || (active && lanes == 8)) && decide (metres ≤ 3) })
    else s)

/-! LEDs (R639, R661, R807). -/

/-- An LED pattern: colour 0 off, 1 green, 2 amber, 3 green and amber alternating; blink rate in quarter hertz, 0 steady. -/
structure Led where
  colour : Nat
  blink : Nat := 0
  deriving DecidableEq, Repr

/-- The STATUS LED (Table 24.9), a missing power input aside. -/
def State.statusLed (s : State) : Led :=
  if !s.board.aux then ⟨0, 0⟩
  else if s.board.tripCause = 1 then ⟨2, 16⟩
  else if s.board.tripCause = 2 then ⟨2, 8⟩
  else if !s.board.good then ⟨0, 0⟩
  else match s.dev.state with
    | .failed => ⟨2, 0⟩
    | .ready => ⟨1, 0⟩
    | .shuttingDown => ⟨1, 1⟩
    | .halted => ⟨1, 1⟩
    | _ => ⟨1, 4⟩

/-- A bay's LED (Table 19.4). -/
def BayState.led : BayState → Led
  | .empty => ⟨0, 0⟩ | .mounting => ⟨3, 8⟩ | .standby => ⟨1, 2⟩ | .active => ⟨1, 0⟩ | .full => ⟨2, 0⟩ | .retired => ⟨2, 0⟩
  | .faulted => ⟨2, 16⟩ | .foreign => ⟨2, 16⟩ | .released => ⟨1, 16⟩

/-! The sideband (R743, R744, R811, R812). -/

/-- The endpoint answers: from the end of phase 1, not after a trip and not in the hold-up. -/
def State.sidebandAnswers (s : State) : Bool := s.board.aux && s.powered && !s.dev.phase1 && s.board.tripCause == 0

/-- A response of the endpoint, from its completion code on: the header before it echoes the request (R14). -/
def State.respond (s : State) (bs : List Byte) : State :=
  if s.sidebandAnswers then { s with out := { s.out with sideband := bs } } else s

/-- Set Endpoint ID (PRESUMED, assumption 15: the MCTP standard's response; a null or broadcast ID is refused). -/
def execSetEndpointId (eid : Nat) (s : State) : Host.Outcome State Fault Refusal :=
  if !s.sidebandAnswers then .next s
  else if eid = 0 ∨ 255 ≤ eid then .next (s.respond [2])
  else .next ((s.modBoard (fun b => { b with eid := eid })).respond [0, 0, byte eid, 0])

/-- Get Endpoint ID. -/
def execGetEndpointId (s : State) : Host.Outcome State Fault Refusal := .next (s.respond [0, byte s.board.eid, 0, 0])

/-- Get Endpoint UUID. -/
def execGetEndpointUuid (s : State) : Host.Outcome State Fault Refusal := .next (s.respond (0 :: fit 16 Config.uuid))

/-- Get MCTP Version Support: of the base, control, PLDM and vendor-defined message types. -/
def execGetMctpVersionSupport (msgType : Nat) (s : State) : Host.Outcome State Fault Refusal :=
  .next (s.respond (if [0x00, 0x01, 0x7E, 0xFF].contains msgType then [0, 1] ++ fit 4 (Config.version msgType) else [0x80]))

/-- Get Message Type Support: PLDM and vendor-defined beside control. -/
def execGetMessageTypeSupport (s : State) : Host.Outcome State Fault Refusal := .next (s.respond [0, 2, 0x01, 0x7E])

/-- GetTID. -/
def execGetTid (s : State) : Host.Outcome State Fault Refusal := .next (s.respond [0, byte Config.tid])

/-- GetPLDMVersion of types 0 and 2. -/
def execGetPldmVersion (pldmType : Nat) (s : State) : Host.Outcome State Fault Refusal :=
  .next (s.respond (if pldmType = 0 ∨ pldmType = 2 then 0 :: Config.version (0x100 + pldmType) else [0x83]))

/-- GetPLDMTypes: types 0 and 2. -/
def execGetPldmTypes (s : State) : Host.Outcome State Fault Refusal := .next (s.respond (0 :: leBytes 8 5))

/-- A bitmap of command codes in 32 bytes. -/
def commandMap (cs : List Nat) : List Byte := leBytes 32 (bitmap cs)

/-- GetPLDMCommands of types 0 and 2. -/
def execGetPldmCommands (pldmType : Nat) (s : State) : Host.Outcome State Fault Refusal :=
  .next (s.respond (if pldmType = 0 then 0 :: commandMap [2, 3, 4, 5]
    else if pldmType = 2 then 0 :: commandMap [0x11, 0x50, 0x51] else [0x83]))

/-- GetPDRRepositoryInfo. -/
def execGetPdrRepositoryInfo (s : State) : Host.Outcome State Fault Refusal := .next (s.respond (0 :: Config.pdrInfo))

/-- GetPDR. -/
def execGetPdr (record : Nat) (s : State) : Host.Outcome State Fault Refusal := .next (s.respond (0 :: Config.pdr record))

/-- The items of Table 22.8 as unsigned values, temperatures in two's complement; the places of several codes in one value
are the model's (assumption 15). -/
def State.telemetry (s : State) (i : Nat) : Option Nat :=
  if i < 15 then (s.board.sensors[i]?).map (fun x => twos 16 x.now)
  else if i < 20 then some (s.board.power.getD (i - 15) 0)
  else if i = 32 then some (stateCode s.dev.state)
  else if i = 33 then some (s.dev.selfTestPart + 2 ^ 16 * s.dev.selfTestDev)
  else if i = 34 then some (flag s.dev.service + 2 * s.dev.retired.length)
  else if i = 35 then some (flag (decide (s.ledger.hold ≠ 0))
    + 2 * (if s.ledger.hold = 0x1301 then 1 else if s.ledger.hold = 0x1302 then 2 else 0) + 8 * s.board.alarm + 32 * s.ledger.flashCode)
  else if i = 36 then some (bayCode (s.bay 0).state + 16 * bayCode (s.bay 1).state)
  else if i = 37 then some (keyCode s.presence.key + 4 * flag s.presence.window.isSome + 8 * flag s.presence.loop
    + 16 * flag s.presence.latch)
  else none

/-- The data size code and the reading of a numeric sensor in the PLDM standard's form: temperatures as signed and powers as
unsigned 16-bit values, bitmaps and codes as unsigned 32-bit values (R812; assumption 15). -/
def sensorField (i v : Nat) : List Byte × List Byte :=
  if i < 15 then ([3], leBytes 2 v) else if i < 20 then ([2], leBytes 2 v) else ([4], leBytes 4 v)

/-- GetSensorReading (R743): completion code, data size, the five state bytes of the standard, the reading (R14); sensors 32
and 35 release the alert (R744). -/
def execGetSensorReading (sensor : Nat) (s : State) : Host.Outcome State Fault Refusal :=
  match s.telemetry sensor with
  | none => .next (s.respond [0x80])
  | some v =>
    let (size, reading) := sensorField sensor v
    let t := s.respond (0 :: size ++ fit 5 (Config.sensorStates sensor) ++ reading)
    .next (if s.sidebandAnswers && (sensor == 32 || sensor == 35) then t.modBoard (fun b => { b with alert := false }) else t)

/-- READ_LAST_GASP (R812). -/
def execReadLastGasp (entry : Nat) (s : State) : Host.Outcome State Fault Refusal :=
  .next (s.respond (if entry < s.ledger.gasp.entries.length then 0 :: s.gaspEntry entry else [1]))

/-- Any other message (R812): the completion code of an unsupported PLDM type, or of an unsupported command (PRESUMED,
assumption 15); nothing else changes. The command code stands in the header, before the completion code, with which
`sideband` begins. -/
def execUnsupportedSidebandMessage (msgType pldmType _cmd : Nat) (s : State) : Host.Outcome State Fault Refusal :=
  .next (s.respond (if msgType = 1 ∧ pldmType ≠ 0 ∧ pldmType ≠ 2 then [0x20] else [0x05]))

end Sys2Proof.Machine
end

