-- ==== Sys2Proof/Machine/Commands.lean ====
section
/-! DEFINITION. The opcodes as the host submits them: the packet is written to its ring and the doorbell rung
(R115); its checking, issue and effect follow in the Breath of its train (Machine/Check, Execute, Breath). -/

namespace Sys2Proof.Machine

/-- Does nothing and replies with the ring's expected sequence. (R192) -/
def execNop (h : PacketHeader) (s : State) : Host.Outcome State Fault Refusal :=
  submitPacket h (.nop) s

/-- Returns firmware release, stepping, device state, device time and link parameters. (R194) -/
def execDevQuery (h : PacketHeader) (s : State) : Host.Outcome State Fault Refusal :=
  submitPacket h (.devQuery) s

/-- Sets device time to a target at a named administrative Breath, stepping forward or slewing back by at most 1 ms. (R196) -/
def execTimeSet (h : PacketHeader) (target breath : Nat) (s : State) : Host.Outcome State Fault Refusal :=
  submitPacket h (.timeSet target breath) s

/-- Stops admission, drains sliced work up to a limit, commits staged records and leads to HALTED. (R198) -/
def execShutdown (h : PacketHeader) (limit : Nat) (s : State) : Host.Outcome State Fault Refusal :=
  submitPacket h (.shutdown limit) s

/-- Changes the Breath period and Bulk floor of an idle partition or group. (R46) -/
def execBreathSet (h : PacketHeader) (n5 floor : Nat) (s : State) : Host.Outcome State Fault Refusal :=
  submitPacket h (.breathSet n5 floor) s

/-- Privileged regroup of an aligned block: drains, clears on-chip state and applies the new grouping, period and power step.
(R92) -/
def execPartGroup (h : PacketHeader) (block blockSize newSize step n5 limit : Nat)
    (s : State) : Host.Outcome State Fault Refusal :=
  submitPacket h (.partGroup block blockSize newSize step n5 limit) s

/-- PF sets a partition's energy share, effective at its next admission point. (R103) -/
def execPartQos (h : PacketHeader) (share : Nat) (s : State) : Host.Outcome State Fault Refusal :=
  submitPacket h (.partQos share) s

/-- Changes an idle group's core clock within a quiet Breath. (R106) -/
def execPartPower (h : PacketHeader) (step : Nat) (s : State) : Host.Outcome State Fault Refusal :=
  submitPacket h (.partPower step) s

/-- Registers a data or spill region of host memory and returns its handle. (R152) -/
def execBellowsRegister (h : PacketHeader) (kind slotLog2 countM1 options headerBase payloadBase : Nat)
    (s : State) : Host.Outcome State Fault Refusal :=
  submitPacket h (.bellowsRegister kind slotLog2 countM1 options headerBase payloadBase) s

/-- Withdraws a region, refusing in mode 0 if slots are in use or ending holding commands in mode 1. (R170) -/
def execBellowsDeregister (h : PacketHeader) (region mode : Nat) (s : State) : Host.Outcome State Fault Refusal :=
  submitPacket h (.bellowsDeregister region mode) s

/-- Copies the valid payload of an input slot into HBM. (R212) -/
def execBellowsRead (h : PacketHeader) (source : SlotRef) (dest : Nat) (s : State) : Host.Outcome State Fault Refusal :=
  submitPacket h (.bellowsRead source dest) s

/-- Copies an HBM range into an output slot. (R214) -/
def execBellowsWrite (h : PacketHeader) (dest : SlotRef) (source length : Nat) (s : State) : Host.Outcome State Fault Refusal :=
  submitPacket h (.bellowsWrite dest source length) s

/-- Fills an HBM range with a 32-bit pattern in sliced steps, skipping retired pages. (R216) -/
def execMemFill (h : PacketHeader) (addr length pattern : Nat) (s : State) : Host.Outcome State Fault Refusal :=
  submitPacket h (.memFill addr length pattern) s

/-- Enters a 64 KiB HBM page in the persistent retirement table. (R218) -/
def execRetirePage (h : PacketHeader) (addr : Nat) (s : State) : Host.Outcome State Fault Refusal :=
  submitPacket h (.retirePage addr) s

/-- Declares an HBM range as a model after checking its SHA-256 digest. (R220) -/
def execModelLoad (h : PacketHeader) (digest : List Byte) (addr length format : Nat)
    (s : State) : Host.Outcome State Fault Refusal :=
  submitPacket h (.modelLoad digest addr length format) s

/-- Copies a model's Stop image into Stop banks in sliced steps and tests every pinned macro. (R356) -/
def execStopPin (h : PacketHeader) (model firstCore cores : Nat) (s : State) : Host.Outcome State Fault Refusal :=
  submitPacket h (.stopPin model firstCore cores) s

/-- Frees the Stop banks of a residency. (R224) -/
def execStopRelease (h : PacketHeader) (residency : Nat) (s : State) : Host.Outcome State Fault Refusal :=
  submitPacket h (.stopRelease residency) s

/-- Releases a model and frees its HBM range. (R224) -/
def execModelRelease (h : PacketHeader) (model : Nat) (s : State) : Host.Outcome State Fault Refusal :=
  submitPacket h (.modelRelease model) s

/-- Checks and registers a program of descriptors in HBM and returns its handle. (R226) -/
def execProgRegister (h : PacketHeader) (addr count : Nat) (s : State) : Host.Outcome State Fault Refusal :=
  submitPacket h (.progRegister addr count) s

/-- Releases a registered program. (R228) -/
def execProgRelease (h : PacketHeader) (program : Nat) (s : State) : Host.Outcome State Fault Refusal :=
  submitPacket h (.progRelease program) s

/-- Writes shape registers of the group leader. (R230) -/
def execShapeSet (h : PacketHeader) (first count : Nat) (values : List Nat) (s : State) : Host.Outcome State Fault Refusal :=
  submitPacket h (.shapeSet first count values) s

/-- Runs a program once as one compute step. (R232) -/
def execProgRun (h : PacketHeader) (program seed : Nat) (slots : List SlotRef) (s : State) : Host.Outcome State Fault Refusal :=
  submitPacket h (.progRun program seed slots) s

/-- Creates a history pool from a pool descriptor in HBM and clears its control area. (R450) -/
def execHistPool (h : PacketHeader) (base pages pageSize : Nat) (s : State) : Host.Outcome State Fault Refusal :=
  submitPacket h (.histPool base pages pageSize) s

/-- Opens a sequence in a pool with a fixed overflow policy. (R454) -/
def execHistOpen (h : PacketHeader) (pool policy region key : Nat) (s : State) : Host.Outcome State Fault Refusal :=
  submitPacket h (.histOpen pool policy region key) s

/-- Builds a cold sequence from stored tokens, one page per step. (R461) -/
def execHistPrefill (h : PacketHeader) (program sequence : Nat) (tokens : SlotRef)
    (s : State) : Host.Outcome State Fault Refusal :=
  submitPacket h (.histPrefill program sequence tokens) s

/-- Closes a sequence or an empty pool and frees its pages. (R240) -/
def execHistClose (h : PacketHeader) (handle : Nat) (s : State) : Host.Outcome State Fault Refusal :=
  submitPacket h (.histClose handle) s

/-- Appends one token to a sequence and runs a refinement program for the given number of steps as one Urgent step. (R242) -/
def execScore (h : PacketHeader) (program sequence seed steps : Nat) (input output : SlotRef)
    (s : State) : Host.Outcome State Fault Refusal :=
  submitPacket h (.score program sequence seed steps input output) s

/-- Submits a sliced Bulk refinement job, refused STEP_TOO_LONG if one step exceeds an empty Breath. (R245) -/
def execJobSubmit (h : PacketHeader) (program seed steps : Nat) (input output : SlotRef)
    (s : State) : Host.Outcome State Fault Refusal :=
  submitPacket h (.jobSubmit program seed steps input output) s

/-- Stops further steps of the oldest job of the function carrying the named tag. (R247) -/
def execJobCancel (h : PacketHeader) (tag : Nat) (s : State) : Host.Outcome State Fault Refusal :=
  submitPacket h (.jobCancel tag) s

/-- Opens a video session on a decoder engine with a reserved decode rate. (R504) -/
def execVidOpen (h : PacketHeader) (codec width height buffers desc : Nat) (s : State) : Host.Outcome State Fault Refusal :=
  submitPacket h (.vidOpen codec width height buffers desc) s

/-- Decodes access units, conditions output frames, writes statistics and presents one frame per tick. (R516) -/
def execVidDecode (h : PacketHeader) (session : Nat) (bitstream statistics : SlotRef)
    (s : State) : Host.Outcome State Fault Refusal :=
  submitPacket h (.vidDecode session bitstream statistics) s

/-- Writes the session's shadow conditioning set, active from the next Breath. (R253) -/
def execSetConditioning (h : PacketHeader) (session generation gain offset x y w hgt gamma : Nat)
    (s : State) : Host.Outcome State Fault Refusal :=
  submitPacket h (.setConditioning session generation gain offset x y w hgt gamma) s

/-- Closes a video session and frees its engine reservation. (R255) -/
def execVidClose (h : PacketHeader) (session : Nat) (s : State) : Host.Outcome State Fault Refusal :=
  submitPacket h (.vidClose session) s

/-- Freezes a group's state at a Breath and drains a checkpoint image at a paced rate. (R590) -/
def execSnapshotShadow (h : PacketHeader) (freeze region firstSlot rate : Nat) (s : State) : Host.Outcome State Fault Refusal :=
  submitPacket h (.snapshotShadow freeze region firstSlot rate) s

/-- Stops every train of the card or consort at an agreed Breath and drains all images unpaced. (R595) -/
def execSnapshotStop (h : PacketHeader) (stop region firstSlot : Nat) (s : State) : Host.Outcome State Fault Refusal :=
  submitPacket h (.snapshotStop stop region firstSlot) s

/-- Rebuilds an idle group from a checkpoint image in Bellows slots. (R600) -/
def execRestore (h : PacketHeader) (region firstSlot : Nat) (s : State) : Host.Outcome State Fault Refusal :=
  submitPacket h (.restore region firstSlot) s

/-- Starts formation of a consort: digest check, port training, HELLO exchange and timebase alignment. (R563) -/
def execConsortForm (h : PacketHeader) (card members topology ports : Nat) (digest : List Byte) (timeout : Nat)
    (s : State) : Host.Outcome State Fault Refusal :=
  submitPacket h (.consortForm card members topology ports digest timeout) s

/-- Makes the card leave the consort after a named administrative Breath. (R582) -/
def execConsortLeave (h : PacketHeader) (breath : Nat) (s : State) : Host.Outcome State Fault Refusal :=
  submitPacket h (.consortLeave breath) s

/-- Privileged selection of FAIL_CLOSED or FAIL_OPEN from the next admission point. (R267) -/
def execAuditPolicy (h : PacketHeader) (policy : Nat) (s : State) : Host.Outcome State Fault Refusal :=
  submitPacket h (.auditPolicy policy) s

/-- Privileged retirement of a cartridge: stages its record, commits a closing folio and sets life-page bit 1. (R269) -/
def execCartRetire (h : PacketHeader) (bay : Nat) (s : State) : Host.Outcome State Fault Refusal :=
  submitPacket h (.cartRetire bay) s

/-- Commits every record staged before its Breath to a cartridge as whole folios. (R271) -/
def execLedgerFlush (h : PacketHeader) (s : State) : Host.Outcome State Fault Refusal :=
  submitPacket h (.ledgerFlush) s

/-- Stores 32 bytes of host data as a NOTE record. (R273) -/
def execLedgerNote (h : PacketHeader) (data : List Byte) (s : State) : Host.Outcome State Fault Refusal :=
  submitPacket h (.ledgerNote data) s

/-- Commits the open folio, stops writing to a bay and releases its latch. (R275) -/
def execBayEject (h : PacketHeader) (bay : Nat) (s : State) : Host.Outcome State Fault Refusal :=
  submitPacket h (.bayEject bay) s

/-- Privileged write of a checked, signed firmware image to the inactive bank. (R687) -/
def execFwUpdate (h : PacketHeader) (image : SlotRef) (target activate : Nat) (s : State) : Host.Outcome State Fault Refusal :=
  submitPacket h (.fwUpdate image target activate) s

/-- Privileged install or replacement of the owner key. (R690) -/
def execOwnerKeyInstall (h : PacketHeader) (key : SlotRef) (s : State) : Host.Outcome State Fault Refusal :=
  submitPacket h (.ownerKeyInstall key) s

/-- Privileged clear of the seal latch inside a window with the loop continuous. (R281) -/
def execSealClear (h : PacketHeader) (s : State) : Host.Outcome State Fault Refusal :=
  submitPacket h (.sealClear) s

/-- Privileged change of the presence window length for later windows. (R283) -/
def execPresenceSet (h : PacketHeader) (length : Nat) (s : State) : Host.Outcome State Fault Refusal :=
  submitPacket h (.presenceSet length) s

/-- Writes a signed attestation quote with certificate to an output slot. (R692) -/
def execAttest (h : PacketHeader) (nonce : List Byte) (output : SlotRef) (s : State) : Host.Outcome State Fault Refusal :=
  submitPacket h (.attest nonce output) s

/-- Runs the quick or full diagnostic set on every core of an idle group and faults failing partitions. (R552) -/
def execDiagRun (h : PacketHeader) (set : Nat) (s : State) : Host.Outcome State Fault Refusal :=
  submitPacket h (.diagRun set) s

/-- Loads range monitors replacing every monitor of the group. (R375) -/
def execDroneCfg (h : PacketHeader) (envelopes : SlotRef) (mode : Nat) (s : State) : Host.Outcome State Fault Refusal :=
  submitPacket h (.droneCfg envelopes mode) s

end Sys2Proof.Machine
end

