-- ==== Sys2Proof/Machine/Dispatch.lean ====
section
/-! DEFINITION. The dispatch: one arm for each command. -/

namespace Sys2Proof.Machine

/-- What a command does to everything but the queue. -/
def exec (i : Instr) (s : State) : Host.Outcome State Fault Refusal :=
  match i with
  | .ringSlotWrite fn blk bulk off data => Sys2Proof.Machine.execRingSlotWrite fn blk bulk off data s
  | .doorbell fn blk bulk value size stores => Sys2Proof.Machine.execDoorbell fn blk bulk value size stores s
  | .replyHeadWrite fn blk value => Sys2Proof.Machine.execReplyHeadWrite fn blk value s
  | .evqHeadWrite fn blk value => Sys2Proof.Machine.execEvqHeadWrite fn blk value s
  | .ringCfgWrite fn blk bulk value => Sys2Proof.Machine.execRingCfgWrite fn blk bulk value s
  | .replyCfgWrite fn blk value => Sys2Proof.Machine.execReplyCfgWrite fn blk value s
  | .evqCfgWrite fn blk value => Sys2Proof.Machine.execEvqCfgWrite fn blk value s
  | .unfreeze fn value => Sys2Proof.Machine.execUnfreeze fn value s
  | .chanterRestart fn value => Sys2Proof.Machine.execChanterRestart fn value s
  | .snap fn blk value => Sys2Proof.Machine.execSnap fn blk value s
  | .clear fn blk value => Sys2Proof.Machine.execClear fn blk value s
  | .go fn value image => Sys2Proof.Machine.execGo fn value image s
  | .bar2WinWrite fn blk value => Sys2Proof.Machine.execBar2WinWrite fn blk value s
  | .eventStatusWrite fn blk value => Sys2Proof.Machine.execEventStatusWrite fn blk value s
  | .lastViolationRead fn blk => Sys2Proof.Machine.execLastViolationRead fn blk s
  | .ledgerNextRead fn size => Sys2Proof.Machine.execLedgerNextRead fn size s
  | .wideRegisterRead fn off size => Sys2Proof.Machine.execWideRegisterRead fn off size s
  | .halfRegisterRead fn off => Sys2Proof.Machine.execHalfRegisterRead fn off s
  | .registerWrite fn bar off size value => Sys2Proof.Machine.execRegisterWrite fn bar off size value s
  | .bar2Read fn off size => Sys2Proof.Machine.execBar2Read fn off size s
  | .bar2Write fn off data => Sys2Proof.Machine.execBar2Write fn off data s
  | .functionLevelReset vf => Sys2Proof.Machine.execFunctionLevelReset vf s
  | .deviceReset linkDown => Sys2Proof.Machine.execDeviceReset linkDown s
  | .powerGood => Sys2Proof.Machine.execPowerGood s
  | .perstDeassert gen width => Sys2Proof.Machine.execPerstDeassert gen width s
  | .bellowsPoisonedCompletion fn region slot => Sys2Proof.Machine.execBellowsPoisonedCompletion fn region slot s
  | .bellowsCompletionTimeout fn region slot => Sys2Proof.Machine.execBellowsCompletionTimeout fn region slot s
  | .bellowsUnsupportedRequest fn region completerAbort => Sys2Proof.Machine.execBellowsUnsupportedRequest fn region completerAbort s
  | .nop h => Sys2Proof.Machine.execNop h s
  | .devQuery h => Sys2Proof.Machine.execDevQuery h s
  | .timeSet h target breath => Sys2Proof.Machine.execTimeSet h target breath s
  | .shutdown h limit => Sys2Proof.Machine.execShutdown h limit s
  | .breathSet h n5 floor => Sys2Proof.Machine.execBreathSet h n5 floor s
  | .partGroup h block blockSize newSize step n5 limit => Sys2Proof.Machine.execPartGroup h block blockSize newSize step n5 limit s
  | .partQos h share => Sys2Proof.Machine.execPartQos h share s
  | .partPower h step => Sys2Proof.Machine.execPartPower h step s
  | .bellowsRegister h kind slotLog2 countM1 options headerBase payloadBase => Sys2Proof.Machine.execBellowsRegister h kind slotLog2 countM1 options headerBase payloadBase s
  | .bellowsDeregister h region mode => Sys2Proof.Machine.execBellowsDeregister h region mode s
  | .bellowsRead h source dest => Sys2Proof.Machine.execBellowsRead h source dest s
  | .bellowsWrite h dest source length => Sys2Proof.Machine.execBellowsWrite h dest source length s
  | .memFill h addr length pattern => Sys2Proof.Machine.execMemFill h addr length pattern s
  | .retirePage h addr => Sys2Proof.Machine.execRetirePage h addr s
  | .modelLoad h digest addr length format => Sys2Proof.Machine.execModelLoad h digest addr length format s
  | .stopPin h model firstCore cores => Sys2Proof.Machine.execStopPin h model firstCore cores s
  | .stopRelease h residency => Sys2Proof.Machine.execStopRelease h residency s
  | .modelRelease h model => Sys2Proof.Machine.execModelRelease h model s
  | .progRegister h addr count => Sys2Proof.Machine.execProgRegister h addr count s
  | .progRelease h program => Sys2Proof.Machine.execProgRelease h program s
  | .shapeSet h first count values => Sys2Proof.Machine.execShapeSet h first count values s
  | .progRun h program seed slots => Sys2Proof.Machine.execProgRun h program seed slots s
  | .histPool h base pages pageSize => Sys2Proof.Machine.execHistPool h base pages pageSize s
  | .histOpen h pool policy region key => Sys2Proof.Machine.execHistOpen h pool policy region key s
  | .histPrefill h program sequence tokens => Sys2Proof.Machine.execHistPrefill h program sequence tokens s
  | .histClose h handle => Sys2Proof.Machine.execHistClose h handle s
  | .score h program sequence seed steps input output => Sys2Proof.Machine.execScore h program sequence seed steps input output s
  | .jobSubmit h program seed steps input output => Sys2Proof.Machine.execJobSubmit h program seed steps input output s
  | .jobCancel h tag => Sys2Proof.Machine.execJobCancel h tag s
  | .vidOpen h codec width height buffers desc => Sys2Proof.Machine.execVidOpen h codec width height buffers desc s
  | .vidDecode h session bitstream statistics => Sys2Proof.Machine.execVidDecode h session bitstream statistics s
  | .setConditioning h session generation gain offset x y w hgt gamma => Sys2Proof.Machine.execSetConditioning h session generation gain offset x y w hgt gamma s
  | .vidClose h session => Sys2Proof.Machine.execVidClose h session s
  | .snapshotShadow h freeze region firstSlot rate => Sys2Proof.Machine.execSnapshotShadow h freeze region firstSlot rate s
  | .snapshotStop h stop region firstSlot => Sys2Proof.Machine.execSnapshotStop h stop region firstSlot s
  | .restore h region firstSlot => Sys2Proof.Machine.execRestore h region firstSlot s
  | .consortForm h card members topology ports digest timeout => Sys2Proof.Machine.execConsortForm h card members topology ports digest timeout s
  | .consortLeave h breath => Sys2Proof.Machine.execConsortLeave h breath s
  | .auditPolicy h policy => Sys2Proof.Machine.execAuditPolicy h policy s
  | .cartRetire h bay => Sys2Proof.Machine.execCartRetire h bay s
  | .ledgerFlush h => Sys2Proof.Machine.execLedgerFlush h s
  | .ledgerNote h data => Sys2Proof.Machine.execLedgerNote h data s
  | .bayEject h bay => Sys2Proof.Machine.execBayEject h bay s
  | .fwUpdate h image target activate => Sys2Proof.Machine.execFwUpdate h image target activate s
  | .ownerKeyInstall h key => Sys2Proof.Machine.execOwnerKeyInstall h key s
  | .sealClear h => Sys2Proof.Machine.execSealClear h s
  | .presenceSet h length => Sys2Proof.Machine.execPresenceSet h length s
  | .attest h nonce output => Sys2Proof.Machine.execAttest h nonce output s
  | .diagRun h set => Sys2Proof.Machine.execDiagRun h set s
  | .droneCfg h envelopes mode => Sys2Proof.Machine.execDroneCfg h envelopes mode s
  | .breathStart train => Sys2Proof.Machine.execBreathStart train s
  | .admissionPoint train => Sys2Proof.Machine.execAdmissionPoint train s
  | .sealDecision train => Sys2Proof.Machine.execSealDecision train s
  | .workComplete train cycles => Sys2Proof.Machine.execWorkComplete train cycles s
  | .checkFailure train cause core unit => Sys2Proof.Machine.execCheckFailure train cause core unit s
  | .hbmReadOutcome part channel page outcome work => Sys2Proof.Machine.execHbmReadOutcome part channel page outcome work s
  | .clmScrub core off corrected strikes => Sys2Proof.Machine.execClmScrub core off corrected strikes s
  | .drainLimit => Sys2Proof.Machine.execDrainLimit s
  | .regroupApply => Sys2Proof.Machine.execRegroupApply s
  | .shutdownDrainLimit => Sys2Proof.Machine.execShutdownDrainLimit s
  | .shutdownCommitDone => Sys2Proof.Machine.execShutdownCommitDone s
  | .retireFlashWriteDone => Sys2Proof.Machine.execRetireFlashWriteDone s
  | .fwImageWritten readBackGood => Sys2Proof.Machine.execFwImageWritten readBackGood s
  | .deregisterAccessesDone fn region => Sys2Proof.Machine.execDeregisterAccessesDone fn region s
  | .stopDrainComplete => Sys2Proof.Machine.execStopDrainComplete s
  | .restoreComplete train => Sys2Proof.Machine.execRestoreComplete train s
  | .keySwitch position => Sys2Proof.Machine.execKeySwitch position s
  | .presentHold => Sys2Proof.Machine.execPresentHold s
  | .presenceWindowEnd => Sys2Proof.Machine.execPresenceWindowEnd s
  | .sealLoopInterruption microsecond staysOpen => Sys2Proof.Machine.execSealLoopInterruption microsecond staysOpen s
  | .backupCellLow => Sys2Proof.Machine.execBackupCellLow s
  | .folioCloseTimeout => Sys2Proof.Machine.execFolioCloseTimeout s
  | .folioCommitComplete bay outcome => Sys2Proof.Machine.execFolioCommitComplete bay outcome s
  | .holdingFlashCommit good => Sys2Proof.Machine.execHoldingFlashCommit good s
  | .cardDetect bay cart => Sys2Proof.Machine.execCardDetect bay cart s
  | .mountComplete bay ddr50 protocolError => Sys2Proof.Machine.execMountComplete bay ddr50 protocolError s
  | .cardRemoved bay => Sys2Proof.Machine.execCardRemoved bay s
  | .ejectButton bay => Sys2Proof.Machine.execEjectButton bay s
  | .bayRelease bay => Sys2Proof.Machine.execBayRelease bay s
  | .releaseTimeout bay => Sys2Proof.Machine.execReleaseTimeout bay s
  | .powerFailWarning cause => Sys2Proof.Machine.execPowerFailWarning cause s
  | .holdUpEnd => Sys2Proof.Machine.execHoldUpEnd s
  | .sensorReading sensor value => Sys2Proof.Machine.execSensorReading sensor value s
  | .thermalTrip sensor => Sys2Proof.Machine.execThermalTrip sensor s
  | .imageCheckComplete => Sys2Proof.Machine.execImageCheckComplete s
  | .stagingRecoveryComplete flashMapGood => Sys2Proof.Machine.execStagingRecoveryComplete flashMapGood s
  | .hbmTrainingComplete => Sys2Proof.Machine.execHbmTrainingComplete s
  | .selfTestComplete parts units channels => Sys2Proof.Machine.execSelfTestComplete parts units channels s
  | .coreInitialisationComplete => Sys2Proof.Machine.execCoreInitialisationComplete s
  | .ledgerMountComplete => Sys2Proof.Machine.execLedgerMountComplete s
  | .bootAttemptTimeout => Sys2Proof.Machine.execBootAttemptTimeout s
  | .chanterWatchdog => Sys2Proof.Machine.execChanterWatchdog s
  | .chanterReloadComplete => Sys2Proof.Machine.execChanterReloadComplete s
  | .partitionSelfTestComplete leader failing => Sys2Proof.Machine.execPartitionSelfTestComplete leader failing s
  | .recoveryComplete bank0Good bank1Good => Sys2Proof.Machine.execRecoveryComplete bank0Good bank1Good s
  | .hello link card members topology port block => Sys2Proof.Machine.execHello link card members topology port block s
  | .time link leaderTimebase delay phaseError => Sys2Proof.Machine.execTime link leaderTimebase delay phaseError s
  | .admitFrame link group breath steps => Sys2Proof.Machine.execAdmitFrame link group breath steps s
  | .data link breath part addr bytes => Sys2Proof.Machine.execData link breath part addr bytes s
  | .sealFrame link card group breath pass causes digest => Sys2Proof.Machine.execSealFrame link card group breath pass causes digest s
  | .control link kind card cause value => Sys2Proof.Machine.execControl link kind card cause value s
  | .linkRetrain port trained => Sys2Proof.Machine.execLinkRetrain port trained s
  | .formationComplete start adminBreath groupBreaths => Sys2Proof.Machine.execFormationComplete start adminBreath groupBreaths s
  | .formationTimeout heard => Sys2Proof.Machine.execFormationTimeout heard s
  | .verdictDeadline group => Sys2Proof.Machine.execVerdictDeadline group s
  | .moduleInserted port passive active lanes metres => Sys2Proof.Machine.execModuleInserted port passive active lanes metres s
  | .engineTimeout train session => Sys2Proof.Machine.execEngineTimeout train session s
  | .setEndpointId eid => Sys2Proof.Machine.execSetEndpointId eid s
  | .getEndpointId => Sys2Proof.Machine.execGetEndpointId s
  | .getEndpointUuid => Sys2Proof.Machine.execGetEndpointUuid s
  | .getMctpVersionSupport msgType => Sys2Proof.Machine.execGetMctpVersionSupport msgType s
  | .getMessageTypeSupport => Sys2Proof.Machine.execGetMessageTypeSupport s
  | .getTid => Sys2Proof.Machine.execGetTid s
  | .getPldmVersion pldmType => Sys2Proof.Machine.execGetPldmVersion pldmType s
  | .getPldmTypes => Sys2Proof.Machine.execGetPldmTypes s
  | .getPldmCommands pldmType => Sys2Proof.Machine.execGetPldmCommands pldmType s
  | .getPdrRepositoryInfo => Sys2Proof.Machine.execGetPdrRepositoryInfo s
  | .getPdr record => Sys2Proof.Machine.execGetPdr record s
  | .getSensorReading sensor => Sys2Proof.Machine.execGetSensorReading sensor s
  | .readLastGasp entry => Sys2Proof.Machine.execReadLastGasp entry s
  | .unsupportedSidebandMessage msgType pldmType cmd => Sys2Proof.Machine.execUnsupportedSidebandMessage msgType pldmType cmd s
  | .powerAndRomComplete => Sys2Proof.Machine.execPowerAndRomComplete s
  | .timeSlewComplete => Sys2Proof.Machine.execTimeSlewComplete s
  | .sealLoopRestored => Sys2Proof.Machine.execSealLoopRestored s
  | .auxPowerLoss => Sys2Proof.Machine.execAuxPowerLoss s
  | .auxPowerReturn => Sys2Proof.Machine.execAuxPowerReturn s
  | .pcieLinkRetrain gen width => Sys2Proof.Machine.execPcieLinkRetrain gen width s
  | .msixVectorUnmask fn vector => Sys2Proof.Machine.execMsixVectorUnmask fn vector s
  | .msixModerationExpiry fn => Sys2Proof.Machine.execMsixModerationExpiry fn s
  | .eventSecondEnd => Sys2Proof.Machine.execEventSecondEnd s
  | .ownerKeyStored => Sys2Proof.Machine.execOwnerKeyStored s
  | .attestQuoteSigned => Sys2Proof.Machine.execAttestQuoteSigned s

end Sys2Proof.Machine
end

