-- ==== Sys2Proof/Machine/Time.lean ====
section
/-! DEFINITION. The clocks: what one unit of the timebase does. -/

namespace Sys2Proof.Machine

/-- One 10 ns unit of the timebase (R43) while the card has power: the timebase counts by 1 and device time by 10 ns, or
during a backward slew by 9 ns on one unit in a hundred (R75, R77; the unit whose timebase is a multiple of 100: assumption
16). CYC_SNAP counts the core cycles of the group's power step (R737). -/
def tick (s : State) : State :=
  if !s.board.good then s
  else { s with
    clock := { s.clock with
      timebase := s.clock.timebase + 1
      time := s.clock.time + (if 0 < s.clock.slew ∧ s.clock.timebase % 100 = 0 then 9 else 10)
      slew := if s.clock.timebase % 100 = 0 then s.clock.slew - 1 else s.clock.slew }
    parts := s.parts.map (fun p => { p with cycSnap := (p.cycSnap + clockOf (s.train p.leader).step / 10) % 2 ^ 48 }) }

end Sys2Proof.Machine
end

