-- ==== Sys2Proof/Safety.lean ====
section
/-! DEFINITION. What counts as a sound state and a safe run, in the terms the statements use. -/

namespace Sys2Proof.Machine

/-- The memories of a function are canonical: its ring windows and its MSI-X table. -/
def Function.wf (f : Function) : Bool := f.urgent.window.wf && f.bulk.window.wf && f.msixTable.wf

/-- The memories of a core are canonical: its CLM, its Stop bank and its check planes. -/
def Core.wf (c : Core) : Bool := c.clm.wf && c.stop.wf && c.check.wf

/-- A partition has its sixteen cores and sixteen pseudo-channels, and its memories are canonical. -/
def Part.wf (p : Part) : Bool := decide (p.cores.length = 16) && decide (p.channels.length = 16) && p.hbm.wf && p.cores.all Core.wf

/-- A sound state: the block has its seventeen functions, sixteen partitions, seventeen trains, two bays and six links, and
every memory of it and the host's is in the canonical form. -/
def State.wf (s : State) : Bool :=
  decide (s.fns.length = 17) && decide (s.parts.length = 16) && decide (s.trains.length = 17) && decide (s.bays.length = 2)
    && decide (s.links.length = 6) && s.host.wf && s.fns.all Function.wf && s.parts.all Part.wf

/-- A step that neither faults nor is refused. -/
def State.steps (s : State) : Bool :=
  match step s with
  | .next _ => true
  | .fault _ => false
  | .refused _ => false

/-- A safe run of `n` steps: none of them faults or is refused. -/
def State.safeFor : Nat → State → Bool
  | 0, _ => true
  | n + 1, s =>
    match step s with
    | .next t => State.safeFor n t
    | .fault _ => false
    | .refused _ => false

/-! Terms that the statements share. -/

/-- The packet that a command of the opcode table submits: its header and its command. -/
def submission : Instr → Option (PacketHeader × Command)
  | .nop h => some (h, .nop)
  | .devQuery h => some (h, .devQuery)
  | .timeSet h a b => some (h, .timeSet a b)
  | .shutdown h a => some (h, .shutdown a)
  | .breathSet h a b => some (h, .breathSet a b)
  | .partGroup h a b c d e f => some (h, .partGroup a b c d e f)
  | .partQos h a => some (h, .partQos a)
  | .partPower h a => some (h, .partPower a)
  | .bellowsRegister h a b c d e f => some (h, .bellowsRegister a b c d e f)
  | .bellowsDeregister h a b => some (h, .bellowsDeregister a b)
  | .bellowsRead h a b => some (h, .bellowsRead a b)
  | .bellowsWrite h a b c => some (h, .bellowsWrite a b c)
  | .memFill h a b c => some (h, .memFill a b c)
  | .retirePage h a => some (h, .retirePage a)
  | .modelLoad h a b c d => some (h, .modelLoad a b c d)
  | .stopPin h a b c => some (h, .stopPin a b c)
  | .stopRelease h a => some (h, .stopRelease a)
  | .modelRelease h a => some (h, .modelRelease a)
  | .progRegister h a b => some (h, .progRegister a b)
  | .progRelease h a => some (h, .progRelease a)
  | .shapeSet h a b c => some (h, .shapeSet a b c)
  | .progRun h a b c => some (h, .progRun a b c)
  | .histPool h a b c => some (h, .histPool a b c)
  | .histOpen h a b c d => some (h, .histOpen a b c d)
  | .histPrefill h a b c => some (h, .histPrefill a b c)
  | .histClose h a => some (h, .histClose a)
  | .score h a b c d e f => some (h, .score a b c d e f)
  | .jobSubmit h a b c d e => some (h, .jobSubmit a b c d e)
  | .jobCancel h a => some (h, .jobCancel a)
  | .vidOpen h a b c d e => some (h, .vidOpen a b c d e)
  | .vidDecode h a b c => some (h, .vidDecode a b c)
  | .setConditioning h a b c d e f g i j => some (h, .setConditioning a b c d e f g i j)
  | .vidClose h a => some (h, .vidClose a)
  | .snapshotShadow h a b c d => some (h, .snapshotShadow a b c d)
  | .snapshotStop h a b c => some (h, .snapshotStop a b c)
  | .restore h a b => some (h, .restore a b)
  | .consortForm h a b c d e f => some (h, .consortForm a b c d e f)
  | .consortLeave h a => some (h, .consortLeave a)
  | .auditPolicy h a => some (h, .auditPolicy a)
  | .cartRetire h a => some (h, .cartRetire a)
  | .ledgerFlush h => some (h, .ledgerFlush)
  | .ledgerNote h a => some (h, .ledgerNote a)
  | .bayEject h a => some (h, .bayEject a)
  | .fwUpdate h a b c => some (h, .fwUpdate a b c)
  | .ownerKeyInstall h a => some (h, .ownerKeyInstall a)
  | .sealClear h => some (h, .sealClear)
  | .presenceSet h a => some (h, .presenceSet a)
  | .attest h a b => some (h, .attest a b)
  | .diagRun h a => some (h, .diagRun a)
  | .droneCfg h a b => some (h, .droneCfg a b)
  | _ => none

/-- A command with its list fields as its packet carries them: twelve shape values, four slot references. -/
def fullLists : Command → Command
  | .shapeSet first count values => .shapeSet first count (values ++ List.replicate (12 - values.length) 0)
  | .progRun program seed slots => .progRun program seed (slots ++ List.replicate (4 - slots.length) {})
  | c => c

/-- No submission ring holds a packet that has not been read. -/
def State.ringsEmpty (s : State) : Bool :=
  (List.range 17).all (fun f =>
    decide ((s.fn f).urgent.head = (s.fn f).urgent.tail) && decide ((s.fn f).bulk.head = (s.fn f).bulk.tail))

/-- The state in which a packet submitted to a ring without unread packets is checked: its host stores and its 64 bytes
are written, its doorbell has moved the tail, the Chanter has read it, and it has its place in the order of checking. -/
def State.arrived (s : State) (h : PacketHeader) (c : Command) : State :=
  ((s.hostStores h.fn h.stores).modRing h.fn h.bulk (fun r => { r with
      window := r.window.write (64 * r.tail) (packetBytes h c), tail := (r.tail + 1) % r.depth, head := (r.tail + 1) % r.depth
      early := 0 })).modDev (fun d => { d with nextOrder := d.nextOrder + 1 })

/-- `t` is `s` but for what events change: the event queues with their vectors, host memory, messages sent, ALERT#. -/
structure OnlyEvents (s t : State) : Prop where
  rest : t = { s with
    fns := t.fns, host := t.host, out := { s.out with messages := t.out.messages }, board := { s.board with alert := t.board.alert } }
  fn : ∀ f, t.fn f = { s.fn f with events := (t.fn f).events, pendingBits := (t.fn f).pendingBits }

/-- `t` is `s` but for the ledger and what events change, the ALARM LED among them. -/
structure OnlyRecords (s t : State) : Prop where
  rest : t = { s with
    ledger := t.ledger, fns := t.fns, host := t.host, out := { s.out with messages := t.out.messages }
    board := { s.board with alert := t.board.alert, alarm := t.board.alarm } }
  fn : ∀ f, t.fn f = { s.fn f with events := (t.fn f).events, pendingBits := (t.fn f).pendingBits }

end Sys2Proof.Machine
end

