-- ==== Sys2Proof/WellFormed.lean ====
section
/-! DEFINITION. Well-formed commands: every operand fits the field, the index or the offset that the manual gives it.
The meanings are total all the same; an operand outside its range is a command that no host, link or pin can send. -/

namespace Sys2Proof

/-- A value of `w` bits. -/
def fits (w n : Nat) : Bool := decide (n < 2 ^ w)

/-- A PCIe function: the PF or VF1 to VF16 (R81). -/
def isFunction (n : Nat) : Bool := decide (n ≤ 16)

/-- A block of BAR0: a partition block or the device block (Table 23.1). -/
def isBlock (n : Nat) : Bool := decide (n ≤ 16)

/-- A train: a group leader's or the administrative train (R133). -/
def isTrain (n : Nat) : Bool := decide (n ≤ 16)

/-- The fields of a slot reference fit (R157). -/
def SlotRef.wf (r : SlotRef) : Bool := fits 16 r.region && fits 16 r.slot && fits 8 r.gen && fits 8 r.dir

/-- The fields of a packet header fit (Tables 4.2 and 4.3). -/
def PacketHeader.wf (h : PacketHeader) : Bool :=
  isFunction h.fn && fits 8 h.flags && fits 16 h.seq && fits 32 h.tag && fits 8 h.part && fits 8 h.plen
    && (h.crc.map (fits 16)).getD true && h.stores.all (fun c => fits 64 c.1)

/-- The link fields of a frame (R559): one of six ports, a sequence of 16 bits. -/
def FrameLink.wf (l : FrameLink) : Bool := decide (l.port < 6) && fits 16 l.linkSeq

/-- The contents of the CMD56 pages fit their fields (Tables 19.1 to 19.3). -/
def CartridgePages.wf (c : CartridgePages) : Bool :=
  c.id.length == 16 && fits 32 c.insertions && fits 8 c.spare && fits 8 c.temperature && fits 32 c.remapped
    && fits 32 c.openSlot && fits 128 c.writtenMap && fits 8 c.life && c.boundCard.length == 16 && fits 64 c.bindTime
    && fits 64 c.retireTime && fits 32 c.lastSlot && fits 16 c.faultCode && c.headers.all (fun h => h.2.length == 512)

/-- A message that Table 24.10 serves, which has a row of its own, by its standard's command code (R812). -/
def servedMessage (msgType pldmType cmd : Nat) : Bool :=
  (msgType == 0 && [1, 2, 3, 4, 5].contains cmd) || (msgType == 1 && pldmType == 0 && [2, 3, 4, 5].contains cmd)
    || (msgType == 1 && pldmType == 2 && [0x11, 0x50, 0x51].contains cmd)

/-- The operands of a command are in range. -/
def Instr.wf : Instr → Bool
  | .ringSlotWrite fn blk _ off bs => isFunction fn && isBlock blk && decide (off + bs.length ≤ 0x40000)
  | .doorbell fn blk _ value size stores =>
      isFunction fn && isBlock blk && fits (8 * size) value && decide (size ≤ 8) && stores.all (fun c => fits 64 c.1)
  | .evqCfgWrite fn blk value => isFunction fn && isBlock blk && fits 64 value
  | .replyHeadWrite fn blk value | .evqHeadWrite fn blk value | .replyCfgWrite fn blk value
  | .snap fn blk value | .clear fn blk value | .eventStatusWrite fn blk value =>
      isFunction fn && isBlock blk && fits 32 value
  | .ringCfgWrite fn blk _ value => isFunction fn && isBlock blk && fits 32 value
  | .bar2WinWrite fn blk value => isFunction fn && isBlock blk && fits 64 value
  | .unfreeze fn value | .chanterRestart fn value => isFunction fn && fits 32 value
  | .go fn value _ => isFunction fn && fits 32 value
  | .lastViolationRead fn blk => isFunction fn && isBlock blk
  | .ledgerNextRead fn size => isFunction fn && decide (size ≤ 64)
  | .wideRegisterRead fn off size => isFunction fn && fits 26 off && decide (size ≤ 64)
  | .halfRegisterRead fn off => isFunction fn && fits 26 off
  | .registerWrite fn bar off size value =>
      isFunction fn && (bar == 0 || bar == 4) && fits 26 off && decide (size ≤ 8) && fits (8 * size) value
  | .bar2Read fn off size => isFunction fn && fits 32 off && decide (size ≤ 64)
  | .bar2Write fn off bs => isFunction fn && fits 32 off && decide (bs.length ≤ 64)
  | .functionLevelReset vf => decide (1 ≤ vf ∧ vf ≤ 16)
  | .deviceReset _ | .powerGood => true
  | .perstDeassert gen width | .pcieLinkRetrain gen width => decide (1 ≤ gen ∧ gen ≤ 6) && [1, 2, 4, 8, 16].contains width
  | .bellowsPoisonedCompletion fn region slot | .bellowsCompletionTimeout fn region slot =>
      isFunction fn && fits 16 region && fits 16 slot
  | .bellowsUnsupportedRequest fn region _ | .deregisterAccessesDone fn region => isFunction fn && fits 16 region
  | .nop h | .devQuery h | .ledgerFlush h | .sealClear h => h.wf
  | .timeSet h target breath => h.wf && fits 64 target && fits 48 breath
  | .shutdown h limit => h.wf && fits 32 limit
  | .breathSet h n5 floor => h.wf && fits 16 n5 && fits 8 floor
  | .partGroup h block blockSize newSize step n5 limit =>
      h.wf && fits 8 block && fits 8 blockSize && fits 8 newSize && fits 8 step && fits 16 n5 && fits 16 limit
  | .partQos h x | .partPower h x | .auditPolicy h x | .cartRetire h x | .bayEject h x | .diagRun h x => h.wf && fits 8 x
  | .bellowsRegister h kind s countM1 options headerBase payloadBase =>
      h.wf && fits 8 kind && fits 8 s && fits 16 countM1 && fits 8 options && fits 64 headerBase && fits 64 payloadBase
  | .bellowsDeregister h region mode => h.wf && fits 16 region && fits 8 mode
  | .bellowsRead h source dest => h.wf && source.wf && fits 64 dest
  | .bellowsWrite h dest source length => h.wf && dest.wf && fits 64 source && fits 32 length
  | .memFill h addr length pattern => h.wf && fits 64 addr && fits 64 length && fits 32 pattern
  | .retirePage h addr => h.wf && fits 64 addr
  | .modelLoad h digest addr length format =>
      h.wf && digest.length == 32 && fits 64 addr && fits 64 length && fits 8 format
  | .stopPin h model firstCore cores => h.wf && fits 32 model && fits 16 firstCore && fits 16 cores
  | .stopRelease h x | .modelRelease h x | .progRelease h x | .histClose h x | .jobCancel h x | .vidClose h x =>
      h.wf && fits 32 x
  | .progRegister h addr count => h.wf && fits 64 addr && fits 16 count
  | .shapeSet h first count values =>
      h.wf && fits 8 first && fits 8 count && decide (values.length ≤ 12) && values.all (fits 32)
  | .progRun h program seed slots =>
      h.wf && fits 64 program && fits 64 seed && decide (slots.length ≤ 4) && slots.all SlotRef.wf
  | .histPool h base pages pageSize => h.wf && fits 64 base && fits 32 pages && fits 8 pageSize
  | .histOpen h pool policy region key => h.wf && fits 32 pool && fits 8 policy && fits 16 region && fits 64 key
  | .histPrefill h program sequence tokens => h.wf && fits 64 program && fits 32 sequence && tokens.wf
  | .score h program sequence seed steps input output =>
      h.wf && fits 64 program && fits 32 sequence && fits 64 seed && fits 8 steps && input.wf && output.wf
  | .jobSubmit h program seed steps input output =>
      h.wf && fits 64 program && fits 64 seed && fits 16 steps && input.wf && output.wf
  | .vidOpen h codec width height buffers desc =>
      h.wf && fits 8 codec && fits 16 width && fits 16 height && fits 16 buffers && fits 64 desc
  | .vidDecode h session bitstream statistics => h.wf && fits 32 session && bitstream.wf && statistics.wf
  | .setConditioning h session generation gain offset x y w hgt gamma =>
      h.wf && fits 32 session && [generation, gain, offset, x, y, w, hgt].all (fits 16) && fits 64 gamma
  | .snapshotShadow h freeze region firstSlot rate =>
      h.wf && fits 48 freeze && fits 16 region && fits 16 firstSlot && fits 16 rate
  | .snapshotStop h stop region firstSlot => h.wf && fits 48 stop && fits 16 region && fits 16 firstSlot
  | .restore h region firstSlot => h.wf && fits 16 region && fits 16 firstSlot
  | .consortForm h card members topology ports digest timeout =>
      h.wf && [card, members, topology, ports].all (fits 8) && digest.length == 32 && fits 16 timeout
  | .consortLeave h breath => h.wf && fits 48 breath
  | .ledgerNote h bs => h.wf && bs.length == 32
  | .fwUpdate h image target activate => h.wf && image.wf && fits 8 target && fits 8 activate
  | .ownerKeyInstall h key => h.wf && key.wf
  | .presenceSet h length => h.wf && fits 16 length
  | .attest h nonce output => h.wf && nonce.length == 32 && output.wf
  | .droneCfg h envelopes mode => h.wf && envelopes.wf && fits 8 mode
  | .breathStart t | .admissionPoint t | .sealDecision t | .workComplete t _ | .restoreComplete t => isTrain t
  | .checkFailure t cause core unit => isTrain t && decide (cause < 16) && fits 16 core && fits 8 unit
  | .hbmReadOutcome part channel page outcome _ =>
      decide (part < 16) && decide (channel < 16) && decide (page < 196608) && decide (outcome < 8)
  | .clmScrub core off _ _ => decide (core < 256) && decide (off < 0x400000) && off % 64 == 0
  | .drainLimit | .regroupApply | .shutdownDrainLimit | .shutdownCommitDone | .retireFlashWriteDone
  | .fwImageWritten _ | .stopDrainComplete | .presentHold | .presenceWindowEnd | .backupCellLow | .folioCloseTimeout
  | .holdingFlashCommit _ | .holdUpEnd | .imageCheckComplete | .stagingRecoveryComplete _ | .hbmTrainingComplete
  | .coreInitialisationComplete | .ledgerMountComplete | .bootAttemptTimeout | .chanterWatchdog | .chanterReloadComplete
  | .recoveryComplete .. | .getEndpointId | .getEndpointUuid | .getMessageTypeSupport | .getTid | .getPldmTypes
  | .getPdrRepositoryInfo | .powerAndRomComplete | .timeSlewComplete | .sealLoopRestored | .auxPowerLoss
  | .auxPowerReturn | .eventSecondEnd | .ownerKeyStored | .attestQuoteSigned | .sealLoopInterruption .. => true
  | .keySwitch position => decide (position < 3)
  | .folioCommitComplete bay outcome => decide (bay < 2) && decide (outcome < 5)
  | .cardDetect bay cart => decide (bay < 2) && cart.wf
  | .mountComplete bay _ _ | .cardRemoved bay | .ejectButton bay | .bayRelease bay | .releaseTimeout bay => decide (bay < 2)
  | .powerFailWarning cause => decide (cause < 5)
  | .sensorReading sensor value => decide (sensor < 15) && decide (-128 ≤ value ∧ value ≤ 127)
  | .thermalTrip sensor => decide (sensor < 15)
  | .selfTestComplete parts units channels =>
      fits 16 parts && fits 32 units && channels.all (fun c => decide (c.1 < 16) && decide (c.2 < 16))
  | .partitionSelfTestComplete leader failing => decide (leader < 16) && fits 16 failing
  | .hello link card members topology port block =>
      link.wf && [card, members, topology, port].all (fits 8) && block.length == 192
  | .time link leaderTimebase delay _ => link.wf && fits 64 leaderTimebase && fits 32 delay
  | .admitFrame link group breath steps => link.wf && decide (group < 16) && fits 48 breath && decide (steps.length ≤ 65536)
  | .data link breath part addr bytes =>
      link.wf && fits 48 breath && decide (part < 16) && fits 64 addr && decide (bytes.length ≤ 256)
  | .sealFrame link card group breath _ causes digest =>
      link.wf && fits 8 card && decide (group ≤ 16) && fits 48 breath && fits 32 causes && decide (digest.length ≤ 32)
  | .control link kind card cause value => link.wf && [kind, card, cause].all (fits 8) && fits 64 value
  | .linkRetrain port _ => decide (port < 6)
  | .formationComplete start adminBreath groupBreaths =>
      fits 64 start && fits 48 adminBreath && groupBreaths.all (fits 48)
  | .formationTimeout heard => fits 16 heard
  | .verdictDeadline group => decide (group ≤ 16)
  | .moduleInserted port _ _ lanes _ => decide (port < 2) && fits 8 lanes
  | .engineTimeout t session => isTrain t && fits 32 session
  | .setEndpointId x | .getMctpVersionSupport x | .getPldmVersion x | .getPldmCommands x => fits 8 x
  | .getPdr x => fits 32 x
  | .getSensorReading x | .readLastGasp x => fits 16 x
  | .unsupportedSidebandMessage a b c => fits 8 a && fits 8 b && fits 8 c && !servedMessage a b c
  | .msixVectorUnmask fn vector => isFunction fn && (vector.map (fits 6)).getD true
  | .msixModerationExpiry fn => isFunction fn

end Sys2Proof
end

