-- ==== Sys2Proof/Certificates/Slice0/Obligations.lean ====
section
/-! DEFINITION. The statements for the provers, in the order of OBLIGATIONS.json. A clause of a statement that rests on a
choice of the model names its log entry. -/

open Sys2Proof Sys2Proof.Machine

/-! The step, reset and invariants. -/

/-- Every command at the front of the queue runs with the rest of the queue behind it. -/
def Obligations.StepRunsFront : Prop :=
  ∀ (c : Instr) (rest : List Instr) (s : State), s.pending = c :: rest → step s = exec c { s with pending := rest }

/-- With no command waiting and power, one unit of the timebase passes (assumption 1): the timebase counts by 1, device time
advances by 10 ns, or by 9 ns on the units of a slew that assumption 16 names (R43, R77); nothing else changes but CYC_SNAP. -/
def Obligations.EmptyQueueTicks : Prop :=
  ∀ s : State, s.pending = [] → s.board.good = true →
    ∃ t, step s = .next t ∧ t = { s with clock := t.clock, parts := t.parts } ∧ t.clock.timebase = s.clock.timebase + 1
      ∧ t.clock.isSet = s.clock.isSet
      ∧ (s.clock.slew = 0 → t.clock.time = s.clock.time + 10 ∧ t.clock.slew = 0)
      ∧ (0 < s.clock.slew → s.clock.timebase % 100 = 0 →
          t.clock.time = s.clock.time + 9 ∧ t.clock.slew + 1 = s.clock.slew)
      ∧ (0 < s.clock.slew → s.clock.timebase % 100 ≠ 0 →
          t.clock.time = s.clock.time + 10 ∧ t.clock.slew = s.clock.slew)
      ∧ t.parts.map (fun p => { p with cycSnap := 0 }) = s.parts.map (fun p => { p with cycSnap := 0 })

/-- What reset leaves where the manual gives a value: the device boots in phase 1 with its timebase and device time at 0, no
ring or queue is enabled, every partition is a group of its own with period 100 µs, clock 1.60 GHz and an energy share of 16,
the Breath counters are 0, no window is open and the length of a window is 120 s, the warning thresholds stand at their
defaults. Power-good and PERST# are as a cold reset finds them (assumption 3). -/
def Obligations.ResetValues : Prop :=
  State.reset.pending = [] ∧ State.reset.dev.state = .booting ∧ State.reset.dev.phase1 = true
    ∧ State.reset.clock = { timebase := 0, time := 0, isSet := false, slew := 0 }
    ∧ (∀ f, f < 17 → (State.reset.fn f).urgent.enable = false ∧ (State.reset.fn f).bulk.enable = false
        ∧ (State.reset.fn f).reply.enable = false ∧ (State.reset.fn f).events.enable = false
        ∧ (State.reset.fn f).urgent.expect = 0 ∧ (State.reset.fn f).bulk.expect = 0 ∧ (State.reset.fn f).frozen = false
        ∧ (State.reset.fn f).regions = [])
    ∧ (∀ p, p < 16 → (State.reset.part p).leader = p ∧ (State.reset.part p).size = 1 ∧ (State.reset.part p).share = 16
        ∧ (State.reset.part p).fault = 0)
    ∧ (∀ t, t < 17 → (State.reset.train t).n5 = 20 ∧ (State.reset.train t).step = 0 ∧ (State.reset.train t).breath = 0
        ∧ (State.reset.train t).works = [])
    ∧ State.reset.presence.window = none ∧ State.reset.presence.length = 120
    ∧ State.reset.board.sensors.map (·.warn) = [42, 60, 95, 95, 95, 95, 95, 90, 90, 90, 90, 90, 90, 90, 90]

/-- The state after reset is sound. -/
def Obligations.ResetIsSound : Prop := State.reset.wf = true

/-- Every step from a sound state leads to a sound state: the block keeps its functions, partitions, cores, channels, trains,
bays and links, and every memory its canonical form. -/
def Obligations.StepKeepsSoundness : Prop :=
  ∀ s t : State, s.wf = true → step s = .next t → t.wf = true

/-- No step faults or is refused. -/
def Obligations.StepAlwaysAnswers : Prop := ∀ s : State, ∃ t, step s = .next t

/-- Device time never runs backwards, but at a reset of the device: the commands named may start one (R77, R706). -/
def Obligations.DeviceTimeNeverBack : Prop :=
  ∀ s t : State, step s = .next t →
    (match s.pending with
      | .deviceReset _ :: _ => False
      | .powerGood :: _ => False
      | .powerAndRomComplete :: _ => False
      | .imageCheckComplete :: _ => False
      | .bootAttemptTimeout :: _ => False
      | .recoveryComplete _ _ :: _ => False
      | _ => True) →
    s.clock.time ≤ t.clock.time

/-- No command touches the queue of commands behind it. -/
def Obligations.CommandsLeaveTheQueue : Prop :=
  ∀ (i : Instr) (s t : State), exec i s = .next t → t.pending = s.pending

/-! Packets. -/

/-- The parameter bytes of every well-formed command spell that command again, with every field at every value; a shorter
list of shape values or slot references is spelled with the zeros that its packet carries. -/
def Obligations.ParametersRoundTrip : Prop :=
  ∀ (i : Instr) (h : PacketHeader) (c : Command), submission i = some (h, c) → i.wf = true →
    Command.ofParams c.opcode (fit 52 c.params) = some (fullLists c)

/-- The 64 bytes of a submitted packet give back every field of its header (Table 4.2), its opcode and its parameter bytes,
and its CRC is good where the sender left it to R135. -/
def Obligations.PacketFieldsRoundTrip : Prop :=
  ∀ (h : PacketHeader) (c : Command), h.wf = true →
    let p := Packet.ofBytes h.fn h.bulk (packetBytes h c)
    p.opcode = c.opcode ∧ p.flags = h.flags ∧ p.seq = h.seq ∧ p.tag = h.tag ∧ p.part = h.part ∧ p.plen = h.plen
      ∧ p.params = fit 52 c.params ∧ (packetBytes h c).length = 64 ∧ (h.crc = none → p.crcGood = true)

/-- A packet of any opcode that passes every check of Table 4.7 joins the works of its addressee's train; its ring's tail,
head and expected sequence move by one, and what acceptance itself does is done. The commands are those of the opcode
table's packet rows, all fifty (assumption 6). -/
def Obligations.PacketAccepted : Prop :=
  ∀ (i : Instr) (h : PacketHeader) (c : Command) (s u : State) (info : OpInfo) (w : Work) (n : Nat),
    submission i = some (h, c) → s.wf = true → h.fn < 17 → s.ringsEmpty = true → s.checksRings h.fn = true →
    (s.ring h.fn h.bulk).enable = true → (s.ring h.fn h.bulk).early = 0 → 6 ≤ (s.ring h.fn h.bulk).depthLog2 →
    (s.ring h.fn h.bulk).depthLog2 ≤ 12 → (s.ring h.fn h.bulk).tail < (s.ring h.fn h.bulk).depth →
    let p := Packet.ofBytes h.fn h.bulk (packetBytes h c)
    let a := s.arrived h c
    let t := a.addressee p
    let b := a.modRing h.fn h.bulk (fun r => { r with expect := (r.expect + 1) % 65536 })
    a.screen p false = .ok (info, c) →
    (if audited info p && !holdExempt p.opcode then b.reserve (b.recordsFor p t) (b.policyOf t) else (.ok 0, b)) = (.ok n, u) →
    (decide (t < 16) && (u.train t).draining) = false →
    u.entryChecked { p.work c info t s.dev.nextOrder with audited := audited info p, records := n, arrived := s.clock.timebase } = .ok w →
    let v := if p.opcode = 0 then { w with aux := [(u.ring h.fn h.bulk).expect] } else w
    exec i s = .next ((u.modTrain t (fun x => { x with works := x.works ++ [v] })).accepted v)

/-- What acceptance itself does: SHUTDOWN puts the device in SHUTTING_DOWN (R713), SHAPE_SET writes its registers (R317),
BELLOWS_DEREGISTER in mode 0 withdraws the region (R170), CONSORT_FORM names its ports and begins training (R563); any other
command does nothing yet. -/
def Obligations.AcceptanceEffects : Prop :=
  ∀ (s : State) (w : Work), s.wf = true → w.train < 17 → w.fn < 17 →
    let t := s.accepted w
    match w.cmd with
    | .shutdown _ => t = { s with dev := { s.dev with state := .shuttingDown, shutdownWork := some w.id } }
    | .shapeSet first count values =>
      t = { s with trains := t.trains } ∧ (∀ k, k ≠ w.train → t.train k = s.train k)
        ∧ (∀ j, j < (s.train w.train).objects.shapes.length → (t.train w.train).objects.shapes.getD j 0 =
            if first ≤ j ∧ j < first + count then values.getD (j - first) 0 else (s.train w.train).objects.shapes.getD j 0)
    | .bellowsDeregister h 0 =>
      t = { s with fns := t.fns } ∧ (t.fn w.fn).regions = (s.fn w.fn).regions.filter (fun r => r.handle != h)
        ∧ (∀ k, k ≠ w.fn → t.fn k = s.fn k)
    | .consortForm card members topology ports _ _ =>
      t.consort.forming = some w.id ∧ t.consort.card = card ∧ t.consort.members = members ∧ t.consort.topology = topology
        ∧ t.consort.member = false ∧ t.consort.ports = ports
        ∧ (∀ k, k < 6 → bit ports k = true → (t.link k).named = true ∧ (t.link k).state = 1)
        ∧ (∀ k, k < 6 → bit ports k = false → t.link k = s.link k)
        ∧ t = { s with consort := t.consort, links := t.links }
    | _ => t = s

/-- The first checks of Table 4.7 in their order, whatever the later ones would say: a frozen ring, a ring of a non-leader,
a bad CRC, a wrong sequence with its reason; each reply carries what R136 and R138 state. -/
def Obligations.FirstChecksInOrder : Prop :=
  ∀ (s : State) (p : Packet) (early : Bool),
    let f := s.fn p.fn
    let E := (s.ring p.fn p.bulk).expect
    let leader := s.leaderOf (p.fn - 1)
    let other := p.fn ≠ 0 ∧ (leader ≠ p.fn - 1 ∨ (s.consort.member = true ∧ s.consort.card ≠ 0))
    (f.frozen = true → ∃ r, s.screen p early = .error (1, r) ∧ r.status = 0x14)
    ∧ (f.frozen = false → other → ∃ r, s.screen p early = .error (2, r) ∧ r.status = 0x30 ∧ r.reason = 1
        ∧ r.tail.head? = some (byte leader))
    ∧ (f.frozen = false → ¬other → p.crcGood = false → ∃ r, s.screen p early = .error (3, r) ∧ r.status = 0x15 ∧ r.offset = 62)
    ∧ (f.frozen = false → ¬other → p.crcGood = true → (p.seq + 65536 - E) % 65536 ≠ 0 →
        ∃ r, s.screen p early = .error (4, r) ∧ r.status = 0x13 ∧ r.tail = leBytes 2 E
          ∧ r.reason = (if (p.seq + 65536 - E) % 65536 ≤ 32767 then 1 else 2))

/-- A packet refused at steps 1 to 4 leaves its ring's expected sequence; one that passes step 4 advances it by one modulo
65,536, whatever its later outcome (R136). -/
def Obligations.SequenceConsumedOnceInOrder : Prop :=
  ∀ (s : State) (p : Packet) (early : Bool), s.wf = true → p.fn < 17 →
    let order : State := s.modDev (fun d => { d with nextOrder := d.nextOrder + 1 })
    ((∃ k r, order.screen p early = .error (k, r) ∧ k < 5) →
      ((s.checkPacket p early).ring p.fn p.bulk).expect = (s.ring p.fn p.bulk).expect)
    ∧ ((¬∃ k r, order.screen p early = .error (k, r) ∧ k < 5) →
      ((s.checkPacket p early).ring p.fn p.bulk).expect = ((s.ring p.fn p.bulk).expect + 1) % 65536)

/-- The 65th counted violation within one second freezes the function's rings, and no violation is counted while they are
frozen (R147). -/
def Obligations.SixtyFifthViolationFreezes : Prop :=
  ∀ (s : State) (fn : Nat) (v : Violation), s.wf = true → fn < 17 →
    ((s.fn fn).frozen = true → s.violate fn v = (s, false))
    ∧ ((s.fn fn).frozen = false →
        let t := (s.violate fn v).1
        ((t.fn fn).frozen = true ↔ ∃ T, (s.fn fn).violationTimes[63]? = some T ∧ s.clock.timebase - T ≤ 100000000)
        ∧ (t.fn fn).violations = min ((s.fn fn).violations + 1) 0xFFFFFFFF
        ∧ (t.fn fn).lastViolation = v.word
        ∧ (t.fn fn).violationTimes = (s.clock.timebase :: (s.fn fn).violationTimes).take 64)

/-- No submission touches HBM, CLM or Stop banks, the clocks, the bays or the presence state but its count of unrecorded
refusals. -/
def Obligations.SubmissionFrame : Prop :=
  ∀ (i : Instr) (h : PacketHeader) (c : Command) (s t : State), submission i = some (h, c) → exec i s = .next t →
    t.clock = s.clock ∧ t.bays = s.bays ∧ t.parts.map (·.hbm) = s.parts.map (·.hbm) ∧ t.parts.map (·.cores) = s.parts.map (·.cores)
      ∧ { t.presence with refusals := 0 } = { s.presence with refusals := 0 } ∧ t.enginesOffline = s.enginesOffline
      ∧ t.dev.banks = s.dev.banks ∧ t.dev.retired = s.dev.retired ∧ t.dev.ownerKey = s.dev.ownerKey

/-! HBM. -/

/-- R473 and its inverse: the place of a group-local address lies in the group and in the partition, and leads back to the
address; in a group of one partition the addresses are equal. -/
def Obligations.GroupAddressMap : Prop :=
  ∀ k n a : Nat, 0 < n → a < n * 0x300000000 →
    let P := a / 65536
    let m := mapHbm k n a
    m = (k + P % n, P / n * 65536 + a % 65536) ∧ m.1 < k + n ∧ m.2 < 0x300000000 ∧ unmapHbm k n m.1 m.2 = a
      ∧ (n = 1 → m.2 = a)

/-- R472: the pseudo-channel of an address and its place there, and each 64 KiB page has exactly two granules in each
pseudo-channel. -/
def Obligations.GranulesSpreadOverChannels : Prop :=
  (∀ L : Nat, channelOf L = Nat.xor (L / 2048 % 16) (L / 2048 / 16 % 16) ∧ channelOf L < 16
    ∧ channelAddr L = L / 2048 / 16 * 2048 + L % 2048)
  ∧ (∀ L M : Nat, channelOf L = channelOf M → channelAddr L = channelAddr M → L = M)
  ∧ ∀ q c : Nat, c < 16 → ((List.range 32).filter (fun g => channelOf (65536 * q + 2048 * g) == c)).length = 2

/-- Bytes written to the HBM of a group on this card are read back, every other byte of the group is as before; a retired
page is not written and reads as zeros (R183, R492). -/
def Obligations.HbmWriteThenRead : Prop :=
  ∀ (s : State) (t a : Nat) (bs : List Byte), s.wf = true → s.consort.member = false → t < 16 → 0 < s.groupSize t →
    t + s.groupSize t ≤ 16 → a + bs.length ≤ s.groupBytes t →
    ∀ x, x < s.groupBytes t →
      let place := mapHbm t (s.groupSize t) x
      (s.hbmWrite t a bs).hbmByte t x =
        if s.pageRetired place.1 (place.2 / pageBytes) then 0
        else if a ≤ x ∧ x < a + bs.length then bs.getD (x - a) 0 else s.hbmByte t x

/-- MEM_FILL's step: every whole 64-byte unit of the range that lies in no retired page holds the pattern, and the count of
bytes written is 64 for each of them (R216). -/
def Obligations.FillWritesThePattern : Prop :=
  ∀ (s : State) (t p a n : Nat), s.wf = true → s.consort.member = false → t < 16 → 0 < s.groupSize t →
    t + s.groupSize t ≤ 16 → a % 64 = 0 → a + 64 * n ≤ s.groupBytes t →
    let r := s.fillHbm t p a (64 * n)
    (∀ i, i < n → s.rangeRetired t (a + 64 * i) 64 = false →
      ∀ k, k < 64 → r.1.hbmByte t (a + 64 * i + k) = byte (p / 256 ^ (k % 4)))
    ∧ (∀ x, x < s.groupBytes t → (x < a ∨ a + 64 * n ≤ x) → r.1.hbmByte t x = s.hbmByte t x)
    ∧ r.2 = 64 * ((List.range n).filter (fun i => !s.rangeRetired t (a + 64 * i) 64)).length

/-! Admission. -/

/-- R58: the ceiling is nine tenths of the work window in core cycles, rounded down; the values of Table 2.2. -/
def Obligations.AdmissionCeiling : Prop :=
  (∀ n5 step : Nat, 5 ≤ n5 → step ≤ 2 →
    10000 * ceiling n5 step ≤ 9 * (500 * n5 - 250) * (100 * clockOf step)
      ∧ 9 * (500 * n5 - 250) * (100 * clockOf step) < 10000 * (ceiling n5 step + 1))
  ∧ [5, 20, 200, 2000, 50000].map (fun n5 => [ceiling n5 0, ceiling n5 1, ceiling n5 2]) =
      [[32400, 28350, 24300], [140400, 122850, 105300], [1436400, 1256850, 1077300], [14396400, 12596850, 10797300]
      , [359996400, 314996850, 269997300]]

/-- Whatever is admitted to the next Breath fits its ceiling with everything before it: if the set holds any candidate, its
paced estimate does not exceed the ceiling (R60). Every eligible Urgent packet that has come by the admission point is admitted
or answered BREATH_FULL, none is carried over (R61). -/
def Obligations.AdmissionFitsAndAnswersUrgent : Prop :=
  (∀ (s : State) (t limit : Nat),
    let x := s.train t
    let step := x.stepNext.getD x.step
    let f := s.formSet t limit
    f.pieces ≠ [] → pacedAt f.total (s.groupShare t) step ≤ ceiling (x.n5Next.getD x.n5) step)
  ∧ ∀ (s : State) (t limit : Nat) (w : Work), w ∈ (s.train t).works → w.bulk = false → w.live = true → w.status = 0 → w.cut = false →
    w.stage = .waiting → w.arrived ≤ limit → w.stepsAdmitted < w.steps →
    let f := s.formSet t limit
    (∃ p ∈ f.pieces, p.work = w.id ∧ p.step = w.stepsAdmitted) ∨ (∃ d, (w.id, d) ∈ f.refused)

/-- TIME_SET at the start of its Breath: a target at or after device time is stepped to and ends any slew; a target earlier
by at most 1 ms is slewed to and replaces a slew in progress; an earlier one is refused BAD_PARAM and device time is unchanged.
During a slew device time advances by 9 ns on one timebase unit in every hundred and by 10 ns on the others. -/
def Obligations.TimeSetStepsOrSlews : Prop :=
  (∀ (s : State) (w : Work) (target : Nat), s.wf = true → w.train < 17 →
    let t := s.applyTime w target
    (s.clock.time ≤ target → t.clock.time = target ∧ t.clock.slew = 0 ∧ t.clock.isSet = true)
    ∧ (target < s.clock.time → s.clock.time - target ≤ 1000000 →
        t.clock.time = s.clock.time ∧ t.clock.slew = s.clock.time - target ∧ t.clock.isSet = true)
    ∧ (1000000 < s.clock.time - target → t.clock = s.clock
        ∧ ∀ v ∈ (t.train w.train).works, v.id = w.id → v.stage = .finished ∧ v.status = 0x12))
  ∧ ∀ s : State, s.board.good = true →
      (tick s).clock.time + (s.clock.slew - (tick s).clock.slew) = s.clock.time + 10
      ∧ (s.clock.slew - (tick s).clock.slew = if s.clock.timebase % 100 = 0 then min s.clock.slew 1 else 0)

/-- A failed seal posts nothing: every reply queue and every reply still due is as before (R53, R544). -/
def Obligations.FailedSealPostsNothing : Prop :=
  ∀ (s : State) (t : Nat), s.wf = true → t < 17 →
    (∀ f, ((s.failSeal t).fn f).reply = (s.fn f).reply) ∧ (∀ k, ((s.failSeal t).train k).due = (s.train k).due)
      ∧ ((s.failSeal t).train t).failures = (s.train t).failures + 1 ∧ ((s.failSeal t).train t).rerun = true
      ∧ (2 ≤ (s.train t).failures → ((s.failSeal t).train t).closeNext = true)
      ∧ ((s.failSeal t).train t).breath = (s.train t).breath ∧ (s.failSeal t).clock = s.clock

/-! Rings, queues and registers. Each clause says what the command does and, by an equation with the state before, that it
does nothing else. -/

/-- `doorbell` completes: a doorbell write (R116): the new tail makes the packets before it available, and they are checked
when they may be; one that moves nothing does nothing; in each of the five cases it is discarded and counts one host
violation. -/
def Obligations.DoorbellMovesTailOrIsDiscarded : Prop :=
  ∀ (s : State) (fn blk f : Nat) (bulk : Bool) (value size : Nat) (stores : List Host.Cell),
    s.wf = true → ringOwner fn blk = some f → f < 17 → s.registersAnswer = true →
    let u := s.hostStores fn stores
    let r := s.ring f bulk
    let bad := r.depth ≤ value ∨ r.depth - 1 < (r.tail + r.depth - r.head) % r.depth + (value + r.depth - r.tail) % r.depth
      ∨ r.enable = false ∨ size ≠ 4
    (bad → exec (.doorbell fn blk bulk value size stores) s =
      .next (u.violation f bulk { ring := ringCode f bulk, cause := 2 }))
    ∧ (¬bad → exec (.doorbell fn blk bulk value size stores) s =
      .next (u.modRing f bulk (fun r => { r with
        tail := value
        early := if s.beforeReady then r.early + (value + r.depth - r.tail) % r.depth else r.early })).checkRings)
    ∧ (¬bad → value = r.tail → s.ringsEmpty = true → exec (.doorbell fn blk bulk value size stores) s = .next u)

/-- `ringSlotWrite`, `ringCfgWrite` and `unfreeze` complete. RING_SLOT_WRITE stores its bytes in the window as far as the ring's
depth reaches (R109); a configuration write on a disabled ring takes the depth and, with ENABLE, starts the ring anew (R779);
UNFREEZE unfreezes and reinitialises both administrative rings and changes nothing else (R149); that the violation times go
with them is the model's reading (assumption 102). -/
def Obligations.RingRegisterWrites : Prop :=
  (∀ (s : State) (fn blk f : Nat) (bulk : Bool) (off : Nat) (data : List Byte),
    s.wf = true → ringOwner fn blk = some f → f < 17 → s.registersAnswer = true →
    ∃ t, exec (.ringSlotWrite fn blk bulk off data) s = .next t ∧ t = { s with fns := t.fns } ∧ (∀ g, g ≠ f → t.fn g = s.fn g)
      ∧ t.fn f = (if bulk then { s.fn f with bulk := (t.fn f).bulk } else { s.fn f with urgent := (t.fn f).urgent })
      ∧ t.ring f bulk = { s.ring f bulk with window := (t.ring f bulk).window }
      ∧ ∀ k, (t.ring f bulk).window.get k =
          if off ≤ k ∧ k < off + data.length ∧ k < 64 * (s.ring f bulk).depth then data.getD (k - off) 0
          else (s.ring f bulk).window.get k)
  ∧ (∀ (s : State) (fn blk f : Nat) (bulk : Bool) (depth : Nat) (on : Bool),
    s.wf = true → blockOwner fn blk = some f → f < 17 → s.registersAnswer = true → 6 ≤ depth → depth ≤ 12 →
    (s.ring f bulk).enable = false →
    exec (.ringCfgWrite fn blk bulk (depth + 256 * flag on)) s = .next (s.modRing f bulk (fun r =>
      if on then { depthLog2 := depth, enable := true, suppressed := r.suppressed, window := r.window }
      else { r with depthLog2 := depth })))
  ∧ (∀ (s : State) (fn blk f : Nat) (bulk : Bool) (depth : Nat),
    s.wf = true → blockOwner fn blk = some f → f < 17 → s.registersAnswer = true → 6 ≤ depth → depth ≤ 12 →
    (s.ring f bulk).enable = true → ((s.ring f bulk).head ≠ (s.ring f bulk).tail ∨ s.ringBusy f bulk = true) →
    exec (.ringCfgWrite fn blk bulk depth) s = .next s)
  ∧ (∀ s : State, s.wf = true → s.registersAnswer = true →
    ∃ t, exec (.unfreeze 0 1) s = .next t ∧ t = { s with fns := t.fns } ∧ (∀ g, g ≠ 0 → t.fn g = s.fn g)
      ∧ t.fn 0 = { s.fn 0 with
          frozen := false, freezeBreath := 0, violationTimes := []
          urgent := { (s.fn 0).urgent with head := 0, tail := 0, expect := 0, early := 0 }
          bulk := { (s.fn 0).bulk with head := 0, tail := 0, expect := 0, early := 0 } })

/-- `replyHeadWrite`, `evqHeadWrite`, `replyCfgWrite`, `evqCfgWrite` and `eventStatusWrite` complete: head and configuration
writes of the reply and event queues (R121, R719, R780, R783), and EVENT_STATUS, whose bits are cleared by writing 1 (R784). A
head write past the tail counts one violation and is discarded. -/
def Obligations.QueueRegisterWrites : Prop :=
  (∀ (s : State) (fn blk f value : Nat), s.wf = true → blockOwner fn blk = some f → f < 17 → s.registersAnswer = true →
    value < 4096 →
    let q := (s.fn f).reply
    let past := q.depth ≤ value ∨ (q.tail + q.depth - q.head) % q.depth < (value + q.depth - q.head) % q.depth
    (past → exec (.replyHeadWrite fn blk value) s = .next (s.violation fn false { cause := 3 }))
    ∧ (¬past → s.ringsEmpty = true → q.held = [] → (q.tail + 1) % q.depth ≠ value →
        exec (.replyHeadWrite fn blk value) s =
          .next (s.modFn f (fun x => { x with reply := { x.reply with head := value, fullRaised := false } }))))
  ∧ (∀ (s : State) (fn blk f value : Nat), s.wf = true → blockOwner fn blk = some f → f < 17 → s.registersAnswer = true →
    value < 4096 →
    let q := (s.fn f).events
    let past := q.depth ≤ value ∨ (q.tail + q.depth - q.head) % q.depth < (value + q.depth - q.head) % q.depth
    (past → exec (.evqHeadWrite fn blk value) s = .next (s.violation fn false { cause := 3 }))
    ∧ (¬past → q.lostFull = 0 → exec (.evqHeadWrite fn blk value) s =
        .next (s.modFn f (fun x => { x with events := { x.events with head := value } }))))
  ∧ (∀ (s : State) (fn blk f depth : Nat), s.wf = true → blockOwner fn blk = some f → f < 17 → s.registersAnswer = true →
    6 ≤ depth → depth ≤ 12 → (s.fn f).reply.enable = false → (s.fn f).reply.held = [] → (s.fn f).reply.head ≠ 1 →
    s.ringsEmpty = true →
    exec (.replyCfgWrite fn blk (depth + 256)) s = .next (s.modFn f (fun x => { x with reply := { x.reply with
      depthLog2 := depth, enable := true, tail := 0, phase := true, fullRaised := false } })))
  ∧ (∀ (s : State) (fn blk f depth moderation : Nat), s.wf = true → blockOwner fn blk = some f → f < 17 → blk < 16 →
    s.registersAnswer = true → 6 ≤ depth → depth ≤ 12 → moderation ≤ 1000 → (s.fn f).events.enable = false →
    (s.fn f).events.hold = [] → (s.fn f).events.lostFull = 0 → (s.fn f).events.lostRate = 0 → (s.fn f).events.raisedDisabled = 0 →
    ∃ t, exec (.evqCfgWrite fn blk (depth + 256 + 2 ^ 32 * moderation)) s = .next t ∧ t = { s with fns := t.fns }
      ∧ (∀ g, g ≠ f → t.fn g = s.fn g)
      ∧ t.fn f = { s.fn f with events := { (s.fn f).events with
          depthLog2 := depth, enable := true, moderation := moderation, tail := 0, phase := true, seq := 0 } })
  ∧ (∀ (s : State) (fn blk f value : Nat), s.wf = true → blockOwner fn blk = some f → f < 17 → s.registersAnswer = true →
    ∃ t, exec (.eventStatusWrite fn blk value) s = .next t ∧ t = { s with fns := t.fns } ∧ (∀ g, g ≠ f → t.fn g = s.fn g)
      ∧ t.fn f = { s.fn f with events := { (s.fn f).events with status := (t.fn f).events.status } }
      ∧ ∀ i, i < 6 → bit (t.fn f).events.status i = (bit (s.fn f).events.status i && !bit value i))

/-- `snap` and `clear` complete: SNAP copies the partition's counters, CYC_SNAP and the timebase to the shadow registers,
CLEAR clears the counters, and one write that sets both takes the values from before the clear (R735, R736, R785). -/
def Obligations.CounterSnapshotAndClear : Prop :=
  ∀ (s : State) (fn p value : Nat), s.wf = true → p < 16 → (fn = 0 ∨ fn = p + 1) → s.registersAnswer = true → value < 4 →
    let snapped (x : Part) : Part :=
      if value % 2 = 1 then { x with perfShadow := x.perf, cycShadow := x.cycSnap, timebaseShadow := s.clock.timebase } else x
    let after (x : Part) : Part := if value / 2 = 1 then { snapped x with perf := {} } else snapped x
    exec (.snap fn p value) s = .next (s.modPart p after) ∧ exec (.clear fn p value) s = .next (s.modPart p after)

/-- `bar2WinWrite`, `chanterRestart` and `go` complete: BAR2_WIN moves the aperture of its own function (R765);
CHANTER_RESTART stops every train that runs and keeps KEEP_HBM_TRAINING as written (R710, R760); GO starts a recovery only in
FAILED, with both banks skipped, under presence, and only with a good image (R700). -/
def Obligations.ControlRegisterWrites : Prop :=
  (∀ (s : State) (fn blk part page : Nat), s.wf = true → (fn = 0 ∧ blk = 16 ∨ fn = blk + 1 ∧ blk < 16) → s.registersAnswer = true →
    part < 16 → page < 196608 →
    ∃ t, exec (.bar2WinWrite fn blk (part + 65536 * page)) s = .next t ∧ t = { s with fns := t.fns }
      ∧ (∀ g, g ≠ fn → t.fn g = s.fn g)
      ∧ t.fn fn = { s.fn fn with windowBase := 65536 * page, windowPart := if fn = 0 then part else (s.fn fn).windowPart })
  ∧ (∀ (s : State) (blk value : Nat), blk < 16 → exec (.bar2WinWrite 0 blk value) s = .next s)
  ∧ (∀ (s : State) (value : Nat), s.wf = true → s.dev.state = .ready → s.dev.restartCause = 0 → s.consort.member = false →
    value = 1 ∨ value = 3 → (∃ k ∈ s.activeTrains, (s.train k).halt = .none) →
    ∃ t, exec (.chanterRestart 0 value) s = .next t ∧ t.dev.restartCause = 1 ∧ t.dev.keepTraining = decide (value = 3)
      ∧ (∀ k, k ∈ s.activeTrains → k < 17 → (t.train k).stopFor = .restart)
      ∧ t = { s with trains := t.trains, dev := { s.dev with restartCause := 1, keepTraining := decide (value = 3) } })
  ∧ (∀ (s : State) (image : List Byte), s.powered = true → s.dev.state = .failed → s.presenceProblem false = none →
    s.bankSkipped 0 = true → s.bankSkipped 1 = true → s.dev.recoveryProgress = 0 →
    let img := fit s.dev.recoveryLen image
    exec (.go 0 1 image) s = .next { s with dev :=
      (match s.imageProblem img s.dev.recoveryLen with
      | some reason => { s.dev with recoveryProgress := 5, recoveryReason := reason }
      | none => { s.dev with recoveryProgress := 2, recoveryReason := 0, recoveryImage := img }) })

/-- `lastViolationRead`, `ledgerNextRead`, `wideRegisterRead` and `halfRegisterRead` complete. LAST_VIOLATION is read and
cleared (R782). A read that begins at LEDGER_NEXT returns it and latches the three registers behind it for the reading
function (R770). A read of the first bytes of a wide register, or of the low half of a 64-bit one, latches the rest, and the
next read there by the same function returns what was latched (R738, R750; which 64-bit words hold a register of more than 32
bits is assumption 95). Nothing but latches, the completion and LAST_VIOLATION changes. -/
def Obligations.LatchingReads : Prop :=
  (∀ (s : State) (fn blk f : Nat), s.wf = true → blockOwner fn blk = some f → f < 17 → fn < 17 → s.registersAnswer = true →
    (s.fn fn).latch = none → (s.fn f).lastViolation < 2 ^ 64 →
    ∃ t, exec (.lastViolationRead fn blk) s = .next t ∧ t = { s with fns := t.fns, out := t.out }
      ∧ t.out = { s.out with read := leBytes 8 (s.fn f).lastViolation, poisoned := false } ∧ (t.fn f).lastViolation = 0
      ∧ ∀ g, t.fn g = { s.fn g with latch := (t.fn g).latch, ledgerLatch := (t.fn g).ledgerLatch, lastViolation := (t.fn g).lastViolation })
  ∧ (∀ s : State, s.wf = true → s.registersAnswer = true → (s.fn 0).latch = none →
    ∃ t, exec (.ledgerNextRead 0 8) s = .next t ∧ t.out.read = leBytes 8 s.ledger.nextSeq
      ∧ (t.fn 0).ledgerLatch = some s.ledgerNow ∧ t = { s with fns := t.fns, out := t.out }
      ∧ ∀ g, g ≠ 0 → t.fn g = s.fn g)
  ∧ (∀ (s : State) (off k w : Nat), s.wf = true → s.registersAnswer = true → (s.fn 0).latch = none → k < w →
    (k = 8 ∨ k = 4) → registerWidth off = w → off % 8 = 0 → (w = 8 → halvesLatch off = true) → violationAt 0 off = none → off ≠ 0x400108 →
    ∃ t, exec (.wideRegisterRead 0 off k) s = .next t
      ∧ (t.fn 0).latch = some { next := off + k, bytes := t.bar0Bytes 0 (off + k) (w - k) }
      ∧ t.out.read = t.bar0Bytes 0 off k ∧ t = { s with fns := t.fns, out := t.out })
  ∧ (∀ (s : State) (fn off : Nat) (bs : List Byte), s.wf = true → fn < 17 → off % 4 = 0 → bs.length = 4 →
    (s.fn fn).latch = some { next := off, bytes := bs } →
    ∃ t, exec (.halfRegisterRead fn off) s = .next t ∧ t.out.read = bs ∧ (t.fn fn).latch = none
      ∧ t = { s with fns := t.fns, out := t.out })

/-- `registerWrite` completes: a write to a register as one access: THERM_WARN takes a value from −40 to 125 °C (R748);
REPLY_BASE takes an aligned address while its queue is disabled (R780); any read latch of the function ends (R750). A write of
another size or alignment, but at a doorbell, changes nothing else (R749). -/
def Obligations.PlainRegisterWrites : Prop :=
  (∀ (s : State) (i value : Nat), s.wf = true → s.registersAnswer = true → i < 15 → s.board.sensors.length = 15 →
    (value ≤ 125 ∨ 65496 ≤ value ∧ value < 65536) →
    ∃ t, exec (.registerWrite 0 0 (0x280 + 8 * i) 4 value) s = .next t ∧ t = { s with fns := t.fns, board := t.board }
      ∧ t.fn 0 = { s.fn 0 with latch := none, ledgerLatch := none } ∧ (∀ g, g ≠ 0 → t.fn g = s.fn g)
      ∧ t.board = { s.board with sensors := s.board.sensors.modify i (fun x => { x with
          warn := if value < 32768 then (value : Int) else (value : Int) - 65536 }) })
  ∧ (∀ (s : State) (p value : Nat), s.wf = true → s.registersAnswer = true → p < 16 → value % 4096 = 0 →
    (s.fn (p + 1)).reply.enable = false →
    exec (.registerWrite (p + 1) 0 (blockBase p + 0x280) 8 value) s = .next (s.modFn (p + 1) (fun f => { f with
      latch := none, ledgerLatch := none, reply := { f.reply with base := value } })))
  ∧ (∀ (s : State) (fn off size value : Nat), s.wf = true → ((size ≠ 4 ∧ size ≠ 8) ∨ off % size ≠ 0) →
    blockAt off = none → off / 8 * 8 ≠ 0x2010 → off / 8 * 8 ≠ 0x2050 →
    exec (.registerWrite fn 0 off size value) s =
      .next (s.modFn fn (fun f => { f with latch := none, ledgerLatch := f.keepLedger off })))

/-- `bar2Read` and `bar2Write` complete: a read with the loop intact returns the partition's HBM bytes, zeros in a retired
page and beyond 12 GiB; a write under presence with the loop intact is held for the next passed seal (R492, R538, R683); a
refused read returns zeros. -/
def Obligations.Bar2Accesses : Prop :=
  (∀ (s : State) (fn off size : Nat), s.beforeReady = false → s.presence.loop = true → s.presence.latch = false →
    let p := if fn = 0 then (s.fn 0).windowPart else fn - 1
    exec (.bar2Read fn off size) s = .next { s with out := { s.out with
      poisoned := false
      read := (List.range size).map (fun i =>
        let a := (s.fn fn).windowBase + off + i
        if 0x300000000 ≤ a ∨ s.dev.retired.contains (p, a / 65536) then 0 else (s.part p).hbm.get a) } })
  ∧ (∀ (s : State) (fn off size : Nat), s.beforeReady = false → (s.presence.loop = false ∨ s.presence.latch = true) →
    ∃ t, exec (.bar2Read fn off size) s = .next t ∧ t.out.read = zeros size ∧ t.parts = s.parts ∧ t.presence = s.presence)
  ∧ (∀ (s : State) (fn off : Nat) (data : List Byte), s.beforeReady = false → s.presenceProblem false = none →
    let p := if fn = 0 then (s.fn 0).windowPart else fn - 1
    let a := (s.fn fn).windowBase + off
    let t := s.leaderOf p
    a + data.length ≤ 0x300000000 → s.dev.retired.contains (p, a / 65536) = false →
    (s.protectedRanges t).any (·.meets ⟨unmapHbm t (s.groupSize t) p a, data.length⟩) = false →
    s.dev.heldWrites.foldl (fun n h => n + h.data.length) 0 + data.length ≤ 65536 →
    exec (.bar2Write fn off data) s =
      .next { s with dev := { s.dev with heldWrites := s.dev.heldWrites ++ [{ part := p, addr := a, data := data }] } })

/-! Resets and start-up. -/

/-- `deviceReset`, `powerGood` and `perstDeassert` complete. A device reset leaves what Table 21.5 states: clocks and Breath
counters at 0, groups of size 1 with the default period, floor, step and share, rings and queues disabled, regions withdrawn,
objects and jobs ended, event queues empty, the window closed, the policy FAIL_CLOSED, the consort left; it keeps the
retirement table, the ledger's sequence and chain, the seal latch, the window length, the owner key and the fuses, and the
waiting commands. Power-good does the same as a cold reset. -/
def Obligations.DeviceResetState : Prop :=
  let after (s t : State) : Prop :=
    t.clock = { timebase := 0, time := 0, isSet := false, slew := 0 } ∧ t.dev.state = .booting ∧ t.dev.phase1 = true
      ∧ t.trains = State.reset.trains ∧ t.fns = State.reset.fns
      ∧ (∀ p, p < 16 → (t.part p).leader = p ∧ (t.part p).size = 1 ∧ (t.part p).share = 16 ∧ (t.part p).fault = 0
          ∧ (t.part p).cores = List.replicate 16 {} ∧ (t.part p).perf = {} ∧ (t.part p).sealFails = 0)
      ∧ t.presence.window = none ∧ t.presence.latch = s.presence.latch ∧ t.presence.length = s.presence.length
      ∧ t.ledger.failOpen = false ∧ t.ledger.nextSeq = s.ledger.nextSeq ∧ t.ledger.lastChain = s.ledger.lastChain
      ∧ t.ledger.open_ = s.ledger.open_ ∧ t.ledger.mram = s.ledger.mram ∧ t.consort = {}
      ∧ t.dev.retired = s.dev.retired ∧ t.dev.service = s.dev.service ∧ t.dev.ownerKey = s.dev.ownerKey
      ∧ t.dev.minSvn = s.dev.minSvn ∧ t.dev.revoked = s.dev.revoked ∧ t.dev.banks = s.dev.banks
      ∧ t.dev.bootCount = s.dev.bootCount ∧ t.host = s.host ∧ t.pending = s.pending
  (∀ (s : State) (linkDown : Bool), s.powered = true →
    ∃ t, exec (.deviceReset linkDown) s = .next t ∧ after s t
      ∧ (s.dev.keepTraining = true → s.dev.trained = true → ∀ p, p < 16 → (t.part p).hbm = (s.part p).hbm))
  ∧ (∀ s : State, s.board.aux = true → s.board.good = false → ∃ t, exec .powerGood s = .next t ∧ after s t ∧ t.board.good = true)
  ∧ (∀ (s : State) (gen width : Nat), s.powered = true → s.board.perst = true →
    exec (.perstDeassert gen width) s =
      .next { s with board := { s.board with perst := false }, dev := { s.dev with linkGen := gen, linkWidth := width } })

/-- `functionLevelReset` completes. That of a group leader's VF ends the group's work without reply, empties and unfreezes its
rings, withdraws its regions, ends pools and sessions and clears CLM; it keeps the grouping, Breath counter, share, models,
residencies, programs, the period and step in force or set by a passed seal, and the Stop banks but those that a STOP_PIN in
progress was changing (Table 21.5, R357). That of another VF clears only its PCIe function state and event queue (R91). -/
def Obligations.FunctionLevelResetState : Prop :=
  (∀ (s : State) (p : Nat), s.wf = true → p < 16 → s.leaderOf p = p → s.consort.member = false → s.powered = true →
    p + (s.part p).size ≤ 16 → 0 < (s.part p).size →
    ∃ t, exec (.functionLevelReset (p + 1)) s = .next t
      ∧ (t.train p).works = [] ∧ (t.train p).halt = .reset ∧ (t.train p).phase = .stopped
      ∧ (t.train p).next = (s.train p).next ∧ (t.train p).n5 = (s.train p).adopt.n5 ∧ (t.train p).step = (s.train p).adopt.step
      ∧ (t.train p).objects = { (s.train p).objects with pools := [], sessions := [] }
      ∧ (∀ q, p ≤ q → q < p + (s.part p).size →
          (t.fn (q + 1)).urgent = { (s.fn (q + 1)).urgent with head := 0, tail := 0, expect := 0, early := 0 }
          ∧ (t.fn (q + 1)).bulk = { (s.fn (q + 1)).bulk with head := 0, tail := 0, expect := 0, early := 0 }
          ∧ (t.fn (q + 1)).reply = { (s.fn (q + 1)).reply with head := 0, tail := 0, phase := true, held := [], fullRaised := false }
          ∧ (t.fn (q + 1)).regions = []
          ∧ (t.fn (q + 1)).frozen = false ∧ (t.part q).share = (s.part q).share ∧ (t.part q).hbm = (s.part q).hbm
          ∧ (t.part q).cores = ((s.clearPinned p).part q).cores.map Core.clearClm ∧ (t.part q).sealFails = (s.part q).sealFails)
      ∧ (∀ k, k ≠ p → t.train k = s.train k)
      ∧ t = { s with fns := t.fns, parts := t.parts, trains := t.trains })
  ∧ (∀ (s : State) (p : Nat), s.wf = true → p < 16 → s.leaderOf p ≠ p → s.powered = true →
    exec (.functionLevelReset (p + 1)) s =
      .next (s.modFn (p + 1) (fun f => { f.resetPcie with events := f.events.emptied })))

/-- `powerAndRomComplete`, `imageCheckComplete`, `stagingRecoveryComplete`, `hbmTrainingComplete`, `selfTestComplete`,
`coreInitialisationComplete`, `ledgerMountComplete`, `bootAttemptTimeout` and `recoveryComplete` complete: the phases of a
start-up (Table 21.2): each ends in the next state of Table 21.1. The ROM goes on with a bank it does not skip, and a skipped
one is a failed attempt; the image check ends phase 2; staging recovery leads to training, or to self-test where training was
kept (R708); self-test leads to FAILED only for the units of Table 21.3 that say so; core initialisation zeroes CLM and Stop
banks; the mount makes the device READY and raises the fuses as the image says. -/
def Obligations.StartUpPhases : Prop :=
  (∀ s : State, s.powered = true → s.dev.state = .booting → s.dev.phase1 = true → s.board.perst = false →
    ∃ t, exec .powerAndRomComplete s = .next t
      ∧ (s.bankSkipped s.dev.selector = false → t.dev.phase1 = false ∧ t.dev.attemptStart = s.clock.timebase
          ∧ t.dev.state = .booting ∧ t = { s with dev := t.dev })
      ∧ (s.bankSkipped s.dev.selector = true → t.dev.state = .booting ∨ t.dev.state = .failed))
  ∧ (∀ s : State, s.powered = true → s.dev.state = .booting → s.dev.phase1 = false →
    ∃ t, exec .imageCheckComplete s = .next t
      ∧ (s.bankSkipped s.dev.selector = false → t.dev.state = .recovering ∧ t.dev.activeBank = s.dev.selector
          ∧ t.parts = s.parts ∧ t.trains = s.trains ∧ t.ledger = s.ledger ∧ t.presence = s.presence)
      ∧ (s.bankSkipped s.dev.selector = true → t.dev.state = .booting ∨ t.dev.state = .failed))
  ∧ (∀ (s : State) (good : Bool), s.powered = true → s.dev.state = .recovering →
    ∃ t, exec (.stagingRecoveryComplete good) s = .next t
      ∧ t.dev = { s.dev with state := if s.dev.trained then .testing else .training } ∧ t.ledger.open_ = []
      ∧ t.ledger.nextSeq = s.ledger.nextSeq ∧ t.ledger.flashFailed = !good ∧ t = { s with dev := t.dev, ledger := t.ledger }
      ∧ (s.ledger.open_ ≠ [] → t.ledger.mram.length = s.ledger.mram.length + 1))
  ∧ (∀ s : State, s.powered = true → s.dev.state = .training →
    exec .hbmTrainingComplete s = .next { s with dev := { s.dev with state := .testing, trained := true } })
  ∧ (∀ (s : State) (parts units : Nat) (channels : List (Nat × Nat)), s.wf = true → s.powered = true → s.dev.state = .testing →
    units < 65536 → (∀ x ∈ channels, x.1 < 16 ∧ x.2 < 16) →
    ∃ t, exec (.selfTestComplete parts units channels) s = .next t
      ∧ t.dev.state = (if bit units 13 || bit units 14 || bit units 15 then .failed else .initialising)
      ∧ t.dev.selfTestDev = units
      ∧ (∀ p, p < 16 → (bit parts p = true ∨ ∃ c, (p, c) ∈ channels) → (t.part p).fault ≠ 0)
      ∧ (∀ p, p < 16 → bit parts p = false → (∀ c, (p, c) ∉ channels) → (t.part p).fault = (s.part p).fault)
      ∧ t.enginesOffline = (List.range 4).filter (fun e => bit units (3 + e)) ∧ t.clock = s.clock)
  ∧ (∀ s : State, s.powered = true → s.dev.state = .initialising →
    ∃ t, exec .coreInitialisationComplete s = .next t ∧ t.dev = { s.dev with state := .mounting }
      ∧ t.parts = s.parts.map (fun p => { p with
          cores := p.cores.map (fun c => { c with clm := {}, lines := [], stop := {}, check := {}, sums := [] }) })
      ∧ t = { s with dev := t.dev, parts := t.parts })
  ∧ (∀ s : State, s.powered = true → s.dev.state = .mounting → s.bays.any (fun b => b.state == .mounting) = false →
    s.ringsEmpty = true →
    ∃ t, exec .ledgerMountComplete s = .next t ∧ t.dev.state = .ready ∧ t.dev.bootCount = s.dev.bootCount + 1
      ∧ t.dev.minSvn = max s.dev.minSvn (imageFloor (s.bank s.dev.activeBank).image)
      ∧ t.ledger.genesis = true ∧ t.clock = s.clock ∧ t.trains = s.trains)
  ∧ (∀ s : State, s.powered = true → s.beforeReady = true → s.dev.state ≠ .failed → s.dev.phase1 = false →
    s.dev.attemptStart + 500000000 ≤ s.clock.timebase → s.dev.banks.length = 2 → s.dev.selector < 2 →
    ∃ t, exec .bootAttemptTimeout s = .next t
      ∧ ((t.bank s.dev.selector).attempts = (s.bank s.dev.selector).attempts + 1)
      ∧ (t.dev.state = .booting ∨ t.dev.state = .failed))
  ∧ (∀ s : State, s.powered = true → s.dev.state = .failed → s.dev.recoveryProgress = 2 → s.dev.banks.length = 2 →
    ∃ t, exec (.recoveryComplete true true) s = .next t ∧ t.dev.state = .booting ∧ t.dev.selector = 0
      ∧ (t.bank 0).image = s.dev.recoveryImage ∧ (t.bank 1).image = s.dev.recoveryImage)

/-- `chanterWatchdog`, `chanterReloadComplete` and `partitionSelfTestComplete` complete: the watchdog latches cause 15 in
every Breath in progress (R711); the reload restarts every train that stopped for it with its counter continued (R710); the
self-test of a partition reset restarts the train and faults only the members that failed (R709). -/
def Obligations.RestartCompletions : Prop :=
  (∀ s : State, s.wf = true → s.powered = true → s.dev.state = .ready → s.consort.member = false →
    ∃ t, exec .chanterWatchdog s = .next t ∧ t.dev.restartCause = 2
      ∧ ∀ k, k ∈ s.activeTrains → ((s.train k).phase = .working ∨ (s.train k).phase = .sealing) →
          (t.train k).causes = Nat.lor (s.train k).causes 0x8000 ∧ (t.train k).breath = (s.train k).breath)
  ∧ (∀ s : State, s.wf = true → s.powered = true → s.dev.state = .restarting → s.dev.shutdownWork = none → s.ringsEmpty = true →
    ∃ t, exec .chanterReloadComplete s = .next t ∧ t.dev = { s.dev with state := .ready, restartCause := 0, kept := none }
      ∧ (∀ k, k ∈ s.activeTrains → (s.train k).halt = .restart → (t.train k).halt = .none ∧ (t.train k).next = (s.train k).next)
      ∧ t = { s with dev := t.dev, trains := t.trains })
  ∧ (∀ (s : State) (p failing : Nat), s.wf = true → s.powered = true → s.dev.state = .ready → s.dev.restartCause = 0 → p < 16 →
    (s.train p).halt = .reset → p + (s.part p).size ≤ 16 → s.ringsEmpty = true →
    ∃ t, exec (.partitionSelfTestComplete p failing) s = .next t ∧ (t.train p).halt = .none
      ∧ (∀ q, p ≤ q → q < p + (s.part p).size → bit failing q = true → (t.part q).fault ≠ 0)
      ∧ (∀ q, p ≤ q → q < p + (s.part p).size → bit failing q = false → (s.part q).channels.any (·.failed) = false →
          (t.part q).fault = if (s.part q).fault = 3 then 3 else 0)
      ∧ (t.train p).next = (s.train p).next)

/-! The Breath. -/

/-- `breathStart` completes: on a standalone card a train starts a Breath only at a timebase value that is a multiple of 500 ×
N5 (R45), and then takes its next number, the window from there, and the phase of work. -/
def Obligations.BreathStartsOnTheGrid : Prop :=
  ∀ (s : State) (k : Nat), s.wf = true → k < 17 → s.consort.member = false →
    (s.clock.timebase % (500 * (s.train k).n5Due) ≠ 0 → exec (.breathStart k) s = .next s)
    ∧ (s.mayBegin k = true → ∃ t, exec (.breathStart k) s = .next t ∧ (t.train k).breath = (s.train k).next
        ∧ (t.train k).next = ((s.train k).next + 1) % 2 ^ 48 ∧ (t.train k).phase = .working
        ∧ (t.train k).start = s.clock.timebase ∧ (t.train k).startTime = s.clock.time)

/-- `admissionPoint` completes: it opens the seal window of the Breath in progress; what is unfinished is carried, nothing of
the clock, the window's presence state or the banks changes (R59, R66). -/
def Obligations.AdmissionPointOpensSealWindow : Prop :=
  ∀ (s : State) (k : Nat), s.wf = true → k < 17 → s.powered = true → (s.train k).phase = .working →
    (s.train k).start + periodUnits (s.train k).n5 - 200 ≤ s.clock.timebase →
    ∃ t, exec (.admissionPoint k) s = .next t ∧ (t.train k).phase = .sealing ∧ (t.train k).breath = (s.train k).breath
      ∧ (∀ q ∈ (t.train k).admitted, q.done = false → q.carried = true) ∧ t.clock = s.clock ∧ t.presence = s.presence
      ∧ t.dev.banks = s.dev.banks

/-- `workComplete` completes: the first open piece of the admitted set is done, between the Drone slot and the end of the work
window (R52). -/
def Obligations.WorkCompletesInOrder : Prop :=
  ∀ (s : State) (k cycles : Nat) (p : Piece), s.wf = true → k < 17 → s.powered = true → (s.train k).phase = .working →
    (s.train k).start + 50 ≤ s.clock.timebase → s.clock.timebase ≤ (s.train k).start + periodUnits (s.train k).n5 - 200 →
    (s.train k).admitted.find? (fun q => !q.done) = some p →
    ∃ t, exec (.workComplete k cycles) s = .next t ∧ t.clock = s.clock ∧ (t.train k).phase = .working
      ∧ ∀ q ∈ (t.train k).admitted, q.work = p.work → q.step = p.step → q.done = true

/-- `sealDecision` completes: the seal of a standalone Breath is decided in its last 2 µs by the latched causes alone, where
no monitor is loaded: with none it passes and the count of failures is 0, with any it fails, the next Breath is a re-run and
the count rises; SEAL_STATUS shows the outcome (R53, R535, R547). -/
def Obligations.SealDecidedByCauses : Prop :=
  ∀ (s : State) (k : Nat), s.wf = true → s.powered = true → k ∈ s.activeTrains → s.consort.member = false →
    (s.train k).phase = .sealing → (s.train k).closing = false → (s.train k).objects.monitors = [] → s.ringsEmpty = true →
    (s.train k).start + periodUnits (s.train k).n5 - 200 ≤ s.clock.timebase →
    s.clock.timebase ≤ (s.train k).start + periodUnits (s.train k).n5 - 50 →
    ∃ t, exec (.sealDecision k) s = .next t ∧ (t.train k).sealStatus.breath = (s.train k).breath
      ∧ (t.train k).sealStatus.failed = decide ((s.train k).causes ≠ 0)
      ∧ (t.train k).failures = (if (s.train k).causes = 0 then 0 else (s.train k).failures + 1)
      ∧ ((s.train k).causes ≠ 0 → (t.train k).rerun = true ∧ (t.train k).sealStatus.causes = (s.train k).causes)
      ∧ t.clock = s.clock

/-- `checkFailure` completes: a check that can fire at this core and unit is latched with its attribution (R534, R536); one at a
macro under a known-sum test of STOP_PIN or RESTORE is that command's own (R356, R600). -/
def Obligations.CheckFailureIsLatched : Prop :=
  ∀ (s : State) (k cause core unit : Nat), s.wf = true → s.powered = true → k ∈ s.activeTrains → k < 16 → cause < 16 →
    ((s.train k).phase = .working ∨ (s.train k).phase = .sealing) → (s.train k).closing = false →
    s.checkFires k cause core unit = true → (cause = 7 → s.pinning k core = none ∧ s.repinning k core = none) →
    ∃ t, exec (.checkFailure k cause core unit) s = .next t ∧ (t.train k).causes = Nat.lor (s.train k).causes (2 ^ cause)
      ∧ (t.train k).core = core ∧ (t.train k).unit = reportedUnit cause unit
      ∧ t.train k = { s.train k with
          causes := (t.train k).causes, core := core, unit := (t.train k).unit, repairs := (t.train k).repairs }
      ∧ (∀ j, j ≠ k → t.train j = s.train j)
      ∧ t = { s with
          trains := t.trains, fns := t.fns, host := t.host, out := t.out, board := { s.board with alert := t.board.alert }
          dev := { s.dev with freeIndex := t.dev.freeIndex } }

/-- `hbmReadOutcome` completes (Table 13.5): a corrected error counts as corrected, an uncorrectable one that nothing on the card
needs completes poisoned, a parity error counts once whether or not its retry succeeds, and a channel whose retries fail is
marked failed and faults its partition. No outcome changes an HBM byte that a command does not write. -/
def Obligations.HbmReadOutcomes : Prop :=
  ∀ (s : State) (p c page outcome : Nat), s.wf = true → s.powered = true → p < 16 → c < 16 →
    let old := s.channel p c
    ∃ t, exec (.hbmReadOutcome p c page outcome none) s = .next t
      ∧ (outcome = 0 → t = s)
      ∧ ((t.part p).channels.getD c {}).corrected =
          (if outcome = 1 ∨ outcome = 2 then min (old.corrected + 1) 0xFFFFFFFF else old.corrected)
      ∧ ((t.part p).channels.getD c {}).uncorrectable =
          (if outcome = 3 then min (old.uncorrectable + 1) 0xFFFFFFFF else old.uncorrectable)
      ∧ ((t.part p).channels.getD c {}).parity =
          (if 4 ≤ outcome ∧ outcome ≤ 7 then min (old.parity + 1) 0xFFFFFFFF else old.parity)
      ∧ (outcome = 7 → ((t.part p).channels.getD c {}).failed = true ∧ (t.part p).fault ≠ 0)
      ∧ ((outcome = 3 ∨ outcome = 5) → s.repairHit (s.leaderOf p) (unmapHbm (s.leaderOf p) (s.groupSize (s.leaderOf p)) p (page * 65536)) = none →
          t.out.poisoned = true)
      ∧ (t.part p).hbm = (s.part p).hbm ∧ (∀ q, q ≠ p → t.part q = s.part q) ∧ t.clock = s.clock

/-- `clmScrub` and `engineTimeout` complete: the CLM scrub counts a corrected bit of its core and marks the command whose copy
lies in an uncorrectable line, which latches cause bit 10 (R549, R551, Table 15.2); a decode over its engine time ends with
INTERNAL and flushes the picture buffer (R521). -/
def Obligations.ScrubAndEngineTimeout : Prop :=
  (∀ (s : State) (core off : Nat) (work : Option Nat), s.wf = true → s.powered = true → core < 256 →
    ∃ t, exec (.clmScrub core off true work) s = .next t
      ∧ (t.core core).corrections = min ((s.core core).corrections + 1) 0xFFFFFFFF
      ∧ (t.core core).clm = (s.core core).clm ∧ (t.core core).stop = (s.core core).stop ∧ t.trains = s.trains)
  ∧ (∀ (s : State) (core off id : Nat), s.wf = true → s.powered = true → core < 256 → s.leaderOf (core / 16) < 16 →
    ∃ t, exec (.clmScrub core off false (some id)) s = .next t ∧ t.parts = s.parts
      ∧ (t.train (s.leaderOf (core / 16))).works =
          (s.train (s.leaderOf (core / 16))).works.map (fun w => if w.id = id then { w with struck := true } else w)
      ∧ ((s.train (s.leaderOf (core / 16))).phase = .working → (s.train (s.leaderOf (core / 16))).closing = false →
          (∃ w ∈ (s.train (s.leaderOf (core / 16))).works, w.id = id) →
          (t.train (s.leaderOf (core / 16))).causes = Nat.lor (s.train (s.leaderOf (core / 16))).causes 1024))
  ∧ (∀ (s : State) (k session : Nat) (w : Work) (z : Session), s.wf = true → k < 16 → s.powered = true →
    (s.train k).phase = .working →
    (s.train k).works.find? (fun w => w.stage == .running && (match w.cmd with
      | .vidDecode h _ _ => h == session
      | _ => false)) = some w →
    (s.train k).objects.sessions.find? (fun x => x.handle == session) = some z →
    ∃ t, exec (.engineTimeout k session) s = .next t
      ∧ (∀ v ∈ (t.train k).works, v.id = w.id → v.stage = .finished ∧ v.status = 0x7F)
      ∧ (∀ x ∈ (t.train k).objects.sessions, x.handle = session → x.waiting = [])
      ∧ t.parts = s.parts ∧ t.clock = s.clock)

/-! Ends of effects outside the Reed cores. -/

/-- `retireFlashWriteDone`, `fwImageWritten`, `ownerKeyStored`, `attestQuoteSigned`, `deregisterAccessesDone` and
`shutdownCommitDone` complete: the end of an effect fixes the outcome of its command, whose reply waits for a seal: a
retirement enters the table once its flash write is done (R491), a firmware image is in its bank and selected if asked (R687),
an owner key is installed (R690), a quote is signed (R692), the accesses to a region have ended (R170), a shutdown is
committed (R198). -/
def Obligations.OutsideEffectsEnd : Prop :=
  let ended (t : State) (k id status : Nat) : Prop :=
    ∀ v ∈ (t.train k).works, v.id = id → v.stage = .finished ∧ v.status = status
  (∀ (s : State) (w : Work) (a : Nat), s.wf = true → s.powered = true → w.train < 17 → s.oldestOutside 0x25 = some w →
    w.cmd = .retirePage a → s.onCard a = true → s.dev.retired.length < 4096 →
    let place := mapHbm w.train (s.groupSize w.train) (s.localAddr a)
    s.dev.retired.contains (place.1, place.2 / 65536) = false →
    ∃ t, exec .retireFlashWriteDone s = .next t ∧ t.dev.retired = s.dev.retired ++ [(place.1, place.2 / 65536)]
      ∧ ended t w.train w.id 0 ∧ t.parts.map (·.hbm) = s.parts.map (·.hbm))
  ∧ (∀ (s : State) (w : Work) (r : SlotRef) (target activate : Nat), s.wf = true → w.train < 17 → s.dev.banks.length = 2 →
    target < 2 → s.oldestOutside 0xB0 = some w → w.cmd = .fwUpdate r target activate →
    ∀ good, ∃ t, exec (.fwImageWritten good) s = .next t ∧ t = { s with dev := t.dev, trains := t.trains }
      ∧ if good && (s.imageProblem w.auxBytes w.auxBytes.length).isNone then
          (t.bank target).image = w.auxBytes ∧ t.dev.selector = (if activate = 1 then target else s.dev.selector)
            ∧ t.dev = { s.dev with banks := t.dev.banks, selector := t.dev.selector } ∧ ended t w.train w.id 0
        else t.dev = s.dev ∧ ended t w.train w.id 0x12)
  ∧ (∀ (s : State) (w : Work), s.wf = true → w.train < 17 → s.oldestOutside 0xB1 = some w →
    ∃ t, exec .ownerKeyStored s = .next t ∧ t.dev = { s.dev with ownerKey := w.auxBytes } ∧ ended t w.train w.id 0
      ∧ t = { s with dev := t.dev, trains := t.trains })
  ∧ (∀ (s : State) (w : Work), s.wf = true → w.train < 17 → s.oldestOutside 0xB4 = some w →
    ∃ t, exec .attestQuoteSigned s = .next t ∧ ended t w.train w.id 0 ∧ t = { s with trains := t.trains })
  ∧ (∀ (s : State) (fn region : Nat) (w : Work), s.wf = true → w.train < 17 →
    s.allWorks.find? (fun w => w.fn == fn && w.stage == .outside && (w.cmd == .bellowsDeregister region 0
      || (w.cmd == .bellowsDeregister region 1 && w.aux != []))) = some w →
    ∃ t, exec (.deregisterAccessesDone fn region) s = .next t ∧ ended t w.train w.id 0 ∧ t = { s with trains := t.trains })
  ∧ (∀ (s : State) (w : Work) (ws : List Work), s.wf = true → s.outside (fun c => c.opcode == 0x03) = w :: ws →
    s.dev.state = .shuttingDown → s.allIdle = true → s.ledger.open_ = [] →
    s.nothingToCommit = true →
    ∃ t, exec .shutdownCommitDone s = .next t ∧ ended t 16 w.id 0 ∧ t = { s with trains := t.trains })

/-- `drainLimit`, `shutdownDrainLimit`, `regroupApply` and `stopDrainComplete` complete. Unfinished sliced work of a train
whose drain limit has elapsed, or of a shutdown whose limit has, is cut (R96, R198: it ends or takes no further step, unless a
finished command bears its number), and no other train is touched by a drain limit (R84); a regroup gives its block the new
leaders, size, period and power step with counters at or above every old one (R50, R97); after the drain of a stop every train
may run again (R596). -/
def Obligations.LimitsAndStops : Prop :=
  let limited (s t : State) (k : Nat) : Prop :=
    ∀ v ∈ (t.train k).works, v.sliced = true → v.cut = true ∨ ∃ u ∈ (s.train k).works, u.id = v.id ∧ u.live = false
  (∀ s : State, s.wf = true →
    ∃ t, exec .drainLimit s = .next t ∧ t = { s with trains := t.trains }
      ∧ (∀ k ∈ s.leaders, s.drainElapsed k = true → limited s t k)
      ∧ ∀ k, k ∉ s.leaders ∨ s.drainElapsed k = false → t.train k = s.train k)
  ∧ (∀ s : State, s.wf = true →
    (s.shutdownElapsed = false → exec .shutdownDrainLimit s = .next s)
    ∧ (s.shutdownElapsed = true → ∃ t, exec .shutdownDrainLimit s = .next t ∧ t.clock = s.clock
        ∧ ∀ k, ∀ v ∈ (t.train k).works, v.train = k → v.sliced = true →
            v.endsWithShutdown = false ∨ ∃ u ∈ (s.train k).works, u.id = v.id ∧ u.live = false))
  ∧ (∀ (s : State) (w : Work) (b bs ns step n5 : Nat), s.wf = true → s.powered = true → s.ringsEmpty = true →
    s.regroup? = some (w, b, bs, ns, step, n5) → b + bs ≤ 16 → 0 < bs → 0 < ns →
    (∀ k ∈ s.leaders, b ≤ k → k < b + bs → (s.train k).halt = .regroup ∧ k + (s.part k).size ≤ b + bs) →
    ∃ t, exec .regroupApply s = .next t
      ∧ (∀ p, b ≤ p → p < b + bs → (t.part p).leader = b + (p - b) / ns * ns ∧ (t.part p).size = ns
          ∧ (t.train p).n5 = n5 ∧ (t.train p).step = step ∧ (t.part p).hbm = (s.part p).hbm
          ∧ ∀ k ∈ s.leaders, b ≤ k → k < b + bs → (s.train k).next ≤ (t.train p).next)
      ∧ (∀ p, p < 16 → (p < b ∨ b + bs ≤ p) → t.part p = s.part p ∧ t.train p = s.train p) ∧ t.clock = s.clock)
  ∧ (∀ (s : State) (w : Work) (b region first : Nat), s.wf = true → s.dev.stopWork.bind (s.work? adminTrain) = some w →
    w.cmd = .snapshotStop b region first → s.allStopped = true →
    ∃ t, exec .stopDrainComplete s = .next t ∧ t.dev.stopWork = none ∧ (∀ k ∈ s.leaders, (t.train k).halt ≠ .snapshot)
      ∧ t.clock = s.clock)

/-- `restoreComplete` completes: a RESTORE whose image passes its checks fixes its command's outcome and keeps the grouping and
counters; one whose image fails a check ends with that check's status (R600), with the grouping kept. -/
def Obligations.RestoreCompletes : Prop :=
  ∀ (s : State) (k : Nat) (w : Work), s.wf = true → k < 16 →
    (s.train k).works.find? (fun w => w.cmd.opcode == 0x82 && w.stage == .outside) = some w → w.train = k →
    (∀ r, s.headerProblem k w.stream = some r →
      ∃ t, exec (.restoreComplete k) s = .next t ∧ ∀ v ∈ (t.train k).works, v.id = w.id → v.stage = .finished ∧ v.status = r.status)
    ∧ (∀ r, s.headerProblem k w.stream = none → s.imageFault k w.stream = some r →
      ∃ t, exec (.restoreComplete k) s = .next t ∧ (∀ v ∈ (t.train k).works, v.id = w.id → v.stage = .finished ∧ v.status = r.status)
        ∧ t.clock = s.clock ∧ (∀ j, j ≠ k → t.train j = s.train j)
        ∧ t.parts.map (fun p => (p.leader, p.size)) = s.parts.map (fun p => (p.leader, p.size)))
    ∧ (s.headerProblem k w.stream = none → s.imageFault k w.stream = none →
      ∃ t, exec (.restoreComplete k) s = .next t ∧ (∀ v ∈ (t.train k).works, v.id = w.id → v.stage = .finished)
        ∧ t.clock = s.clock ∧ (∀ j, j ≠ k → t.train j = s.train j)
        ∧ t.parts.map (fun p => (p.leader, p.size)) = s.parts.map (fun p => (p.leader, p.size)))

/-- `bellowsPoisonedCompletion`, `bellowsCompletionTimeout` and `bellowsUnsupportedRequest` complete: a poisoned or timed-out slot
read ends the command that needed the slot, also one that has finished without an error, with BAD_PARAM and marks the slot for
RETIRED (R168); an Unsupported Request or Completer Abort withdraws the region and ends every command that names it, by a slot or
by a spill window (R169). -/
def Obligations.BellowsAccessFailures : Prop :=
  (∀ (s : State) (fn region slot : Nat) (r : Region) (w : Work) (poison : Bool), s.wf = true → w.train < 17 →
    (s.fn fn).region? region = some r → (r.spill = false ∨ r.claim? slot = none) →
    s.allWorks.find? (fun w => w.fn == fn && w.slots.contains (region, slot)) = some w → w ∈ (s.train w.train).works →
    (w.live = true ∨ w.status = 0) →
    ∃ t, exec (if poison then .bellowsPoisonedCompletion fn region slot else .bellowsCompletionTimeout fn region slot) s = .next t
      ∧ (∀ v ∈ (t.train w.train).works, v.id = w.id → v.stage = .finished ∧ v.status = 0x12
          ∧ ∃ h ∈ v.held, h.ref.region = region ∧ h.ref.slot = slot ∧ h.retired = true)
      ∧ t.out.aer = (fn, if poison then 1 else 2) :: s.out.aer ∧ t.clock = s.clock
      ∧ (w.live = true → (t.fn fn).regions = (s.fn fn).regions ∧ t.parts = s.parts))
  ∧ (∀ (s : State) (fn region : Nat) (abort : Bool) (r : Region), s.wf = true → fn < 17 → (s.fn fn).region? region = some r →
    ∃ t, exec (.bellowsUnsupportedRequest fn region abort) s = .next t
      ∧ (t.fn fn).regions.map (·.handle) = ((s.fn fn).regions.map (·.handle)).filter (· != region)
      ∧ t.out.aer = (fn, if abort then 4 else 3) :: s.out.aer
      ∧ ∀ k ∈ s.activeTrains, ∀ v ∈ (t.train k).works,
          (v.fn = fn ∧ v.slots.any (·.1 == region) = true) ∨ (v.train + 1 = fn
            ∧ (v.reads ++ v.writes).any (fun x => isSpill x.start && spillHandle x.start == region) = true) → v.stage = .finished)

/-! Presence and the seal loop. -/

/-- `keySwitch`, `presentHold` and `presenceWindowEnd` complete: the key switch takes its position and OFF closes an open
window (R670, R673); PRESENT held with the loop continuous opens a window of the length in force (R671); the window closes at
its end (R673). -/
def Obligations.KeySwitchAndWindow : Prop :=
  (∀ (s : State) (position : Nat), s.powered = true → position < 3 →
    ∃ t, exec (.keySwitch position) s = .next t ∧ OnlyEvents { s with presence := t.presence } t
      ∧ t.presence = { s.presence with
          key := if position = 0 then .off else if position = 1 then .on else .present
          window := if position = 0 then none else s.presence.window })
  ∧ (∀ s : State, s.powered = true → s.presence.key = .present → s.presence.window = none →
    ∃ t, exec .presentHold s = .next t ∧ OnlyEvents { s with presence := t.presence } t
      ∧ t.presence = { s.presence with
          window := if s.presence.loop then some (s.clock.timebase + 100000000 * s.presence.length) else none })
  ∧ (∀ (s : State) (e : Nat), s.powered = true → s.presence.window = some e →
    (s.clock.timebase < e → exec .presenceWindowEnd s = .next s)
    ∧ (e ≤ s.clock.timebase → ∃ t, exec .presenceWindowEnd s = .next t ∧ OnlyEvents { s with presence := t.presence } t
        ∧ t.presence = { s.presence with window := none }))

/-- `presentHold` completes while a window is open, and restarts it: its end becomes that moment plus the window length in
force (R672). The loop is continuous where a window is open, for its interruption closes the window (R673). -/
def Obligations.PresentHoldRestartsTheWindow : Prop :=
  ∀ (s : State) (e : Nat), s.powered = true → s.presence.key = .present → s.presence.loop = true → s.presence.window = some e →
    ∃ t, exec .presentHold s = .next t
      ∧ t.presence = { s.presence with window := some (s.clock.timebase + 100000000 * s.presence.length) }
      ∧ OnlyEvents { s with presence := t.presence } t

/-- `sealLoopInterruption`, `sealLoopRestored` and `backupCellLow` complete: an interruption of the seal loop of 1 µs or
longer sets the latch with the device time, closes the window and changes of the trains only what SEAL_CLEAR notes (R675,
R676, R281); a later one leaves the latch's time and flag; a shorter one changes nothing. Unpowered, the latch is set with
time 0 (R676, R810). -/
def Obligations.SealLoopSetsTheLatch : Prop :=
  (∀ (s : State) (long stays : Bool), s.powered = true → s.presence.loop = true → (long || stays) = true →
    ∃ t, exec (.sealLoopInterruption long stays) s = .next t
      ∧ t.presence = { s.presence with
          loop := !stays, window := none, latch := true
          unpowered := s.presence.latch && s.presence.unpowered
          latchTime := if s.presence.latch then s.presence.latchTime else s.clock.time }
      ∧ (∀ k, k ≠ 16 → t.train k = s.train k) ∧ t.clock = s.clock ∧ t.parts = s.parts ∧ t.ledger = s.ledger ∧ t.dev = s.dev)
  ∧ (∀ s : State, exec (.sealLoopInterruption false false) s = .next s)
  ∧ (∀ (s : State) (stays : Bool), s.powered = false → s.presence.loop = true →
    exec (.sealLoopInterruption true stays) s = .next { s with presence :=
      (if s.presence.latch then { s.presence with loop := !stays }
       else { s.presence with loop := !stays, latch := true, unpowered := true, latchTime := 0, breakOwed := true }) })
  ∧ (∀ s : State, exec .sealLoopRestored s = .next { s with presence := { s.presence with loop := true } })
  ∧ (∀ s : State, s.presence.latch = false → exec .backupCellLow s = .next { s with presence :=
      (if s.board.aux then s.presence
       else { s.presence with latch := true, unpowered := true, latchTime := 0, breakOwed := true }) })

/-! The ledger's tiers and the cartridge bays. -/

/-- The tiers of the ledger: a second after its first record the open folio closes, with the next number, its records and the
chain's last value (R622, R624); a commit to holding flash moves the folio there (R656, R664), a failed one marks the tier
failed; a commit to a cartridge fills the next slot with its header (R647, R648), a torn one leaves that slot, and an error of
the bus or a write-protection error faults the bay (R663). -/
def Obligations.FoliosMoveThroughTheTiers : Prop :=
  (∀ s : State, s.commits = true → s.ledger.open_ ≠ [] → s.ledger.openTime + 1000000000 ≤ s.clock.time → s.canTake = true →
    ∃ t f, exec .folioCloseTimeout s = .next t ∧ t.ledger.mram = s.ledger.mram ++ [f] ∧ f.records = s.ledger.open_
      ∧ f.number = s.ledger.nextFolio ∧ f.firstSeq + s.ledger.open_.length = max s.ledger.nextSeq s.ledger.open_.length
      ∧ f.previous = s.ledger.lastChain ∧ f.chain = chainValue f.previous f.body f.fixed ∧ f.body = sha256 f.blocks
      ∧ t = { s with ledger := { s.ledger with
          mram := t.ledger.mram, open_ := [], openOrdinary := false, nextFolio := s.ledger.nextFolio + 1, lastChain := f.chain } })
  ∧ (∀ (s : State) (f : Folio), s.commits = true → s.nextForFlash = some f →
    (∃ t, exec (.holdingFlashCommit true) s = .next t ∧ t.ledger.flash = s.ledger.flash ++ [f] ∧ OnlyRecords s t)
    ∧ ∃ t, exec (.holdingFlashCommit false) s = .next t ∧ t.ledger.flashFailed = true ∧ t.ledger.flash = s.ledger.flash
      ∧ OnlyRecords s t)
  ∧ (∀ (s : State) (b : Nat) (f : Folio) (c : CartridgePages), s.wf = true → b < 2 → s.commits = true → s.nextFor b = some f →
    (s.bay b).cart = some c →
    (∃ t, exec (.folioCommitComplete b 0) s = .next t ∧ (t.bay b).nextSlot = (s.bay b).nextSlot + 1 ∧ (t.bay b).torn = []
      ∧ ((t.bay b).cart.map (·.headers)) =
          some (c.headers ++ [((s.bay b).nextSlot, f.header (1 + b) c.id (s.bay b).nextSlot (s.bay b).torn)])
      ∧ t.ledger.committed = max s.ledger.committed f.lastSeq ∧ t.clock = s.clock ∧ t.parts = s.parts)
    ∧ (∃ t, exec (.folioCommitComplete b 1) s = .next t ∧ (t.bay b).nextSlot = (s.bay b).nextSlot + 1
      ∧ (t.bay b).torn = (s.bay b).torn ++ [(s.bay b).nextSlot] ∧ t.clock = s.clock ∧ t.parts = s.parts)
    ∧ ∀ outcome, 2 ≤ outcome → ∃ t, exec (.folioCommitComplete b outcome) s = .next t ∧ (t.bay b).state = .faulted
      ∧ t.clock = s.clock ∧ t.parts = s.parts)

/-- The bays (R637 to R643): a cartridge detected in an empty bay is mounting; one that is genuine, unbound, with life left and
no slot written is bound to the card and stands by or is active; one of another card is foreign; one that is not genuine
faults the bay. A removed cartridge leaves an empty bay. An eject request marks the bay, and an active one stands by; the bay
is released when no folio is left for it; a released cartridge that stays a minute is mounted again. -/
def Obligations.BaysMountAndRelease : Prop :=
  (∀ (s : State) (b : Nat) (c : CartridgePages), s.wf = true → b < 2 → s.board.good = true → (s.bay b).state = .empty →
    ∃ t, exec (.cardDetect b c) s = .next t
      ∧ OnlyRecords { s with bays := s.bays.set b { state := .mounting, cart := some c } } t)
  ∧ (∀ (s : State) (b : Nat) (c : CartridgePages) (fast : Bool), s.wf = true → b < 2 → s.commits = true →
    (s.bay b).state = .mounting → (s.bay b).cart = some c → (s.bay b).ejectAsked = false →
    (c.genuine = true → c.life = 0 → c.insertions ≤ 2000 → c.spare ≠ 0 → c.openSlot = 0xFFFFFFFF →
      ∃ t, exec (.mountComplete b fast false) s = .next t ∧ ((t.bay b).state = .standby ∨ (t.bay b).state = .active)
        ∧ (t.bay b).cart = some { c with life := 1, boundCard := fit 16 Config.serial, bindTime := s.clock.time }
        ∧ (t.bay b).ddr50 = fast ∧ (t.bay b).nextSlot = 0 ∧ t.clock = s.clock ∧ t.parts = s.parts)
    ∧ (c.genuine = true → bit c.life 0 = true → c.boundCard ≠ fit 16 Config.serial →
      ∃ t, exec (.mountComplete b fast false) s = .next t ∧ (t.bay b).state = .foreign ∧ (t.bay b).cart = some c)
    ∧ (c.genuine = false → ∃ t, exec (.mountComplete b fast false) s = .next t ∧ (t.bay b).state = .faulted))
  ∧ (∀ (s : State) (b : Nat) (c : CartridgePages), s.wf = true → b < 2 → (s.bay b).cart = some c →
    ∃ t, exec (.cardRemoved b) s = .next t ∧ t.bay b = {} ∧ t.clock = s.clock ∧ t.parts = s.parts
      ∧ ∀ k, k ≠ 16 → t.train k = s.train k)
  ∧ (∀ (s : State) (b : Nat), s.wf = true → b < 2 → s.commits = true → (s.bay b).ejectAsked = false →
    (s.bay b).state ≠ .empty → (s.bay b).state ≠ .released → (s.bay b).state ≠ .mounting →
    ∃ t, exec (.ejectButton b) s = .next t ∧ (t.bay b).ejectAsked = true
      ∧ (t.bay b).state = (if (s.bay b).state = .active then .standby else (s.bay b).state)
      ∧ (t.bay b).cart = (s.bay b).cart ∧ t.clock = s.clock ∧ t.parts = s.parts)
  ∧ (∀ (s : State) (b : Nat), s.wf = true → b < 2 → s.commits = true → (s.bay b).ejectAsked = true →
    (s.bay b).state ≠ .mounting → s.nextFor b = none →
    ∃ t, exec (.bayRelease b) s = .next t ∧ (t.bay b).state = .released ∧ (t.bay b).latchClosed = false
      ∧ (t.bay b).releasedAt = s.clock.timebase ∧ (t.bay b).cart = (s.bay b).cart ∧ t.clock = s.clock ∧ t.parts = s.parts)
  ∧ (∀ (s : State) (b : Nat) (c : CartridgePages), s.wf = true → b < 2 → s.commits = true → (s.bay b).state = .released →
    (s.bay b).cart = some c → (s.bay b).releasedAt + 6000000000 ≤ s.clock.timebase →
    ∃ t, exec (.releaseTimeout b) s = .next t
      ∧ OnlyRecords { s with
          bays := s.bays.set b { s.bay b with state := .mounting, latchClosed := true, torn := [], tornRun := 0 } } t)

/-! The board. -/

/-- A sensor reading is held, counts towards a trip at the threshold of Table 24.4, and warns once when armed (R748, R800);
nothing else changes but the event queues. -/
def Obligations.SensorReadings : Prop :=
  ∀ (s : State) (i : Nat) (value : Int) (x : Sensor), s.board.good = true → s.board.sensors[i]? = some x →
    ∃ t, exec (.sensorReading i value) s = .next t
      ∧ t.board.sensors = s.board.sensors.set i { x with
          now := value, overTrip := if tripAt i ≤ value then x.overTrip + 1 else 0
          armed := (x.armed || decide (value ≤ x.warn - 3))
            && !(decide (x.warn ≤ value) && !s.dev.onceThisSecond.contains (0x0901, i)) }
      ∧ OnlyEvents { s with
          board := { s.board with sensors := t.board.sensors }
          dev := { s.dev with onceThisSecond := t.dev.onceThisSecond } } t
      ∧ (value < x.warn → t.dev = s.dev ∧ t.fns = s.fns)

/-- Power (R797 to R800, R810, R813): a thermal trip after three readings and the power-fail warning begin the hold-up, latch
the first cause and release ALERT#; the end of the hold-up opens the bays' latches; the loss of auxiliary power clears the
trip cause. The host link retrains without a reset (R179); a Ligature module within 3 m may train (R804). -/
def Obligations.PowerAndLinks : Prop :=
  (∀ (s : State) (i : Nat) (x : Sensor), s.powered = true → s.board.sensors[i]? = some x → 3 ≤ x.overTrip →
    exec (.thermalTrip i) s = .next { s with board := { s.board with
      holdUp := true, alert := false, tripCause := if s.board.tripCause = 0 then 1 else s.board.tripCause } })
  ∧ (∀ (s : State) (cause : Nat), s.powered = true →
    exec (.powerFailWarning cause) s = .next { s with board := { s.board with
      holdUp := true, alert := false
      tripCause := if s.board.tripCause = 0 ∧ (cause = 1 ∨ cause = 2) then 2 else s.board.tripCause } })
  ∧ (∀ s : State, s.board.holdUp = true →
    exec .holdUpEnd s = .next { s with
      board := { s.board with holdUp := false, good := false, perst := true }
      bays := s.bays.map (fun b => { b with latchClosed := false }) })
  ∧ (∀ s : State, exec .auxPowerLoss s = .next { s with board := { s.board with aux := false, tripCause := 0, alert := false } })
  ∧ (∀ s : State, exec .auxPowerReturn s = .next { s with board := { s.board with aux := true } })
  ∧ (∀ (s : State) (gen width : Nat), s.powered = true → s.board.perst = false →
    exec (.pcieLinkRetrain gen width) s = .next { s with dev := { s.dev with linkGen := gen, linkWidth := width } })
  ∧ (∀ (s : State) (port lanes metres : Nat) (passive active : Bool), s.wf = true → port < 2 →
    ∃ t, exec (.moduleInserted port passive active lanes metres) s = .next t ∧ t = { s with links := t.links }
      ∧ t.link port = { s.link port with usable := (passive || active && lanes == 8) && decide (metres ≤ 3) }
      ∧ ∀ q, q ≠ port → t.link q = s.link q)

/-! The consort. -/

/-- Formation (R562 to R565): a HELLO that agrees is remembered with the card at the far end; TIME frames step a follower's
timebase, never its device time, until the phase error is within 200 ns; once every group has stopped, every named port is
trained and the phase has settled, the card is a member and its groups begin at T0 with the announced counters; the timeout
ends it with CONSORT_MISMATCH. A retrained link counts one retraining. -/
def Obligations.ConsortFormation : Prop :=
  let taken (s : State) (l : FrameLink) : Prop :=
    s.wf = true ∧ s.powered = true ∧ l.port < 6 ∧ (s.link l.port).state = 2 ∧ l.crcGood = true ∧ l.linkSeq = (s.link l.port).expect
  (∀ (s : State) (l : FrameLink) (card members topology id : Nat) (block : List Byte), taken s l → s.consort.forming = some id →
    (s.link l.port).named = true → s.helloProblem l.port card members topology block = none →
    ∃ t, exec (.hello l card members topology l.port block) s = .next t
      ∧ t.link l.port = { s.link l.port with
          expect := ((s.link l.port).expect + 1) % 65536, tries := 0, farCard := card }
      ∧ card ∈ t.consort.heard ∧ l.port ∈ t.consort.agreed
      ∧ t = { s with
          links := t.links
          consort := { s.consort with heard := t.consort.heard, agreed := t.consort.agreed } })
  ∧ (∀ (s : State) (l : FrameLink) (base delay id : Nat) (err : Int), taken s l → s.consort.forming = some id →
    s.consort.card ≠ 0 →
    ∃ t, exec (.time l base delay err) s = .next t
      ∧ t.clock = (if err.natAbs ≤ 200 then s.clock else { s.clock with timebase := base + delay / 10 })
      ∧ t = { s with
          clock := t.clock, links := t.links
          consort := { s.consort with phase := err, phaseGood := if err.natAbs ≤ 200 then s.consort.phaseGood + 1 else 0 } })
  ∧ (∀ (s : State) (l : FrameLink) (base delay : Nat) (err : Int), taken s l → s.consort.forming = none → s.follows = true →
    err.natAbs ≤ 200 →
    ∃ t, exec (.time l base delay err) s = .next t
      ∧ t = { s with links := t.links, consort := { s.consort with phase := err, phaseBad := 0 } })
  ∧ (∀ (s : State) (id start breath : Nat) (groups : List Nat), s.wf = true → s.powered = true → s.consort.forming = some id →
    (∀ k ∈ s.activeTrains, (s.train k).halt = .formation) → (∀ p ∈ s.namedPorts, (s.link p).state = 2) →
    (s.consort.card = 0 ∨ 16 ≤ s.consort.phaseGood) → (s.train 16).next ≤ breath → s.clock.timebase ≤ start →
    ∃ t, exec (.formationComplete start breath groups) s = .next t
      ∧ t.consort = { s.consort with member := true, forming := none, start := start, phaseGood := 0, phaseBad := 0 }
      ∧ (t.train 16).next = breath ∧ (∀ k ∈ s.leaders, (t.train k).halt = .none ∧ (t.train k).works = []
          ∧ (t.train k).next = max (s.train k).next (groups.getD k (s.train k).next))
      ∧ (∀ v ∈ (t.train 16).works, v.id = id → v.stage = .finished ∧ v.status = 0)
      ∧ t.clock = s.clock ∧ t.parts.map (·.hbm) = s.parts.map (·.hbm))
  ∧ (∀ (s : State) (id heard : Nat), s.wf = true → s.powered = true → s.consort.forming = some id → s.formationOver = true →
    ∃ t, exec (.formationTimeout heard) s = .next t ∧ t.consort = {}
      ∧ (∀ v ∈ (t.train 16).works, v.id = id → v.stage = .finished ∧ v.status = 0x60)
      ∧ (∀ p, (t.link p) = { s.link p with named := (t.link p).named, state := (t.link p).state, sendSeq := (t.link p).sendSeq })
      ∧ (∀ p, p < 6 → (t.link p).named = false ∧ (t.link p).state = 0)
      ∧ t = { s with
          consort := {}, trains := t.trains, links := t.links, out := { s.out with frames := t.out.frames } })
  ∧ (∀ (s : State) (p : Nat), s.wf = true → p < 6 → s.powered = true → (s.link p).named = true → (s.link p).state = 1 →
    (s.link p).usable = true → s.consort.forming = none →
    ∃ t, exec (.linkRetrain p true) s = .next t
      ∧ t.link p = { s.link p with
          state := 2, failedAt := [], retrains := min ((s.link p).retrains + 1) 0xFFFFFFFF }
      ∧ (∀ q, q ≠ p → t.link q = s.link q)
      ∧ OnlyEvents { s with links := t.links, dev := { s.dev with onceThisSecond := t.dev.onceThisSecond } } t)

/-- Frames of a formed consort (R571, R575 to R577, R582, assumption 36): ADMIT gives a follower the set of its next Breath;
DATA writes provisional bytes at one partition and enters them in the journal; SEAL leaves the member's verdict with the
leader, which decides only when it has all; a follower without a consort verdict at its deadline ejects itself; CONTROL asks
for a retraining or announces a leave. A frame that fails its link check changes no group. -/
def Obligations.ConsortFrames : Prop :=
  let taken (s : State) (l : FrameLink) : Prop :=
    s.wf = true ∧ s.powered = true ∧ l.port < 6 ∧ (s.link l.port).state = 2 ∧ l.crcGood = true ∧ l.linkSeq = (s.link l.port).expect
  (∀ (s : State) (l : FrameLink) (k : Nat) (steps : List AdmitStep), taken s l → s.follows = true → k ∈ s.leaders →
    let b := (s.train k).next
    ∃ t, exec (.admitFrame l k b steps) s = .next t ∧ t = { s with links := t.links, trains := t.trains }
      ∧ t.train k = { s.train k with
          forming := steps.map (fun a => {
            work := a.work, step := a.step, cycles := a.cycles, breath := b
            energy := (((s.train k).work? a.work).map (fun w => (w.stepCost a.step).energy)).getD 0 }) }
      ∧ ∀ j, j ≠ k → t.train j = s.train j)
  ∧ (∀ (s : State) (l : FrameLink) (p addr : Nat) (bytes : List Byte), taken s l → s.consort.member = true → p < 16 →
    s.leaderOf p < 16 → addr + bytes.length ≤ partBytes →
    let k := s.leaderOf p
    ((s.train k).phase = .working ∨ (s.train k).phase = .sealing) →
    ∃ t, exec (.data l (s.train k).breath p addr bytes) s = .next t
      ∧ (∀ a, (t.part p).hbm.get a =
          if addr ≤ a ∧ a < addr + bytes.length then bytes.getD (a - addr) 0 else (s.part p).hbm.get a)
      ∧ (t.train k).journal = (s.train k).journal ++ [⟨unmapHbm k (s.groupSize k) p addr, bytes.length⟩]
      ∧ (∀ q, q ≠ p → t.part q = s.part q) ∧ t = { s with links := t.links, trains := t.trains, parts := t.parts })
  ∧ (∀ (s : State) (l : FrameLink) (card other k causes : Nat) (pass : Bool) (digest : List Byte), taken s l →
    s.consort.member = true → s.consort.card = 0 → k ∈ s.leaders → card ∈ s.others → other ∈ s.others → other ≠ card →
    (∀ v ∈ s.verdictsOf k, v.card ≠ card ∧ v.card ≠ other) →
    ((s.train k).phase ≠ .sealing ∨ s.clock.timebase ≤ s.verdictDue k) →
    let b := (s.train k).breath
    ∃ t, exec (.sealFrame l card k b pass causes digest) s = .next t
      ∧ t = { s with
          links := t.links
          consort := { s.consort with verdicts :=
            { card := card, group := k, breath := b, pass := pass, causes := causes, digest := digest } :: s.consort.verdicts } })
  ∧ (∀ (s : State) (k : Nat), s.wf = true → k ∈ s.leaders → s.consort.member = true → s.consort.card ≠ 0 →
    s.consort.card < s.consort.members → (∀ x ∈ s.consort.gone, x.1 ≠ s.consort.card) → (s.train k).phase = .sealing →
    (s.train k).start + periodUnits (s.train k).n5 + 50 ≤ s.clock.timebase → s.ringsEmpty = true →
    ∃ t, exec (.verdictDeadline k) s = .next t
      ∧ ((s.consort.card, 2) ∈ t.consort.gone ∨ t.consort.member = false) ∧ t.clock = s.clock)
  ∧ (∀ (s : State) (l : FrameLink) (card cause value : Nat), taken s l →
    ∃ t, exec (.control l 4 card cause value) s = .next t ∧ t = { s with links := t.links } ∧ (t.link l.port).state = 1)
  ∧ (∀ (s : State) (l : FrameLink) (card cause value : Nat), taken s l → s.consort.member = true → card < s.consort.members →
    ∃ t, exec (.control l 0 card cause value) s = .next t
      ∧ t = { s with links := t.links, consort := { s.consort with leaves := t.consort.leaves } }
      ∧ (card, value) ∈ t.consort.leaves)
  ∧ (∀ (s : State) (l : FrameLink) (k b : Nat) (steps : List AdmitStep), s.wf = true → l.port < 6 →
    ((s.link l.port).state ≠ 2 ∨ l.crcGood = false ∨ l.linkSeq ≠ (s.link l.port).expect) →
    ∃ t, exec (.admitFrame l k b steps) s = .next t ∧ t.trains = s.trains ∧ t.parts = s.parts ∧ t.consort = s.consort)

/-! The sideband and the events' timers. -/

/-- The sideband answers each message of Tables 24.11 and 24.12 with its response and changes nothing else but the endpoint ID
that Set Endpoint ID gives (R743, R811, R812); a read of sensor 32 or 35 releases ALERT# (R744); without power, before the end
of phase 1 or after a trip it answers nothing. The bytes of the responses follow the standards (assumption 15). -/
def Obligations.SidebandResponses : Prop :=
  (∀ s : State, s.sidebandAnswers = true →
    let answer (bs : List Byte) : Host.Outcome State Fault Refusal := .next { s with out := { s.out with sideband := bs } }
    (∀ eid, 0 < eid → eid < 255 → exec (.setEndpointId eid) s =
      .next { s with board := { s.board with eid := eid }, out := { s.out with sideband := [0, 0, byte eid, 0] } })
    ∧ exec .getEndpointId s = answer [0, byte s.board.eid, 0, 0]
    ∧ exec .getEndpointUuid s = answer (0 :: fit 16 Config.uuid)
    ∧ (∀ m, exec (.getMctpVersionSupport m) s =
        answer (if m ∈ [0x00, 0x01, 0x7E, 0xFF] then [0, 1] ++ fit 4 (Config.version m) else [0x80]))
    ∧ exec .getMessageTypeSupport s = answer [0, 2, 1, 0x7E]
    ∧ exec .getTid s = answer [0, byte Config.tid]
    ∧ (∀ m, exec (.getPldmVersion m) s = answer (if m = 0 ∨ m = 2 then 0 :: Config.version (0x100 + m) else [0x83]))
    ∧ exec .getPldmTypes s = answer (0 :: leBytes 8 5)
    ∧ (∀ m, exec (.getPldmCommands m) s = answer (if m = 0 then 0 :: leBytes 32 (2 ^ 2 + 2 ^ 3 + 2 ^ 4 + 2 ^ 5)
        else if m = 2 then 0 :: leBytes 32 (2 ^ 0x11 + 2 ^ 0x50 + 2 ^ 0x51) else [0x83]))
    ∧ exec .getPdrRepositoryInfo s = answer (0 :: Config.pdrInfo)
    ∧ (∀ n, exec (.getPdr n) s = answer (0 :: Config.pdr n))
    ∧ (∀ n v, s.telemetry n = some v → exec (.getSensorReading n) s = .next { s with
        out := { s.out with sideband := 0 :: (sensorField n v).1 ++ fit 5 (Config.sensorStates n) ++ (sensorField n v).2 }
        board := { s.board with alert := s.board.alert && n != 32 && n != 35 } })
    ∧ (∀ n, s.telemetry n = none → exec (.getSensorReading n) s = answer [0x80])
    ∧ (∀ n, exec (.readLastGasp n) s = answer (if n < s.ledger.gasp.entries.length then 0 :: s.gaspEntry n else [1]))
    ∧ (∀ m p c, exec (.unsupportedSidebandMessage m p c) s =
        answer (if m = 1 ∧ p ≠ 0 ∧ p ≠ 2 then [0x20] else [0x05])))
  ∧ (∀ (s : State) (n : Nat), s.sidebandAnswers = false →
    exec (.setEndpointId n) s = .next s ∧ exec .getEndpointId s = .next s ∧ exec .getEndpointUuid s = .next s
      ∧ exec (.getMctpVersionSupport n) s = .next s ∧ exec .getMessageTypeSupport s = .next s ∧ exec .getTid s = .next s
      ∧ exec (.getPldmVersion n) s = .next s ∧ exec .getPldmTypes s = .next s ∧ exec (.getPldmCommands n) s = .next s
      ∧ exec .getPdrRepositoryInfo s = .next s ∧ exec (.getPdr n) s = .next s ∧ exec (.getSensorReading n) s = .next s
      ∧ exec (.readLastGasp n) s = .next s ∧ exec (.unsupportedSidebandMessage n n n) s = .next s)

/-- Timers of the events (R725, R732, R77): a vector that is unmasked sends the message it had pending, and only then;
clearing the function mask sends those of every unmasked vector; a message of the event vector so sent begins a moderation
interval; the end of a moderation interval sends the message that
waited and begins a new interval; the end of a second begins the rate limits anew and writes the EVENTS_LOST records that
waited; the end of a slew leaves none. -/
def Obligations.EventTimers : Prop :=
  (∀ (s : State) (fn v : Nat), s.wf = true → fn < 17 →
    ∃ t, exec (.msixVectorUnmask fn (some v)) s = .next t ∧ t = { s with fns := t.fns, out := t.out }
      ∧ (∀ g, g ≠ fn → t.fn g = s.fn g)
      ∧ (if v ∈ (s.fn fn).pendingBits ∧ (s.fn fn).functionMask = false then
          t.out = { s.out with messages := (fn, v) :: s.out.messages }
            ∧ t.fn fn = { s.fn fn with
                masked := (s.fn fn).masked.filter (· != v), pendingBits := (s.fn fn).pendingBits.filter (· != v)
                events := if v = 1 then (s.fn fn).events.spaced s.clock.timebase else (s.fn fn).events }
        else t.out = s.out ∧ t.fn fn = { s.fn fn with masked := (s.fn fn).masked.filter (· != v) }))
  ∧ (∀ (s : State) (fn : Nat), s.wf = true → fn < 17 →
    let sent := (s.fn fn).pendingBits.filter (fun v => !(s.fn fn).masked.contains v)
    ∃ t, exec (.msixVectorUnmask fn none) s = .next t ∧ t = { s with fns := t.fns, out := t.out }
      ∧ (∀ g, g ≠ fn → t.fn g = s.fn g)
      ∧ t.out = { s.out with messages := (sent.map (fun v => (fn, v))).reverse ++ s.out.messages }
      ∧ t.fn fn = { s.fn fn with
          functionMask := false, pendingBits := (s.fn fn).pendingBits.filter (fun v => (s.fn fn).masked.contains v)
          events := if 1 ∈ sent then (s.fn fn).events.spaced s.clock.timebase else (s.fn fn).events })
  ∧ (∀ (s : State) (fn e : Nat), s.wf = true → fn < 17 → (s.fn fn).events.moderated = some e →
    (s.clock.timebase < e → exec (.msixModerationExpiry fn) s = .next s)
    ∧ (e ≤ s.clock.timebase → (s.fn fn).events.owed = false → exec (.msixModerationExpiry fn) s =
        .next (s.modFn fn (fun f => { f with events := { f.events with moderated := none, owed := false } })))
    ∧ (e ≤ s.clock.timebase → (s.fn fn).events.owed = true → 1 ∉ (s.fn fn).masked → (s.fn fn).functionMask = false →
        ∃ t, exec (.msixModerationExpiry fn) s = .next t ∧ t.out.messages = (fn, 1) :: s.out.messages
          ∧ (t.fn fn).events = { (s.fn fn).events with
              owed := false
              moderated := if (s.fn fn).events.moderation = 0 then none
                else some (s.clock.timebase + 100 * (s.fn fn).events.moderation) }
          ∧ OnlyEvents s t))
  ∧ (∀ s : State, s.wf = true → s.board.good = true → s.clock.timebase % 100000000 = 0 →
    (∀ c, c < 256 → (s.counters c).wrapped = 0) →
    ∃ t, exec .eventSecondEnd s = .next t ∧ OnlyEvents { s with dev := { s.dev with onceThisSecond := [] } } t
      ∧ (∀ f, f < 17 → (t.fn f).events.rate = [])
      ∧ ∀ f, f < 17 → (s.fn f).events.enable = true → (s.fn f).events.full = false →
          (t.fn f).events.lostFull = 0 ∧ (t.fn f).events.lostRate = 0)
  ∧ (∀ s : State, s.clock.slew ≤ 1 → exec .timeSlewComplete s = .next { s with clock := { s.clock with slew := 0 } })

/-! What commands do when they issue and when their seal passes. -/

/-- Commands of the Zero behaviour take effect at issue, for the next admission point (R52, R97, R106, R267, R281): BREATH_SET,
PART_QOS, PART_POWER and AUDIT_POLICY set what comes next and leave what is in force, every train following its policy until its own
admission point; PART_QOS fails where the shares to come would exceed 256 (R101); SEAL_CLEAR clears the latch that stood
when it was checked, or records the break seen since. -/
def Obligations.ZeroCommandsAtIssue : Prop :=
  let done (t : State) (w : Work) (detail : List Byte) : Prop :=
    ∀ v ∈ (t.train w.train).works, v.id = w.id → v.stage = .finished ∧ v.status = 0 ∧ v.detail = detail
  (∀ (s : State) (w : Work) (n floor : Nat), s.wf = true → w.train < 17 → w.cmd = .breathSet n floor →
    let next := if n = 0 then (s.train w.train).n5Next.getD (s.train w.train).n5 else n
    let t := s.startZero w
    done t w (leBytes 2 next) ∧ (t.train w.train).n5Next = some next ∧ (t.train w.train).n5 = (s.train w.train).n5
      ∧ (t.train w.train).floorNext = some floor ∧ (t.train w.train).floor = (s.train w.train).floor
      ∧ t = { s with trains := t.trains })
  ∧ (∀ (s : State) (w : Work) (share : Nat), s.wf = true → w.train < 17 → w.part < 16 → w.cmd = .partQos share →
    let t := s.startZero w
    let sum := shareSum (fun p => (s.part p).shareSoon) w.part share
    (sum ≤ 256 → done t w (byte share :: leBytes 2 sum) ∧ t.part w.part = { s.part w.part with shareNext := some share }
      ∧ (∀ q, q ≠ w.part → t.part q = s.part q) ∧ t = { s with trains := t.trains, parts := t.parts })
    ∧ (256 < sum → t.parts = s.parts ∧ ∀ v ∈ (t.train w.train).works, v.id = w.id → v.stage = .finished ∧ v.status = 0x12))
  ∧ (∀ (s : State) (w : Work) (step : Nat), s.wf = true → w.train < 17 → w.cmd = .partPower step →
    let t := s.startZero w
    done t w [byte step] ∧ (t.train w.train).stepNext = some step ∧ (t.train w.train).step = (s.train w.train).step
      ∧ t = { s with trains := t.trains })
  ∧ (∀ (s : State) (w : Work) (policy : Nat), s.wf = true → w.train < 17 → w.cmd = .auditPolicy policy →
    let t := s.startZero w
    done t w [byte (flag s.ledger.failOpen)] ∧ t.ledger = { s.ledger with
        policyNext := some (policy == 1), policyWas := s.activeTrains.map (fun k => (k, s.policyOf k)) }
      ∧ t = { s with trains := t.trains, ledger := t.ledger })
  ∧ (∀ (s : State) (w : Work), s.wf = true → w.train < 17 → w.cmd = .sealClear → w.aux = [] →
    let t := s.startZero w
    done t w [0]
      ∧ t.presence = { s.presence with latch := false, unpowered := false, latchTime := 0, breakOwed := false }
      ∧ t = { s with trains := t.trains, presence := t.presence })
  ∧ (∀ (s : State) (w : Work) (at_ raised : Nat), s.wf = true → w.train < 17 → w.cmd = .sealClear → w.aux = [at_, raised] →
    let t := s.startZero w
    done t w [1] ∧ t.presence = { s.presence with latch := true, unpowered := false, latchTime := at_, breakOwed := false })

/-- What a finished command commits when its seal passes: registering gives a new handle and an entry with the command's
values, releasing takes the entry out, and neither touches the objects of another group (R170, R216, R224, R230, R251, R283;
the handles' values are the model's, assumption 29). -/
def Obligations.CommitsAtThePassedSeal : Prop :=
  let frame (s t : State) (w : Work) : Prop :=
    t = { s with trains := t.trains } ∧ (∀ j, j ≠ w.train → t.train j = s.train j)
      ∧ (t.train w.train).breath = (s.train w.train).breath
  ∀ (s : State) (w : Work), s.wf = true → w.train < 17 →
    let o := (s.train w.train).objects
    let t := s.commitWork w
    let p := (t.train w.train).objects
    (∀ digest addr len format, w.cmd = .modelLoad digest addr len format → frame s t w ∧ p = { o with
        handles := p.handles
        models := o.models ++ [{ handle := s.nextHandle w.train 0, fn := w.fn, addr := addr, length := len, format := format, digest := digest }] })
    ∧ (∀ model first cores, w.cmd = .stopPin model first cores → frame s t w ∧ p = { o with
        handles := p.handles
        residencies := o.residencies ++ [{ handle := s.nextHandle w.train 1, fn := w.fn, model := model, firstCore := first, cores := cores }] })
    ∧ (∀ addr count, w.cmd = .progRegister addr count → frame s t w ∧ p = { o with
        handles := p.handles
        programs := o.programs ++ [{
          handle := s.nextHandle w.train 2, fn := w.fn, addr := addr, count := count, digest := sha256 w.descriptors.flatten }] })
    ∧ (∀ h, w.cmd = .stopRelease h → frame s t w ∧ p = { o with
        residencies := o.residencies.filter (·.handle != h), monitors := o.monitors.filter (·.residency != h) })
    ∧ (∀ h, w.cmd = .modelRelease h → frame s t w ∧ p = { o with models := o.models.filter (·.handle != h) })
    ∧ (∀ h, w.cmd = .progRelease h → frame s t w ∧ p = { o with programs := o.programs.filter (·.handle != h) })
    ∧ (∀ h, w.cmd = .vidClose h → frame s t w ∧ p = { o with sessions := o.sessions.filter (·.handle != h) })
    ∧ (∀ n, w.cmd = .presenceSet n → t.presence = { s.presence with length := n } ∧ p = o
        ∧ t = { s with trains := t.trains, presence := t.presence })
end

