-- ==== Sys2Proof/Laws/State.lean ====
section
/-! SUPPORT. What each named update of the state leaves as it is, field by field, and what is read back after it. -/

namespace Sys2Proof.Machine

variable (s : State)

/-! setFn. -/

@[simp] theorem State.setFn_pending (i : Nat) (x : Function) : (s.setFn i x).pending = s.pending := rfl
@[simp] theorem State.setFn_clock (i : Nat) (x : Function) : (s.setFn i x).clock = s.clock := rfl
@[simp] theorem State.setFn_dev (i : Nat) (x : Function) : (s.setFn i x).dev = s.dev := rfl
@[simp] theorem State.setFn_parts (i : Nat) (x : Function) : (s.setFn i x).parts = s.parts := rfl
@[simp] theorem State.setFn_trains (i : Nat) (x : Function) : (s.setFn i x).trains = s.trains := rfl
@[simp] theorem State.setFn_presence (i : Nat) (x : Function) : (s.setFn i x).presence = s.presence := rfl
@[simp] theorem State.setFn_ledger (i : Nat) (x : Function) : (s.setFn i x).ledger = s.ledger := rfl
@[simp] theorem State.setFn_bays (i : Nat) (x : Function) : (s.setFn i x).bays = s.bays := rfl
@[simp] theorem State.setFn_enginesOffline (i : Nat) (x : Function) : (s.setFn i x).enginesOffline = s.enginesOffline := rfl
@[simp] theorem State.setFn_links (i : Nat) (x : Function) : (s.setFn i x).links = s.links := rfl
@[simp] theorem State.setFn_consort (i : Nat) (x : Function) : (s.setFn i x).consort = s.consort := rfl
@[simp] theorem State.setFn_board (i : Nat) (x : Function) : (s.setFn i x).board = s.board := rfl
@[simp] theorem State.setFn_host (i : Nat) (x : Function) : (s.setFn i x).host = s.host := rfl
@[simp] theorem State.setFn_out (i : Nat) (x : Function) : (s.setFn i x).out = s.out := rfl

/-! modFn. -/

@[simp] theorem State.modFn_pending (i : Nat) (g : Function → Function) : (s.modFn i g).pending = s.pending := rfl
@[simp] theorem State.modFn_clock (i : Nat) (g : Function → Function) : (s.modFn i g).clock = s.clock := rfl
@[simp] theorem State.modFn_dev (i : Nat) (g : Function → Function) : (s.modFn i g).dev = s.dev := rfl
@[simp] theorem State.modFn_parts (i : Nat) (g : Function → Function) : (s.modFn i g).parts = s.parts := rfl
@[simp] theorem State.modFn_trains (i : Nat) (g : Function → Function) : (s.modFn i g).trains = s.trains := rfl
@[simp] theorem State.modFn_presence (i : Nat) (g : Function → Function) : (s.modFn i g).presence = s.presence := rfl
@[simp] theorem State.modFn_ledger (i : Nat) (g : Function → Function) : (s.modFn i g).ledger = s.ledger := rfl
@[simp] theorem State.modFn_bays (i : Nat) (g : Function → Function) : (s.modFn i g).bays = s.bays := rfl
@[simp] theorem State.modFn_enginesOffline (i : Nat) (g : Function → Function) : (s.modFn i g).enginesOffline = s.enginesOffline := rfl
@[simp] theorem State.modFn_links (i : Nat) (g : Function → Function) : (s.modFn i g).links = s.links := rfl
@[simp] theorem State.modFn_consort (i : Nat) (g : Function → Function) : (s.modFn i g).consort = s.consort := rfl
@[simp] theorem State.modFn_board (i : Nat) (g : Function → Function) : (s.modFn i g).board = s.board := rfl
@[simp] theorem State.modFn_host (i : Nat) (g : Function → Function) : (s.modFn i g).host = s.host := rfl
@[simp] theorem State.modFn_out (i : Nat) (g : Function → Function) : (s.modFn i g).out = s.out := rfl

/-! setPart. -/

@[simp] theorem State.setPart_pending (i : Nat) (x : Part) : (s.setPart i x).pending = s.pending := rfl
@[simp] theorem State.setPart_clock (i : Nat) (x : Part) : (s.setPart i x).clock = s.clock := rfl
@[simp] theorem State.setPart_dev (i : Nat) (x : Part) : (s.setPart i x).dev = s.dev := rfl
@[simp] theorem State.setPart_fns (i : Nat) (x : Part) : (s.setPart i x).fns = s.fns := rfl
@[simp] theorem State.setPart_trains (i : Nat) (x : Part) : (s.setPart i x).trains = s.trains := rfl
@[simp] theorem State.setPart_presence (i : Nat) (x : Part) : (s.setPart i x).presence = s.presence := rfl
@[simp] theorem State.setPart_ledger (i : Nat) (x : Part) : (s.setPart i x).ledger = s.ledger := rfl
@[simp] theorem State.setPart_bays (i : Nat) (x : Part) : (s.setPart i x).bays = s.bays := rfl
@[simp] theorem State.setPart_enginesOffline (i : Nat) (x : Part) : (s.setPart i x).enginesOffline = s.enginesOffline := rfl
@[simp] theorem State.setPart_links (i : Nat) (x : Part) : (s.setPart i x).links = s.links := rfl
@[simp] theorem State.setPart_consort (i : Nat) (x : Part) : (s.setPart i x).consort = s.consort := rfl
@[simp] theorem State.setPart_board (i : Nat) (x : Part) : (s.setPart i x).board = s.board := rfl
@[simp] theorem State.setPart_host (i : Nat) (x : Part) : (s.setPart i x).host = s.host := rfl
@[simp] theorem State.setPart_out (i : Nat) (x : Part) : (s.setPart i x).out = s.out := rfl

/-! modPart. -/

@[simp] theorem State.modPart_pending (i : Nat) (g : Part → Part) : (s.modPart i g).pending = s.pending := rfl
@[simp] theorem State.modPart_clock (i : Nat) (g : Part → Part) : (s.modPart i g).clock = s.clock := rfl
@[simp] theorem State.modPart_dev (i : Nat) (g : Part → Part) : (s.modPart i g).dev = s.dev := rfl
@[simp] theorem State.modPart_fns (i : Nat) (g : Part → Part) : (s.modPart i g).fns = s.fns := rfl
@[simp] theorem State.modPart_trains (i : Nat) (g : Part → Part) : (s.modPart i g).trains = s.trains := rfl
@[simp] theorem State.modPart_presence (i : Nat) (g : Part → Part) : (s.modPart i g).presence = s.presence := rfl
@[simp] theorem State.modPart_ledger (i : Nat) (g : Part → Part) : (s.modPart i g).ledger = s.ledger := rfl
@[simp] theorem State.modPart_bays (i : Nat) (g : Part → Part) : (s.modPart i g).bays = s.bays := rfl
@[simp] theorem State.modPart_enginesOffline (i : Nat) (g : Part → Part) : (s.modPart i g).enginesOffline = s.enginesOffline := rfl
@[simp] theorem State.modPart_links (i : Nat) (g : Part → Part) : (s.modPart i g).links = s.links := rfl
@[simp] theorem State.modPart_consort (i : Nat) (g : Part → Part) : (s.modPart i g).consort = s.consort := rfl
@[simp] theorem State.modPart_board (i : Nat) (g : Part → Part) : (s.modPart i g).board = s.board := rfl
@[simp] theorem State.modPart_host (i : Nat) (g : Part → Part) : (s.modPart i g).host = s.host := rfl
@[simp] theorem State.modPart_out (i : Nat) (g : Part → Part) : (s.modPart i g).out = s.out := rfl

/-! modCore. -/

@[simp] theorem State.modCore_pending (i : Nat) (g : Core → Core) : (s.modCore i g).pending = s.pending := rfl
@[simp] theorem State.modCore_clock (i : Nat) (g : Core → Core) : (s.modCore i g).clock = s.clock := rfl
@[simp] theorem State.modCore_dev (i : Nat) (g : Core → Core) : (s.modCore i g).dev = s.dev := rfl
@[simp] theorem State.modCore_fns (i : Nat) (g : Core → Core) : (s.modCore i g).fns = s.fns := rfl
@[simp] theorem State.modCore_trains (i : Nat) (g : Core → Core) : (s.modCore i g).trains = s.trains := rfl
@[simp] theorem State.modCore_presence (i : Nat) (g : Core → Core) : (s.modCore i g).presence = s.presence := rfl
@[simp] theorem State.modCore_ledger (i : Nat) (g : Core → Core) : (s.modCore i g).ledger = s.ledger := rfl
@[simp] theorem State.modCore_bays (i : Nat) (g : Core → Core) : (s.modCore i g).bays = s.bays := rfl
@[simp] theorem State.modCore_enginesOffline (i : Nat) (g : Core → Core) : (s.modCore i g).enginesOffline = s.enginesOffline := rfl
@[simp] theorem State.modCore_links (i : Nat) (g : Core → Core) : (s.modCore i g).links = s.links := rfl
@[simp] theorem State.modCore_consort (i : Nat) (g : Core → Core) : (s.modCore i g).consort = s.consort := rfl
@[simp] theorem State.modCore_board (i : Nat) (g : Core → Core) : (s.modCore i g).board = s.board := rfl
@[simp] theorem State.modCore_host (i : Nat) (g : Core → Core) : (s.modCore i g).host = s.host := rfl
@[simp] theorem State.modCore_out (i : Nat) (g : Core → Core) : (s.modCore i g).out = s.out := rfl

/-! setTrain. -/

@[simp] theorem State.setTrain_pending (i : Nat) (x : Train) : (s.setTrain i x).pending = s.pending := rfl
@[simp] theorem State.setTrain_clock (i : Nat) (x : Train) : (s.setTrain i x).clock = s.clock := rfl
@[simp] theorem State.setTrain_dev (i : Nat) (x : Train) : (s.setTrain i x).dev = s.dev := rfl
@[simp] theorem State.setTrain_fns (i : Nat) (x : Train) : (s.setTrain i x).fns = s.fns := rfl
@[simp] theorem State.setTrain_parts (i : Nat) (x : Train) : (s.setTrain i x).parts = s.parts := rfl
@[simp] theorem State.setTrain_presence (i : Nat) (x : Train) : (s.setTrain i x).presence = s.presence := rfl
@[simp] theorem State.setTrain_ledger (i : Nat) (x : Train) : (s.setTrain i x).ledger = s.ledger := rfl
@[simp] theorem State.setTrain_bays (i : Nat) (x : Train) : (s.setTrain i x).bays = s.bays := rfl
@[simp] theorem State.setTrain_enginesOffline (i : Nat) (x : Train) : (s.setTrain i x).enginesOffline = s.enginesOffline := rfl
@[simp] theorem State.setTrain_links (i : Nat) (x : Train) : (s.setTrain i x).links = s.links := rfl
@[simp] theorem State.setTrain_consort (i : Nat) (x : Train) : (s.setTrain i x).consort = s.consort := rfl
@[simp] theorem State.setTrain_board (i : Nat) (x : Train) : (s.setTrain i x).board = s.board := rfl
@[simp] theorem State.setTrain_host (i : Nat) (x : Train) : (s.setTrain i x).host = s.host := rfl
@[simp] theorem State.setTrain_out (i : Nat) (x : Train) : (s.setTrain i x).out = s.out := rfl

/-! modTrain. -/

@[simp] theorem State.modTrain_pending (i : Nat) (g : Train → Train) : (s.modTrain i g).pending = s.pending := rfl
@[simp] theorem State.modTrain_clock (i : Nat) (g : Train → Train) : (s.modTrain i g).clock = s.clock := rfl
@[simp] theorem State.modTrain_dev (i : Nat) (g : Train → Train) : (s.modTrain i g).dev = s.dev := rfl
@[simp] theorem State.modTrain_fns (i : Nat) (g : Train → Train) : (s.modTrain i g).fns = s.fns := rfl
@[simp] theorem State.modTrain_parts (i : Nat) (g : Train → Train) : (s.modTrain i g).parts = s.parts := rfl
@[simp] theorem State.modTrain_presence (i : Nat) (g : Train → Train) : (s.modTrain i g).presence = s.presence := rfl
@[simp] theorem State.modTrain_ledger (i : Nat) (g : Train → Train) : (s.modTrain i g).ledger = s.ledger := rfl
@[simp] theorem State.modTrain_bays (i : Nat) (g : Train → Train) : (s.modTrain i g).bays = s.bays := rfl
@[simp] theorem State.modTrain_enginesOffline (i : Nat) (g : Train → Train) : (s.modTrain i g).enginesOffline = s.enginesOffline := rfl
@[simp] theorem State.modTrain_links (i : Nat) (g : Train → Train) : (s.modTrain i g).links = s.links := rfl
@[simp] theorem State.modTrain_consort (i : Nat) (g : Train → Train) : (s.modTrain i g).consort = s.consort := rfl
@[simp] theorem State.modTrain_board (i : Nat) (g : Train → Train) : (s.modTrain i g).board = s.board := rfl
@[simp] theorem State.modTrain_host (i : Nat) (g : Train → Train) : (s.modTrain i g).host = s.host := rfl
@[simp] theorem State.modTrain_out (i : Nat) (g : Train → Train) : (s.modTrain i g).out = s.out := rfl

/-! modWork. -/

@[simp] theorem State.modWork_pending (i j : Nat) (g : Work → Work) : (s.modWork i j g).pending = s.pending := rfl
@[simp] theorem State.modWork_clock (i j : Nat) (g : Work → Work) : (s.modWork i j g).clock = s.clock := rfl
@[simp] theorem State.modWork_dev (i j : Nat) (g : Work → Work) : (s.modWork i j g).dev = s.dev := rfl
@[simp] theorem State.modWork_fns (i j : Nat) (g : Work → Work) : (s.modWork i j g).fns = s.fns := rfl
@[simp] theorem State.modWork_parts (i j : Nat) (g : Work → Work) : (s.modWork i j g).parts = s.parts := rfl
@[simp] theorem State.modWork_presence (i j : Nat) (g : Work → Work) : (s.modWork i j g).presence = s.presence := rfl
@[simp] theorem State.modWork_ledger (i j : Nat) (g : Work → Work) : (s.modWork i j g).ledger = s.ledger := rfl
@[simp] theorem State.modWork_bays (i j : Nat) (g : Work → Work) : (s.modWork i j g).bays = s.bays := rfl
@[simp] theorem State.modWork_enginesOffline (i j : Nat) (g : Work → Work) : (s.modWork i j g).enginesOffline = s.enginesOffline := rfl
@[simp] theorem State.modWork_links (i j : Nat) (g : Work → Work) : (s.modWork i j g).links = s.links := rfl
@[simp] theorem State.modWork_consort (i j : Nat) (g : Work → Work) : (s.modWork i j g).consort = s.consort := rfl
@[simp] theorem State.modWork_board (i j : Nat) (g : Work → Work) : (s.modWork i j g).board = s.board := rfl
@[simp] theorem State.modWork_host (i j : Nat) (g : Work → Work) : (s.modWork i j g).host = s.host := rfl
@[simp] theorem State.modWork_out (i j : Nat) (g : Work → Work) : (s.modWork i j g).out = s.out := rfl

/-! modObjects. -/

@[simp] theorem State.modObjects_pending (i : Nat) (g : Objects → Objects) : (s.modObjects i g).pending = s.pending := rfl
@[simp] theorem State.modObjects_clock (i : Nat) (g : Objects → Objects) : (s.modObjects i g).clock = s.clock := rfl
@[simp] theorem State.modObjects_dev (i : Nat) (g : Objects → Objects) : (s.modObjects i g).dev = s.dev := rfl
@[simp] theorem State.modObjects_fns (i : Nat) (g : Objects → Objects) : (s.modObjects i g).fns = s.fns := rfl
@[simp] theorem State.modObjects_parts (i : Nat) (g : Objects → Objects) : (s.modObjects i g).parts = s.parts := rfl
@[simp] theorem State.modObjects_presence (i : Nat) (g : Objects → Objects) : (s.modObjects i g).presence = s.presence := rfl
@[simp] theorem State.modObjects_ledger (i : Nat) (g : Objects → Objects) : (s.modObjects i g).ledger = s.ledger := rfl
@[simp] theorem State.modObjects_bays (i : Nat) (g : Objects → Objects) : (s.modObjects i g).bays = s.bays := rfl
@[simp] theorem State.modObjects_enginesOffline (i : Nat) (g : Objects → Objects) : (s.modObjects i g).enginesOffline = s.enginesOffline := rfl
@[simp] theorem State.modObjects_links (i : Nat) (g : Objects → Objects) : (s.modObjects i g).links = s.links := rfl
@[simp] theorem State.modObjects_consort (i : Nat) (g : Objects → Objects) : (s.modObjects i g).consort = s.consort := rfl
@[simp] theorem State.modObjects_board (i : Nat) (g : Objects → Objects) : (s.modObjects i g).board = s.board := rfl
@[simp] theorem State.modObjects_host (i : Nat) (g : Objects → Objects) : (s.modObjects i g).host = s.host := rfl
@[simp] theorem State.modObjects_out (i : Nat) (g : Objects → Objects) : (s.modObjects i g).out = s.out := rfl

/-! setBay. -/

@[simp] theorem State.setBay_pending (i : Nat) (x : Bay) : (s.setBay i x).pending = s.pending := rfl
@[simp] theorem State.setBay_clock (i : Nat) (x : Bay) : (s.setBay i x).clock = s.clock := rfl
@[simp] theorem State.setBay_dev (i : Nat) (x : Bay) : (s.setBay i x).dev = s.dev := rfl
@[simp] theorem State.setBay_fns (i : Nat) (x : Bay) : (s.setBay i x).fns = s.fns := rfl
@[simp] theorem State.setBay_parts (i : Nat) (x : Bay) : (s.setBay i x).parts = s.parts := rfl
@[simp] theorem State.setBay_trains (i : Nat) (x : Bay) : (s.setBay i x).trains = s.trains := rfl
@[simp] theorem State.setBay_presence (i : Nat) (x : Bay) : (s.setBay i x).presence = s.presence := rfl
@[simp] theorem State.setBay_ledger (i : Nat) (x : Bay) : (s.setBay i x).ledger = s.ledger := rfl
@[simp] theorem State.setBay_enginesOffline (i : Nat) (x : Bay) : (s.setBay i x).enginesOffline = s.enginesOffline := rfl
@[simp] theorem State.setBay_links (i : Nat) (x : Bay) : (s.setBay i x).links = s.links := rfl
@[simp] theorem State.setBay_consort (i : Nat) (x : Bay) : (s.setBay i x).consort = s.consort := rfl
@[simp] theorem State.setBay_board (i : Nat) (x : Bay) : (s.setBay i x).board = s.board := rfl
@[simp] theorem State.setBay_host (i : Nat) (x : Bay) : (s.setBay i x).host = s.host := rfl
@[simp] theorem State.setBay_out (i : Nat) (x : Bay) : (s.setBay i x).out = s.out := rfl

/-! modBay. -/

@[simp] theorem State.modBay_pending (i : Nat) (g : Bay → Bay) : (s.modBay i g).pending = s.pending := rfl
@[simp] theorem State.modBay_clock (i : Nat) (g : Bay → Bay) : (s.modBay i g).clock = s.clock := rfl
@[simp] theorem State.modBay_dev (i : Nat) (g : Bay → Bay) : (s.modBay i g).dev = s.dev := rfl
@[simp] theorem State.modBay_fns (i : Nat) (g : Bay → Bay) : (s.modBay i g).fns = s.fns := rfl
@[simp] theorem State.modBay_parts (i : Nat) (g : Bay → Bay) : (s.modBay i g).parts = s.parts := rfl
@[simp] theorem State.modBay_trains (i : Nat) (g : Bay → Bay) : (s.modBay i g).trains = s.trains := rfl
@[simp] theorem State.modBay_presence (i : Nat) (g : Bay → Bay) : (s.modBay i g).presence = s.presence := rfl
@[simp] theorem State.modBay_ledger (i : Nat) (g : Bay → Bay) : (s.modBay i g).ledger = s.ledger := rfl
@[simp] theorem State.modBay_enginesOffline (i : Nat) (g : Bay → Bay) : (s.modBay i g).enginesOffline = s.enginesOffline := rfl
@[simp] theorem State.modBay_links (i : Nat) (g : Bay → Bay) : (s.modBay i g).links = s.links := rfl
@[simp] theorem State.modBay_consort (i : Nat) (g : Bay → Bay) : (s.modBay i g).consort = s.consort := rfl
@[simp] theorem State.modBay_board (i : Nat) (g : Bay → Bay) : (s.modBay i g).board = s.board := rfl
@[simp] theorem State.modBay_host (i : Nat) (g : Bay → Bay) : (s.modBay i g).host = s.host := rfl
@[simp] theorem State.modBay_out (i : Nat) (g : Bay → Bay) : (s.modBay i g).out = s.out := rfl

/-! setLink. -/

@[simp] theorem State.setLink_pending (i : Nat) (x : Link) : (s.setLink i x).pending = s.pending := rfl
@[simp] theorem State.setLink_clock (i : Nat) (x : Link) : (s.setLink i x).clock = s.clock := rfl
@[simp] theorem State.setLink_dev (i : Nat) (x : Link) : (s.setLink i x).dev = s.dev := rfl
@[simp] theorem State.setLink_fns (i : Nat) (x : Link) : (s.setLink i x).fns = s.fns := rfl
@[simp] theorem State.setLink_parts (i : Nat) (x : Link) : (s.setLink i x).parts = s.parts := rfl
@[simp] theorem State.setLink_trains (i : Nat) (x : Link) : (s.setLink i x).trains = s.trains := rfl
@[simp] theorem State.setLink_presence (i : Nat) (x : Link) : (s.setLink i x).presence = s.presence := rfl
@[simp] theorem State.setLink_ledger (i : Nat) (x : Link) : (s.setLink i x).ledger = s.ledger := rfl
@[simp] theorem State.setLink_bays (i : Nat) (x : Link) : (s.setLink i x).bays = s.bays := rfl
@[simp] theorem State.setLink_enginesOffline (i : Nat) (x : Link) : (s.setLink i x).enginesOffline = s.enginesOffline := rfl
@[simp] theorem State.setLink_consort (i : Nat) (x : Link) : (s.setLink i x).consort = s.consort := rfl
@[simp] theorem State.setLink_board (i : Nat) (x : Link) : (s.setLink i x).board = s.board := rfl
@[simp] theorem State.setLink_host (i : Nat) (x : Link) : (s.setLink i x).host = s.host := rfl
@[simp] theorem State.setLink_out (i : Nat) (x : Link) : (s.setLink i x).out = s.out := rfl

/-! modLink. -/

@[simp] theorem State.modLink_pending (i : Nat) (g : Link → Link) : (s.modLink i g).pending = s.pending := rfl
@[simp] theorem State.modLink_clock (i : Nat) (g : Link → Link) : (s.modLink i g).clock = s.clock := rfl
@[simp] theorem State.modLink_dev (i : Nat) (g : Link → Link) : (s.modLink i g).dev = s.dev := rfl
@[simp] theorem State.modLink_fns (i : Nat) (g : Link → Link) : (s.modLink i g).fns = s.fns := rfl
@[simp] theorem State.modLink_parts (i : Nat) (g : Link → Link) : (s.modLink i g).parts = s.parts := rfl
@[simp] theorem State.modLink_trains (i : Nat) (g : Link → Link) : (s.modLink i g).trains = s.trains := rfl
@[simp] theorem State.modLink_presence (i : Nat) (g : Link → Link) : (s.modLink i g).presence = s.presence := rfl
@[simp] theorem State.modLink_ledger (i : Nat) (g : Link → Link) : (s.modLink i g).ledger = s.ledger := rfl
@[simp] theorem State.modLink_bays (i : Nat) (g : Link → Link) : (s.modLink i g).bays = s.bays := rfl
@[simp] theorem State.modLink_enginesOffline (i : Nat) (g : Link → Link) : (s.modLink i g).enginesOffline = s.enginesOffline := rfl
@[simp] theorem State.modLink_consort (i : Nat) (g : Link → Link) : (s.modLink i g).consort = s.consort := rfl
@[simp] theorem State.modLink_board (i : Nat) (g : Link → Link) : (s.modLink i g).board = s.board := rfl
@[simp] theorem State.modLink_host (i : Nat) (g : Link → Link) : (s.modLink i g).host = s.host := rfl
@[simp] theorem State.modLink_out (i : Nat) (g : Link → Link) : (s.modLink i g).out = s.out := rfl

/-! modDev. -/

@[simp] theorem State.modDev_pending (g : Device → Device) : (s.modDev g).pending = s.pending := rfl
@[simp] theorem State.modDev_clock (g : Device → Device) : (s.modDev g).clock = s.clock := rfl
@[simp] theorem State.modDev_fns (g : Device → Device) : (s.modDev g).fns = s.fns := rfl
@[simp] theorem State.modDev_parts (g : Device → Device) : (s.modDev g).parts = s.parts := rfl
@[simp] theorem State.modDev_trains (g : Device → Device) : (s.modDev g).trains = s.trains := rfl
@[simp] theorem State.modDev_presence (g : Device → Device) : (s.modDev g).presence = s.presence := rfl
@[simp] theorem State.modDev_ledger (g : Device → Device) : (s.modDev g).ledger = s.ledger := rfl
@[simp] theorem State.modDev_bays (g : Device → Device) : (s.modDev g).bays = s.bays := rfl
@[simp] theorem State.modDev_enginesOffline (g : Device → Device) : (s.modDev g).enginesOffline = s.enginesOffline := rfl
@[simp] theorem State.modDev_links (g : Device → Device) : (s.modDev g).links = s.links := rfl
@[simp] theorem State.modDev_consort (g : Device → Device) : (s.modDev g).consort = s.consort := rfl
@[simp] theorem State.modDev_board (g : Device → Device) : (s.modDev g).board = s.board := rfl
@[simp] theorem State.modDev_host (g : Device → Device) : (s.modDev g).host = s.host := rfl
@[simp] theorem State.modDev_out (g : Device → Device) : (s.modDev g).out = s.out := rfl

/-! modPresence. -/

@[simp] theorem State.modPresence_pending (g : Presence → Presence) : (s.modPresence g).pending = s.pending := rfl
@[simp] theorem State.modPresence_clock (g : Presence → Presence) : (s.modPresence g).clock = s.clock := rfl
@[simp] theorem State.modPresence_dev (g : Presence → Presence) : (s.modPresence g).dev = s.dev := rfl
@[simp] theorem State.modPresence_fns (g : Presence → Presence) : (s.modPresence g).fns = s.fns := rfl
@[simp] theorem State.modPresence_parts (g : Presence → Presence) : (s.modPresence g).parts = s.parts := rfl
@[simp] theorem State.modPresence_trains (g : Presence → Presence) : (s.modPresence g).trains = s.trains := rfl
@[simp] theorem State.modPresence_ledger (g : Presence → Presence) : (s.modPresence g).ledger = s.ledger := rfl
@[simp] theorem State.modPresence_bays (g : Presence → Presence) : (s.modPresence g).bays = s.bays := rfl
@[simp] theorem State.modPresence_enginesOffline (g : Presence → Presence) : (s.modPresence g).enginesOffline = s.enginesOffline := rfl
@[simp] theorem State.modPresence_links (g : Presence → Presence) : (s.modPresence g).links = s.links := rfl
@[simp] theorem State.modPresence_consort (g : Presence → Presence) : (s.modPresence g).consort = s.consort := rfl
@[simp] theorem State.modPresence_board (g : Presence → Presence) : (s.modPresence g).board = s.board := rfl
@[simp] theorem State.modPresence_host (g : Presence → Presence) : (s.modPresence g).host = s.host := rfl
@[simp] theorem State.modPresence_out (g : Presence → Presence) : (s.modPresence g).out = s.out := rfl

/-! modLedger. -/

@[simp] theorem State.modLedger_pending (g : Ledger → Ledger) : (s.modLedger g).pending = s.pending := rfl
@[simp] theorem State.modLedger_clock (g : Ledger → Ledger) : (s.modLedger g).clock = s.clock := rfl
@[simp] theorem State.modLedger_dev (g : Ledger → Ledger) : (s.modLedger g).dev = s.dev := rfl
@[simp] theorem State.modLedger_fns (g : Ledger → Ledger) : (s.modLedger g).fns = s.fns := rfl
@[simp] theorem State.modLedger_parts (g : Ledger → Ledger) : (s.modLedger g).parts = s.parts := rfl
@[simp] theorem State.modLedger_trains (g : Ledger → Ledger) : (s.modLedger g).trains = s.trains := rfl
@[simp] theorem State.modLedger_presence (g : Ledger → Ledger) : (s.modLedger g).presence = s.presence := rfl
@[simp] theorem State.modLedger_bays (g : Ledger → Ledger) : (s.modLedger g).bays = s.bays := rfl
@[simp] theorem State.modLedger_enginesOffline (g : Ledger → Ledger) : (s.modLedger g).enginesOffline = s.enginesOffline := rfl
@[simp] theorem State.modLedger_links (g : Ledger → Ledger) : (s.modLedger g).links = s.links := rfl
@[simp] theorem State.modLedger_consort (g : Ledger → Ledger) : (s.modLedger g).consort = s.consort := rfl
@[simp] theorem State.modLedger_board (g : Ledger → Ledger) : (s.modLedger g).board = s.board := rfl
@[simp] theorem State.modLedger_host (g : Ledger → Ledger) : (s.modLedger g).host = s.host := rfl
@[simp] theorem State.modLedger_out (g : Ledger → Ledger) : (s.modLedger g).out = s.out := rfl

/-! modConsort. -/

@[simp] theorem State.modConsort_pending (g : Consort → Consort) : (s.modConsort g).pending = s.pending := rfl
@[simp] theorem State.modConsort_clock (g : Consort → Consort) : (s.modConsort g).clock = s.clock := rfl
@[simp] theorem State.modConsort_dev (g : Consort → Consort) : (s.modConsort g).dev = s.dev := rfl
@[simp] theorem State.modConsort_fns (g : Consort → Consort) : (s.modConsort g).fns = s.fns := rfl
@[simp] theorem State.modConsort_parts (g : Consort → Consort) : (s.modConsort g).parts = s.parts := rfl
@[simp] theorem State.modConsort_trains (g : Consort → Consort) : (s.modConsort g).trains = s.trains := rfl
@[simp] theorem State.modConsort_presence (g : Consort → Consort) : (s.modConsort g).presence = s.presence := rfl
@[simp] theorem State.modConsort_ledger (g : Consort → Consort) : (s.modConsort g).ledger = s.ledger := rfl
@[simp] theorem State.modConsort_bays (g : Consort → Consort) : (s.modConsort g).bays = s.bays := rfl
@[simp] theorem State.modConsort_enginesOffline (g : Consort → Consort) : (s.modConsort g).enginesOffline = s.enginesOffline := rfl
@[simp] theorem State.modConsort_links (g : Consort → Consort) : (s.modConsort g).links = s.links := rfl
@[simp] theorem State.modConsort_board (g : Consort → Consort) : (s.modConsort g).board = s.board := rfl
@[simp] theorem State.modConsort_host (g : Consort → Consort) : (s.modConsort g).host = s.host := rfl
@[simp] theorem State.modConsort_out (g : Consort → Consort) : (s.modConsort g).out = s.out := rfl

/-! modBoard. -/

@[simp] theorem State.modBoard_pending (g : Board → Board) : (s.modBoard g).pending = s.pending := rfl
@[simp] theorem State.modBoard_clock (g : Board → Board) : (s.modBoard g).clock = s.clock := rfl
@[simp] theorem State.modBoard_dev (g : Board → Board) : (s.modBoard g).dev = s.dev := rfl
@[simp] theorem State.modBoard_fns (g : Board → Board) : (s.modBoard g).fns = s.fns := rfl
@[simp] theorem State.modBoard_parts (g : Board → Board) : (s.modBoard g).parts = s.parts := rfl
@[simp] theorem State.modBoard_trains (g : Board → Board) : (s.modBoard g).trains = s.trains := rfl
@[simp] theorem State.modBoard_presence (g : Board → Board) : (s.modBoard g).presence = s.presence := rfl
@[simp] theorem State.modBoard_ledger (g : Board → Board) : (s.modBoard g).ledger = s.ledger := rfl
@[simp] theorem State.modBoard_bays (g : Board → Board) : (s.modBoard g).bays = s.bays := rfl
@[simp] theorem State.modBoard_enginesOffline (g : Board → Board) : (s.modBoard g).enginesOffline = s.enginesOffline := rfl
@[simp] theorem State.modBoard_links (g : Board → Board) : (s.modBoard g).links = s.links := rfl
@[simp] theorem State.modBoard_consort (g : Board → Board) : (s.modBoard g).consort = s.consort := rfl
@[simp] theorem State.modBoard_host (g : Board → Board) : (s.modBoard g).host = s.host := rfl
@[simp] theorem State.modBoard_out (g : Board → Board) : (s.modBoard g).out = s.out := rfl

/-! modBank. -/

@[simp] theorem State.modBank_pending (i : Nat) (g : Bank → Bank) : (s.modBank i g).pending = s.pending := rfl
@[simp] theorem State.modBank_clock (i : Nat) (g : Bank → Bank) : (s.modBank i g).clock = s.clock := rfl
@[simp] theorem State.modBank_fns (i : Nat) (g : Bank → Bank) : (s.modBank i g).fns = s.fns := rfl
@[simp] theorem State.modBank_parts (i : Nat) (g : Bank → Bank) : (s.modBank i g).parts = s.parts := rfl
@[simp] theorem State.modBank_trains (i : Nat) (g : Bank → Bank) : (s.modBank i g).trains = s.trains := rfl
@[simp] theorem State.modBank_presence (i : Nat) (g : Bank → Bank) : (s.modBank i g).presence = s.presence := rfl
@[simp] theorem State.modBank_ledger (i : Nat) (g : Bank → Bank) : (s.modBank i g).ledger = s.ledger := rfl
@[simp] theorem State.modBank_bays (i : Nat) (g : Bank → Bank) : (s.modBank i g).bays = s.bays := rfl
@[simp] theorem State.modBank_enginesOffline (i : Nat) (g : Bank → Bank) : (s.modBank i g).enginesOffline = s.enginesOffline := rfl
@[simp] theorem State.modBank_links (i : Nat) (g : Bank → Bank) : (s.modBank i g).links = s.links := rfl
@[simp] theorem State.modBank_consort (i : Nat) (g : Bank → Bank) : (s.modBank i g).consort = s.consort := rfl
@[simp] theorem State.modBank_board (i : Nat) (g : Bank → Bank) : (s.modBank i g).board = s.board := rfl
@[simp] theorem State.modBank_host (i : Nat) (g : Bank → Bank) : (s.modBank i g).host = s.host := rfl
@[simp] theorem State.modBank_out (i : Nat) (g : Bank → Bank) : (s.modBank i g).out = s.out := rfl

/-! modRing. -/

@[simp] theorem State.modRing_pending (i : Nat) (b : Bool) (g : Ring → Ring) : (s.modRing i b g).pending = s.pending := rfl
@[simp] theorem State.modRing_clock (i : Nat) (b : Bool) (g : Ring → Ring) : (s.modRing i b g).clock = s.clock := rfl
@[simp] theorem State.modRing_dev (i : Nat) (b : Bool) (g : Ring → Ring) : (s.modRing i b g).dev = s.dev := rfl
@[simp] theorem State.modRing_parts (i : Nat) (b : Bool) (g : Ring → Ring) : (s.modRing i b g).parts = s.parts := rfl
@[simp] theorem State.modRing_trains (i : Nat) (b : Bool) (g : Ring → Ring) : (s.modRing i b g).trains = s.trains := rfl
@[simp] theorem State.modRing_presence (i : Nat) (b : Bool) (g : Ring → Ring) : (s.modRing i b g).presence = s.presence := rfl
@[simp] theorem State.modRing_ledger (i : Nat) (b : Bool) (g : Ring → Ring) : (s.modRing i b g).ledger = s.ledger := rfl
@[simp] theorem State.modRing_bays (i : Nat) (b : Bool) (g : Ring → Ring) : (s.modRing i b g).bays = s.bays := rfl
@[simp] theorem State.modRing_enginesOffline (i : Nat) (b : Bool) (g : Ring → Ring) : (s.modRing i b g).enginesOffline = s.enginesOffline := rfl
@[simp] theorem State.modRing_links (i : Nat) (b : Bool) (g : Ring → Ring) : (s.modRing i b g).links = s.links := rfl
@[simp] theorem State.modRing_consort (i : Nat) (b : Bool) (g : Ring → Ring) : (s.modRing i b g).consort = s.consort := rfl
@[simp] theorem State.modRing_board (i : Nat) (b : Bool) (g : Ring → Ring) : (s.modRing i b g).board = s.board := rfl
@[simp] theorem State.modRing_host (i : Nat) (b : Bool) (g : Ring → Ring) : (s.modRing i b g).host = s.host := rfl
@[simp] theorem State.modRing_out (i : Nat) (b : Bool) (g : Ring → Ring) : (s.modRing i b g).out = s.out := rfl

/-! hostWrite. -/

@[simp] theorem State.hostWrite_pending (f a : Nat) (bs : List Byte) : (s.hostWrite f a bs).pending = s.pending := rfl
@[simp] theorem State.hostWrite_clock (f a : Nat) (bs : List Byte) : (s.hostWrite f a bs).clock = s.clock := rfl
@[simp] theorem State.hostWrite_dev (f a : Nat) (bs : List Byte) : (s.hostWrite f a bs).dev = s.dev := rfl
@[simp] theorem State.hostWrite_fns (f a : Nat) (bs : List Byte) : (s.hostWrite f a bs).fns = s.fns := rfl
@[simp] theorem State.hostWrite_parts (f a : Nat) (bs : List Byte) : (s.hostWrite f a bs).parts = s.parts := rfl
@[simp] theorem State.hostWrite_trains (f a : Nat) (bs : List Byte) : (s.hostWrite f a bs).trains = s.trains := rfl
@[simp] theorem State.hostWrite_presence (f a : Nat) (bs : List Byte) : (s.hostWrite f a bs).presence = s.presence := rfl
@[simp] theorem State.hostWrite_ledger (f a : Nat) (bs : List Byte) : (s.hostWrite f a bs).ledger = s.ledger := rfl
@[simp] theorem State.hostWrite_bays (f a : Nat) (bs : List Byte) : (s.hostWrite f a bs).bays = s.bays := rfl
@[simp] theorem State.hostWrite_enginesOffline (f a : Nat) (bs : List Byte) : (s.hostWrite f a bs).enginesOffline = s.enginesOffline := rfl
@[simp] theorem State.hostWrite_links (f a : Nat) (bs : List Byte) : (s.hostWrite f a bs).links = s.links := rfl
@[simp] theorem State.hostWrite_consort (f a : Nat) (bs : List Byte) : (s.hostWrite f a bs).consort = s.consort := rfl
@[simp] theorem State.hostWrite_board (f a : Nat) (bs : List Byte) : (s.hostWrite f a bs).board = s.board := rfl
@[simp] theorem State.hostWrite_out (f a : Nat) (bs : List Byte) : (s.hostWrite f a bs).out = s.out := rfl

/-! hostStores. -/

@[simp] theorem State.hostStores_pending (f : Nat) (cs : List Host.Cell) : (s.hostStores f cs).pending = s.pending := rfl
@[simp] theorem State.hostStores_clock (f : Nat) (cs : List Host.Cell) : (s.hostStores f cs).clock = s.clock := rfl
@[simp] theorem State.hostStores_dev (f : Nat) (cs : List Host.Cell) : (s.hostStores f cs).dev = s.dev := rfl
@[simp] theorem State.hostStores_fns (f : Nat) (cs : List Host.Cell) : (s.hostStores f cs).fns = s.fns := rfl
@[simp] theorem State.hostStores_parts (f : Nat) (cs : List Host.Cell) : (s.hostStores f cs).parts = s.parts := rfl
@[simp] theorem State.hostStores_trains (f : Nat) (cs : List Host.Cell) : (s.hostStores f cs).trains = s.trains := rfl
@[simp] theorem State.hostStores_presence (f : Nat) (cs : List Host.Cell) : (s.hostStores f cs).presence = s.presence := rfl
@[simp] theorem State.hostStores_ledger (f : Nat) (cs : List Host.Cell) : (s.hostStores f cs).ledger = s.ledger := rfl
@[simp] theorem State.hostStores_bays (f : Nat) (cs : List Host.Cell) : (s.hostStores f cs).bays = s.bays := rfl
@[simp] theorem State.hostStores_enginesOffline (f : Nat) (cs : List Host.Cell) : (s.hostStores f cs).enginesOffline = s.enginesOffline := rfl
@[simp] theorem State.hostStores_links (f : Nat) (cs : List Host.Cell) : (s.hostStores f cs).links = s.links := rfl
@[simp] theorem State.hostStores_consort (f : Nat) (cs : List Host.Cell) : (s.hostStores f cs).consort = s.consort := rfl
@[simp] theorem State.hostStores_board (f : Nat) (cs : List Host.Cell) : (s.hostStores f cs).board = s.board := rfl
@[simp] theorem State.hostStores_out (f : Nat) (cs : List Host.Cell) : (s.hostStores f cs).out = s.out := rfl

/-! Reading back. -/

theorem getD_set_self {α : Type} (xs : List α) (i : Nat) (x d : α) (h : i < xs.length) : (xs.set i x).getD i d = x := by
  simp [List.getD_eq_getElem?_getD, h]

theorem getD_set_other {α : Type} (xs : List α) (i j : Nat) (x d : α) (h : j ≠ i) : (xs.set i x).getD j d = xs.getD j d := by
  simp [List.getD_eq_getElem?_getD, List.getElem?_set_ne (Ne.symm h)]

theorem State.fn_setFn (i : Nat) (x : Function) (h : i < s.fns.length) : (s.setFn i x).fn i = x := getD_set_self _ _ _ _ h
theorem State.fn_setFn_other (i j : Nat) (x : Function) (h : j ≠ i) : (s.setFn i x).fn j = s.fn j := getD_set_other _ _ _ _ _ h
theorem State.fn_modFn (i : Nat) (g : Function → Function) (h : i < s.fns.length) : (s.modFn i g).fn i = g (s.fn i) := getD_set_self _ _ _ _ h
theorem State.fn_modFn_other (i j : Nat) (g : Function → Function) (h : j ≠ i) : (s.modFn i g).fn j = s.fn j := getD_set_other _ _ _ _ _ h
theorem State.part_setPart (i : Nat) (x : Part) (h : i < s.parts.length) : (s.setPart i x).part i = x := getD_set_self _ _ _ _ h
theorem State.part_setPart_other (i j : Nat) (x : Part) (h : j ≠ i) : (s.setPart i x).part j = s.part j := getD_set_other _ _ _ _ _ h
theorem State.part_modPart (i : Nat) (g : Part → Part) (h : i < s.parts.length) : (s.modPart i g).part i = g (s.part i) := getD_set_self _ _ _ _ h
theorem State.part_modPart_other (i j : Nat) (g : Part → Part) (h : j ≠ i) : (s.modPart i g).part j = s.part j := getD_set_other _ _ _ _ _ h
theorem State.train_setTrain (i : Nat) (x : Train) (h : i < s.trains.length) : (s.setTrain i x).train i = x := getD_set_self _ _ _ _ h
theorem State.train_setTrain_other (i j : Nat) (x : Train) (h : j ≠ i) : (s.setTrain i x).train j = s.train j := getD_set_other _ _ _ _ _ h
theorem State.train_modTrain (i : Nat) (g : Train → Train) (h : i < s.trains.length) : (s.modTrain i g).train i = g (s.train i) := getD_set_self _ _ _ _ h
theorem State.train_modTrain_other (i j : Nat) (g : Train → Train) (h : j ≠ i) : (s.modTrain i g).train j = s.train j := getD_set_other _ _ _ _ _ h
theorem State.bay_setBay (i : Nat) (x : Bay) (h : i < s.bays.length) : (s.setBay i x).bay i = x := getD_set_self _ _ _ _ h
theorem State.bay_setBay_other (i j : Nat) (x : Bay) (h : j ≠ i) : (s.setBay i x).bay j = s.bay j := getD_set_other _ _ _ _ _ h
theorem State.bay_modBay (i : Nat) (g : Bay → Bay) (h : i < s.bays.length) : (s.modBay i g).bay i = g (s.bay i) := getD_set_self _ _ _ _ h
theorem State.bay_modBay_other (i j : Nat) (g : Bay → Bay) (h : j ≠ i) : (s.modBay i g).bay j = s.bay j := getD_set_other _ _ _ _ _ h
theorem State.link_setLink (i : Nat) (x : Link) (h : i < s.links.length) : (s.setLink i x).link i = x := getD_set_self _ _ _ _ h
theorem State.link_setLink_other (i j : Nat) (x : Link) (h : j ≠ i) : (s.setLink i x).link j = s.link j := getD_set_other _ _ _ _ _ h
theorem State.link_modLink (i : Nat) (g : Link → Link) (h : i < s.links.length) : (s.modLink i g).link i = g (s.link i) := getD_set_self _ _ _ _ h
theorem State.link_modLink_other (i j : Nat) (g : Link → Link) (h : j ≠ i) : (s.modLink i g).link j = s.link j := getD_set_other _ _ _ _ _ h
@[simp] theorem State.setFn_part_at (i : Nat) (x : Function) (k : Nat) : (s.setFn i x).part k = s.part k := rfl
@[simp] theorem State.setFn_train_at (i : Nat) (x : Function) (k : Nat) : (s.setFn i x).train k = s.train k := rfl
@[simp] theorem State.setFn_bay_at (i : Nat) (x : Function) (k : Nat) : (s.setFn i x).bay k = s.bay k := rfl
@[simp] theorem State.setFn_link_at (i : Nat) (x : Function) (k : Nat) : (s.setFn i x).link k = s.link k := rfl
@[simp] theorem State.modFn_part_at (i : Nat) (g : Function → Function) (k : Nat) : (s.modFn i g).part k = s.part k := rfl
@[simp] theorem State.modFn_train_at (i : Nat) (g : Function → Function) (k : Nat) : (s.modFn i g).train k = s.train k := rfl
@[simp] theorem State.modFn_bay_at (i : Nat) (g : Function → Function) (k : Nat) : (s.modFn i g).bay k = s.bay k := rfl
@[simp] theorem State.modFn_link_at (i : Nat) (g : Function → Function) (k : Nat) : (s.modFn i g).link k = s.link k := rfl
@[simp] theorem State.setPart_fn_at (i : Nat) (x : Part) (k : Nat) : (s.setPart i x).fn k = s.fn k := rfl
@[simp] theorem State.setPart_train_at (i : Nat) (x : Part) (k : Nat) : (s.setPart i x).train k = s.train k := rfl
@[simp] theorem State.setPart_bay_at (i : Nat) (x : Part) (k : Nat) : (s.setPart i x).bay k = s.bay k := rfl
@[simp] theorem State.setPart_link_at (i : Nat) (x : Part) (k : Nat) : (s.setPart i x).link k = s.link k := rfl
@[simp] theorem State.modPart_fn_at (i : Nat) (g : Part → Part) (k : Nat) : (s.modPart i g).fn k = s.fn k := rfl
@[simp] theorem State.modPart_train_at (i : Nat) (g : Part → Part) (k : Nat) : (s.modPart i g).train k = s.train k := rfl
@[simp] theorem State.modPart_bay_at (i : Nat) (g : Part → Part) (k : Nat) : (s.modPart i g).bay k = s.bay k := rfl
@[simp] theorem State.modPart_link_at (i : Nat) (g : Part → Part) (k : Nat) : (s.modPart i g).link k = s.link k := rfl
@[simp] theorem State.modCore_fn_at (i : Nat) (g : Core → Core) (k : Nat) : (s.modCore i g).fn k = s.fn k := rfl
@[simp] theorem State.modCore_train_at (i : Nat) (g : Core → Core) (k : Nat) : (s.modCore i g).train k = s.train k := rfl
@[simp] theorem State.modCore_bay_at (i : Nat) (g : Core → Core) (k : Nat) : (s.modCore i g).bay k = s.bay k := rfl
@[simp] theorem State.modCore_link_at (i : Nat) (g : Core → Core) (k : Nat) : (s.modCore i g).link k = s.link k := rfl
@[simp] theorem State.setTrain_fn_at (i : Nat) (x : Train) (k : Nat) : (s.setTrain i x).fn k = s.fn k := rfl
@[simp] theorem State.setTrain_part_at (i : Nat) (x : Train) (k : Nat) : (s.setTrain i x).part k = s.part k := rfl
@[simp] theorem State.setTrain_bay_at (i : Nat) (x : Train) (k : Nat) : (s.setTrain i x).bay k = s.bay k := rfl
@[simp] theorem State.setTrain_link_at (i : Nat) (x : Train) (k : Nat) : (s.setTrain i x).link k = s.link k := rfl
@[simp] theorem State.modTrain_fn_at (i : Nat) (g : Train → Train) (k : Nat) : (s.modTrain i g).fn k = s.fn k := rfl
@[simp] theorem State.modTrain_part_at (i : Nat) (g : Train → Train) (k : Nat) : (s.modTrain i g).part k = s.part k := rfl
@[simp] theorem State.modTrain_bay_at (i : Nat) (g : Train → Train) (k : Nat) : (s.modTrain i g).bay k = s.bay k := rfl
@[simp] theorem State.modTrain_link_at (i : Nat) (g : Train → Train) (k : Nat) : (s.modTrain i g).link k = s.link k := rfl
@[simp] theorem State.modWork_fn_at (i j : Nat) (g : Work → Work) (k : Nat) : (s.modWork i j g).fn k = s.fn k := rfl
@[simp] theorem State.modWork_part_at (i j : Nat) (g : Work → Work) (k : Nat) : (s.modWork i j g).part k = s.part k := rfl
@[simp] theorem State.modWork_bay_at (i j : Nat) (g : Work → Work) (k : Nat) : (s.modWork i j g).bay k = s.bay k := rfl
@[simp] theorem State.modWork_link_at (i j : Nat) (g : Work → Work) (k : Nat) : (s.modWork i j g).link k = s.link k := rfl
@[simp] theorem State.modObjects_fn_at (i : Nat) (g : Objects → Objects) (k : Nat) : (s.modObjects i g).fn k = s.fn k := rfl
@[simp] theorem State.modObjects_part_at (i : Nat) (g : Objects → Objects) (k : Nat) : (s.modObjects i g).part k = s.part k := rfl
@[simp] theorem State.modObjects_bay_at (i : Nat) (g : Objects → Objects) (k : Nat) : (s.modObjects i g).bay k = s.bay k := rfl
@[simp] theorem State.modObjects_link_at (i : Nat) (g : Objects → Objects) (k : Nat) : (s.modObjects i g).link k = s.link k := rfl
@[simp] theorem State.setBay_fn_at (i : Nat) (x : Bay) (k : Nat) : (s.setBay i x).fn k = s.fn k := rfl
@[simp] theorem State.setBay_part_at (i : Nat) (x : Bay) (k : Nat) : (s.setBay i x).part k = s.part k := rfl
@[simp] theorem State.setBay_train_at (i : Nat) (x : Bay) (k : Nat) : (s.setBay i x).train k = s.train k := rfl
@[simp] theorem State.setBay_link_at (i : Nat) (x : Bay) (k : Nat) : (s.setBay i x).link k = s.link k := rfl
@[simp] theorem State.modBay_fn_at (i : Nat) (g : Bay → Bay) (k : Nat) : (s.modBay i g).fn k = s.fn k := rfl
@[simp] theorem State.modBay_part_at (i : Nat) (g : Bay → Bay) (k : Nat) : (s.modBay i g).part k = s.part k := rfl
@[simp] theorem State.modBay_train_at (i : Nat) (g : Bay → Bay) (k : Nat) : (s.modBay i g).train k = s.train k := rfl
@[simp] theorem State.modBay_link_at (i : Nat) (g : Bay → Bay) (k : Nat) : (s.modBay i g).link k = s.link k := rfl
@[simp] theorem State.setLink_fn_at (i : Nat) (x : Link) (k : Nat) : (s.setLink i x).fn k = s.fn k := rfl
@[simp] theorem State.setLink_part_at (i : Nat) (x : Link) (k : Nat) : (s.setLink i x).part k = s.part k := rfl
@[simp] theorem State.setLink_train_at (i : Nat) (x : Link) (k : Nat) : (s.setLink i x).train k = s.train k := rfl
@[simp] theorem State.setLink_bay_at (i : Nat) (x : Link) (k : Nat) : (s.setLink i x).bay k = s.bay k := rfl
@[simp] theorem State.modLink_fn_at (i : Nat) (g : Link → Link) (k : Nat) : (s.modLink i g).fn k = s.fn k := rfl
@[simp] theorem State.modLink_part_at (i : Nat) (g : Link → Link) (k : Nat) : (s.modLink i g).part k = s.part k := rfl
@[simp] theorem State.modLink_train_at (i : Nat) (g : Link → Link) (k : Nat) : (s.modLink i g).train k = s.train k := rfl
@[simp] theorem State.modLink_bay_at (i : Nat) (g : Link → Link) (k : Nat) : (s.modLink i g).bay k = s.bay k := rfl
@[simp] theorem State.modDev_fn_at (g : Device → Device) (k : Nat) : (s.modDev g).fn k = s.fn k := rfl
@[simp] theorem State.modDev_part_at (g : Device → Device) (k : Nat) : (s.modDev g).part k = s.part k := rfl
@[simp] theorem State.modDev_train_at (g : Device → Device) (k : Nat) : (s.modDev g).train k = s.train k := rfl
@[simp] theorem State.modDev_bay_at (g : Device → Device) (k : Nat) : (s.modDev g).bay k = s.bay k := rfl
@[simp] theorem State.modDev_link_at (g : Device → Device) (k : Nat) : (s.modDev g).link k = s.link k := rfl
@[simp] theorem State.modPresence_fn_at (g : Presence → Presence) (k : Nat) : (s.modPresence g).fn k = s.fn k := rfl
@[simp] theorem State.modPresence_part_at (g : Presence → Presence) (k : Nat) : (s.modPresence g).part k = s.part k := rfl
@[simp] theorem State.modPresence_train_at (g : Presence → Presence) (k : Nat) : (s.modPresence g).train k = s.train k := rfl
@[simp] theorem State.modPresence_bay_at (g : Presence → Presence) (k : Nat) : (s.modPresence g).bay k = s.bay k := rfl
@[simp] theorem State.modPresence_link_at (g : Presence → Presence) (k : Nat) : (s.modPresence g).link k = s.link k := rfl
@[simp] theorem State.modLedger_fn_at (g : Ledger → Ledger) (k : Nat) : (s.modLedger g).fn k = s.fn k := rfl
@[simp] theorem State.modLedger_part_at (g : Ledger → Ledger) (k : Nat) : (s.modLedger g).part k = s.part k := rfl
@[simp] theorem State.modLedger_train_at (g : Ledger → Ledger) (k : Nat) : (s.modLedger g).train k = s.train k := rfl
@[simp] theorem State.modLedger_bay_at (g : Ledger → Ledger) (k : Nat) : (s.modLedger g).bay k = s.bay k := rfl
@[simp] theorem State.modLedger_link_at (g : Ledger → Ledger) (k : Nat) : (s.modLedger g).link k = s.link k := rfl
@[simp] theorem State.modConsort_fn_at (g : Consort → Consort) (k : Nat) : (s.modConsort g).fn k = s.fn k := rfl
@[simp] theorem State.modConsort_part_at (g : Consort → Consort) (k : Nat) : (s.modConsort g).part k = s.part k := rfl
@[simp] theorem State.modConsort_train_at (g : Consort → Consort) (k : Nat) : (s.modConsort g).train k = s.train k := rfl
@[simp] theorem State.modConsort_bay_at (g : Consort → Consort) (k : Nat) : (s.modConsort g).bay k = s.bay k := rfl
@[simp] theorem State.modConsort_link_at (g : Consort → Consort) (k : Nat) : (s.modConsort g).link k = s.link k := rfl
@[simp] theorem State.modBoard_fn_at (g : Board → Board) (k : Nat) : (s.modBoard g).fn k = s.fn k := rfl
@[simp] theorem State.modBoard_part_at (g : Board → Board) (k : Nat) : (s.modBoard g).part k = s.part k := rfl
@[simp] theorem State.modBoard_train_at (g : Board → Board) (k : Nat) : (s.modBoard g).train k = s.train k := rfl
@[simp] theorem State.modBoard_bay_at (g : Board → Board) (k : Nat) : (s.modBoard g).bay k = s.bay k := rfl
@[simp] theorem State.modBoard_link_at (g : Board → Board) (k : Nat) : (s.modBoard g).link k = s.link k := rfl
@[simp] theorem State.modBank_fn_at (i : Nat) (g : Bank → Bank) (k : Nat) : (s.modBank i g).fn k = s.fn k := rfl
@[simp] theorem State.modBank_part_at (i : Nat) (g : Bank → Bank) (k : Nat) : (s.modBank i g).part k = s.part k := rfl
@[simp] theorem State.modBank_train_at (i : Nat) (g : Bank → Bank) (k : Nat) : (s.modBank i g).train k = s.train k := rfl
@[simp] theorem State.modBank_bay_at (i : Nat) (g : Bank → Bank) (k : Nat) : (s.modBank i g).bay k = s.bay k := rfl
@[simp] theorem State.modBank_link_at (i : Nat) (g : Bank → Bank) (k : Nat) : (s.modBank i g).link k = s.link k := rfl
@[simp] theorem State.modRing_part_at (i : Nat) (b : Bool) (g : Ring → Ring) (k : Nat) : (s.modRing i b g).part k = s.part k := rfl
@[simp] theorem State.modRing_train_at (i : Nat) (b : Bool) (g : Ring → Ring) (k : Nat) : (s.modRing i b g).train k = s.train k := rfl
@[simp] theorem State.modRing_bay_at (i : Nat) (b : Bool) (g : Ring → Ring) (k : Nat) : (s.modRing i b g).bay k = s.bay k := rfl
@[simp] theorem State.modRing_link_at (i : Nat) (b : Bool) (g : Ring → Ring) (k : Nat) : (s.modRing i b g).link k = s.link k := rfl
@[simp] theorem State.hostWrite_fn_at (f a : Nat) (bs : List Byte) (k : Nat) : (s.hostWrite f a bs).fn k = s.fn k := rfl
@[simp] theorem State.hostWrite_part_at (f a : Nat) (bs : List Byte) (k : Nat) : (s.hostWrite f a bs).part k = s.part k := rfl
@[simp] theorem State.hostWrite_train_at (f a : Nat) (bs : List Byte) (k : Nat) : (s.hostWrite f a bs).train k = s.train k := rfl
@[simp] theorem State.hostWrite_bay_at (f a : Nat) (bs : List Byte) (k : Nat) : (s.hostWrite f a bs).bay k = s.bay k := rfl
@[simp] theorem State.hostWrite_link_at (f a : Nat) (bs : List Byte) (k : Nat) : (s.hostWrite f a bs).link k = s.link k := rfl
@[simp] theorem State.hostStores_fn_at (f : Nat) (cs : List Host.Cell) (k : Nat) : (s.hostStores f cs).fn k = s.fn k := rfl
@[simp] theorem State.hostStores_part_at (f : Nat) (cs : List Host.Cell) (k : Nat) : (s.hostStores f cs).part k = s.part k := rfl
@[simp] theorem State.hostStores_train_at (f : Nat) (cs : List Host.Cell) (k : Nat) : (s.hostStores f cs).train k = s.train k := rfl
@[simp] theorem State.hostStores_bay_at (f : Nat) (cs : List Host.Cell) (k : Nat) : (s.hostStores f cs).bay k = s.bay k := rfl
@[simp] theorem State.hostStores_link_at (f : Nat) (cs : List Host.Cell) (k : Nat) : (s.hostStores f cs).link k = s.link k := rfl

end Sys2Proof.Machine
end

