-- ==== Sys2Proof/Laws/Events.lean ====
section
/-! SUPPORT. What raising an event does: the event queues, their vectors, host memory, messages and ALERT# may change, and
nothing else. Rings without unread packets check nothing. -/

namespace Sys2Proof.Machine

theorem OnlyEvents.refl (s : State) : OnlyEvents s s := ⟨rfl, fun _ => rfl⟩

theorem OnlyEvents.trans {s t u : State} (h : OnlyEvents s t) (k : OnlyEvents t u) : OnlyEvents s u := by
  refine ⟨?_, fun f => ?_⟩
  · rw [k.rest, h.rest]
  · rw [k.fn f, h.fn f]

theorem State.fn_modFn_any (s : State) (i : Nat) (g : Function → Function) (f : Nat) :
    (s.modFn i g).fn f = s.fn f ∨ (s.modFn i g).fn f = g (s.fn f) := by
  by_cases h : f = i
  · subst h
    by_cases hl : f < s.fns.length
    · exact .inr (s.fn_modFn f g hl)
    · exact .inl (by simp [State.fn, State.modFn, State.setFn, List.getD_eq_getElem?_getD, Nat.le_of_not_lt hl])
  · exact .inl (s.fn_modFn_other i f g h)

theorem State.modFn_onlyEvents (s : State) (i : Nat) (g : Function → Function)
    (hg : ∀ f, g f = { f with events := (g f).events, pendingBits := (g f).pendingBits }) : OnlyEvents s (s.modFn i g) := by
  refine ⟨rfl, fun f => ?_⟩
  rcases s.fn_modFn_any i g f with h | h
  · rw [h]
  · rw [h]; exact hg _

theorem State.hostWrite_onlyEvents (s : State) (fn a : Nat) (bs : List Byte) : OnlyEvents s (s.hostWrite fn a bs) :=
  ⟨rfl, fun _ => rfl⟩

theorem State.signal_onlyEvents (s : State) (fn vec : Nat) : OnlyEvents s (s.signal fn vec) := by
  unfold State.signal
  dsimp only
  split
  · exact s.modFn_onlyEvents fn (fun f => { f with
      pendingBits := if f.pendingBits.contains vec then f.pendingBits else vec :: f.pendingBits }) (fun _ => rfl)
  · exact ⟨rfl, fun _ => rfl⟩

theorem State.signalEvents_onlyEvents (s : State) (fn : Nat) : OnlyEvents s (s.signalEvents fn) := by
  unfold State.signalEvents
  dsimp only
  split
  · split
    · exact s.modFn_onlyEvents fn _ (fun _ => rfl)
    · exact (s.modFn_onlyEvents fn _ (fun _ => rfl)).trans (State.signal_onlyEvents _ _ _)
  · exact (s.modFn_onlyEvents fn _ (fun _ => rfl)).trans (State.signal_onlyEvents _ _ _)

theorem State.announce_onlyEvents (s : State) (fn tail : Nat) : OnlyEvents s (s.announce fn tail) := by
  unfold State.announce
  split
  · exact .refl s
  · exact s.signalEvents_onlyEvents fn

theorem State.writeEvent_onlyEvents (s : State) (fn seq : Nat) (e : Event) : OnlyEvents s (s.writeEvent fn seq e) := by
  unfold State.writeEvent
  extract_lets q t u v
  have hv : OnlyEvents s v := (s.hostWrite_onlyEvents _ _ _).trans (State.modFn_onlyEvents _ _ _ (fun _ => rfl))
  split
  · exact hv.trans (State.signal_onlyEvents _ _ _)
  · exact hv

theorem State.flushLost_onlyEvents (s : State) (fn : Nat) : OnlyEvents s (s.flushLost fn) := by
  unfold State.flushLost
  dsimp only
  split
  · exact (s.modFn_onlyEvents fn _ (fun _ => rfl)).trans (State.writeEvent_onlyEvents _ _ _ _)
  · exact .refl s

theorem State.receive_onlyEvents (s : State) (fn : Nat) (e : Event) : OnlyEvents s (s.receive fn e) := by
  have put (u : State) (q : EventQueue) : OnlyEvents u (u.modFn fn (fun f => { f with events := q })) :=
    u.modFn_onlyEvents fn _ (fun _ => rfl)
  unfold State.receive
  dsimp only
  generalize (s.fn fn).events = q
  generalize (if e.severity = 3 then _ else q : EventQueue) = q0
  split
  · (repeat' split) <;> exact put s _
  · split
    · exact put s _
    · split
      · exact ((put s _).trans ((State.flushLost_onlyEvents _ _).trans (put _ _))).trans (State.announce_onlyEvents _ _ _)
      · exact (((put s _).trans ((State.flushLost_onlyEvents _ _).trans (put _ _))).trans
          (State.writeEvent_onlyEvents _ _ _ _)).trans (State.announce_onlyEvents _ _ _)

theorem State.raise_onlyEvents (s : State) (fn : Nat) (e : Event) : OnlyEvents s (s.raise fn e) := by
  unfold State.raise
  extract_lets u b v
  have hv : OnlyEvents s v := by
    dsimp only [v]
    split
    · exact (s.receive_onlyEvents fn e).trans ⟨rfl, fun _ => rfl⟩
    · exact s.receive_onlyEvents fn e
  split
  · exact hv.trans (State.receive_onlyEvents _ _ _)
  · exact hv

theorem State.raiseD_onlyEvents (s : State) (c v u f : Nat) (p : List Byte) : OnlyEvents s (s.raiseD c v u f p) :=
  s.raise_onlyEvents _ _

theorem State.raiseO_onlyEvents (s : State) (c v p k u f : Nat) (b : List Byte) : OnlyEvents s (s.raiseO c v p k u f b) :=
  s.raise_onlyEvents _ _

theorem State.raiseL_onlyEvents (s : State) (t c v k u f : Nat) (b : List Byte) : OnlyEvents s (s.raiseL t c v k u f b) := by
  unfold State.raiseL
  split
  · exact .refl s
  · exact s.raise_onlyEvents _ _

theorem State.raiseF_onlyEvents (s : State) (g c v f : Nat) (b : List Byte) : OnlyEvents s (s.raiseF g c v f b) :=
  s.raise_onlyEvents _ _

theorem State.ringsEmpty_of_onlyEvents {s t : State} (h : OnlyEvents s t) : t.ringsEmpty = s.ringsEmpty := by
  unfold State.ringsEmpty
  congr 1
  funext f
  rw [h.fn f]

theorem State.drainRing_empty (n : Nat) (s : State) (fn : Nat) (bulk : Bool) (h : (s.ring fn bulk).head = (s.ring fn bulk).tail) :
    State.drainRing n s fn bulk = s := by
  cases n with
  | zero => rfl
  | succ n => simp [State.drainRing, h]

theorem State.checkRings_empty (s : State) (h : s.ringsEmpty = true) : s.checkRings = s := by
  have key : ∀ xs : List Nat, (∀ f ∈ xs, (s.fn f).urgent.head = (s.fn f).urgent.tail ∧ (s.fn f).bulk.head = (s.fn f).bulk.tail) →
      xs.foldl (fun s fn => State.drainRing 4096 (State.drainRing 4096 s fn false) fn true) s = s := by
    intro xs hx
    induction xs with
    | nil => rfl
    | cons x xs ih =>
      obtain ⟨h1, h2⟩ := hx x List.mem_cons_self
      rw [List.foldl_cons, State.drainRing_empty 4096 s x false (by simpa [State.ring] using h1),
        State.drainRing_empty 4096 s x true (by simpa [State.ring] using h2)]
      exact ih (fun f hf => hx f (List.mem_cons_of_mem _ hf))
  refine key _ (fun f hf => ?_)
  have := List.all_eq_true.1 h f hf
  simpa using this

end Sys2Proof.Machine
end

