-- ==== Sys2Proof/Laws/Frames.lean ====
section
/-! SUPPORT. What raising an event and staging a record leave alone, said once. -/

namespace Sys2Proof.Machine

/-! The fields that events leave alone. -/

section
variable {s t : State} (h : OnlyEvents s t)
include h
theorem OnlyEvents.pending : t.pending = s.pending := by rw [h.rest]
theorem OnlyEvents.clock : t.clock = s.clock := by rw [h.rest]
theorem OnlyEvents.dev : t.dev = s.dev := by rw [h.rest]
theorem OnlyEvents.parts : t.parts = s.parts := by rw [h.rest]
theorem OnlyEvents.trains : t.trains = s.trains := by rw [h.rest]
theorem OnlyEvents.presence : t.presence = s.presence := by rw [h.rest]
theorem OnlyEvents.ledger : t.ledger = s.ledger := by rw [h.rest]
theorem OnlyEvents.bays : t.bays = s.bays := by rw [h.rest]
theorem OnlyEvents.enginesOffline : t.enginesOffline = s.enginesOffline := by rw [h.rest]
theorem OnlyEvents.links : t.links = s.links := by rw [h.rest]
theorem OnlyEvents.consort : t.consort = s.consort := by rw [h.rest]
end

/-- Events over a state with another presence, board or ledger: the frame a statement writes. -/
theorem OnlyEvents.withPresence {s t : State} {p : Presence} (h : OnlyEvents { s with presence := p } t) :
    t.presence = p ∧ OnlyEvents { s with presence := t.presence } t := by
  have e : t.presence = p := h.presence
  exact ⟨e, by rw [e]; exact h⟩

/-! Records. -/

theorem OnlyRecords.refl (s : State) : OnlyRecords s s := ⟨rfl, fun _ => rfl⟩

theorem OnlyRecords.trans {s t u : State} (h : OnlyRecords s t) (k : OnlyRecords t u) : OnlyRecords s u := by
  refine ⟨?_, fun f => ?_⟩
  · rw [k.rest, h.rest]
  · rw [k.fn f, h.fn f]

theorem OnlyEvents.records {s t : State} (h : OnlyEvents s t) : OnlyRecords s t := by
  refine ⟨?_, h.fn⟩
  rw [h.rest]

theorem OnlyEvents.afterLedger {s t : State} {l : Ledger} (h : OnlyEvents { s with ledger := l } t) : OnlyRecords s t := by
  refine ⟨?_, fun f => by rw [h.fn f]; rfl⟩
  rw [h.rest]

section
variable {s t : State} (h : OnlyRecords s t)
include h
theorem OnlyRecords.pending : t.pending = s.pending := by rw [h.rest]
theorem OnlyRecords.clock : t.clock = s.clock := by rw [h.rest]
theorem OnlyRecords.dev : t.dev = s.dev := by rw [h.rest]
theorem OnlyRecords.parts : t.parts = s.parts := by rw [h.rest]
theorem OnlyRecords.trains : t.trains = s.trains := by rw [h.rest]
theorem OnlyRecords.presence : t.presence = s.presence := by rw [h.rest]
theorem OnlyRecords.bays : t.bays = s.bays := by rw [h.rest]
theorem OnlyRecords.enginesOffline : t.enginesOffline = s.enginesOffline := by rw [h.rest]
theorem OnlyRecords.links : t.links = s.links := by rw [h.rest]
theorem OnlyRecords.consort : t.consort = s.consort := by rw [h.rest]
end

theorem State.modLedger_onlyRecords (s : State) (g : Ledger → Ledger) : OnlyRecords s (s.modLedger g) := ⟨rfl, fun _ => rfl⟩

theorem State.setHold_onlyRecords (s : State) (r : Nat) : OnlyRecords s (s.setHold r) := by
  have a : OnlyRecords s ((s.modLedger (fun l => { l with hold := r })).lightAlarm) := by
    unfold State.lightAlarm; exact ⟨rfl, fun _ => rfl⟩
  unfold State.setHold
  dsimp only
  split
  · exact a.trans (State.raiseD_onlyEvents _ _ _ _ _ _).records
  · split
    · exact a.trans (State.raiseD_onlyEvents _ _ _ _ _ _).records
    · exact a

theorem State.notePressure_onlyRecords (s : State) : OnlyRecords s s.notePressure := by
  unfold State.notePressure
  dsimp only
  split
  · exact .refl _
  · split
    · exact (s.modLedger_onlyRecords _).trans (State.raiseD_onlyEvents _ _ _ _ _ _).records
    · split
      · exact s.modLedger_onlyRecords _
      · exact .refl _

theorem State.closeWith_onlyRecords (s : State) (fl : Nat) (b : Option Nat) (t k : Nat) (i : List Byte) :
    OnlyRecords s (s.closeWith fl b t k i) := by
  unfold State.closeWith
  dsimp only
  split
  · exact .refl _
  · exact s.modLedger_onlyRecords _

theorem State.closeFolio_onlyRecords (s : State) (fl : Nat) (b : Option Nat) : OnlyRecords s (s.closeFolio fl b) :=
  s.closeWith_onlyRecords _ _ _ _ _

theorem State.appendOpen_onlyRecords (s : State) (o : Bool) (rs : List (List Byte)) : OnlyRecords s (s.appendOpen o rs) := by
  unfold State.appendOpen
  exact s.modLedger_onlyRecords _

theorem State.append_onlyRecords (s : State) (o : Bool) (rs : List (List Byte)) : OnlyRecords s (s.append o rs) := by
  unfold State.append
  dsimp only
  split
  · exact (s.appendOpen_onlyRecords _ _).trans (State.closeFolio_onlyRecords _ _ _)
  · exact s.appendOpen_onlyRecords _ _

theorem State.place_onlyRecords {s t : State} {o : Bool} {rs : List (List Byte)} (h : s.place o rs = some t) : OnlyRecords s t := by
  unfold State.place at h
  split at h
  · cases h; exact s.append_onlyRecords _ _
  · dsimp only at h
    split at h
    · cases h; exact (s.closeFolio_onlyRecords _ _).trans (State.append_onlyRecords _ _ _)
    · cases h

theorem State.orElse_place {s t : State} {a b : Bool} {xs ys : List (List Byte)} {q : Prop} [Decidable q]
    (h : (s.place a xs).orElse (fun _ => if q then s.place b ys else none) = some t) : OnlyRecords s t := by
  cases e : s.place a xs with
  | some u => rw [e] at h; cases h; exact State.place_onlyRecords e
  | none =>
    rw [e] at h
    change (if q then s.place b ys else none) = some t at h
    split at h
    · exact State.place_onlyRecords h
    · cases h

theorem State.tryGap_onlyRecords (s : State) : OnlyRecords s s.tryGap := by
  unfold State.tryGap
  dsimp only
  split
  · exact .refl _
  · split
    · rename_i t h
      refine OnlyRecords.trans ?_ (t.modLedger_onlyRecords _)
      exact State.orElse_place (q := True) (by simpa using h)
    · exact .refl _

theorem State.stage_onlyRecords (s : State) (o : Bool) (n : Nat) (rs : List (List Byte)) (p b : Nat) :
    OnlyRecords s (s.stage o n rs p b).2 := by
  unfold State.stage
  extract_lets u v r
  have hu : OnlyRecords s u := s.modLedger_onlyRecords _
  split
  · unfold State.toGasp
    dsimp only
    split
    · exact hu.trans (u.modLedger_onlyRecords (fun l => _))
    · exact hu.trans (u.modLedger_onlyRecords (fun l => _))
  · have hv : OnlyRecords s v := hu.trans u.tryGap_onlyRecords
    cases e : r with
    | none => exact hv.trans (show OnlyRecords v (v.loseEntry rs.length p b) from v.modLedger_onlyRecords _)
    | some t =>
      refine show OnlyRecords s t.notePressure from OnlyRecords.trans (hv.trans ?_) t.notePressure_onlyRecords
      simp only [r] at e
      split at e
      · cases e
      · split at e
        · cases e
        · exact State.orElse_place e

theorem State.stageOne_onlyRecords (s : State) (r : List Byte) (p b : Nat) : OnlyRecords s (s.stageOne r p b) := by
  unfold State.stageOne
  split
  · exact s.modLedger_onlyRecords _
  · exact s.stage_onlyRecords _ _ _ _ _

theorem State.stageEvent_onlyRecords (s : State) (ty t p : Nat) (b : List Byte) : OnlyRecords s (s.stageEvent ty t p b) :=
  s.stageOne_onlyRecords _ _ _

theorem State.bayEventOf_onlyRecords (s : State) (b c : Nat) (id : List Byte) : OnlyRecords s (s.bayEventOf b c id) :=
  (s.stageEvent_onlyRecords _ _ _ _).trans (State.raiseD_onlyEvents _ _ _ _ _ _).records

theorem State.bayEvent_onlyRecords (s : State) (b c : Nat) : OnlyRecords s (s.bayEvent b c) := s.bayEventOf_onlyRecords _ _ _

theorem State.mediumFault_onlyRecords (s : State) (t c : Nat) : OnlyRecords s (s.mediumFault t c) :=
  (s.stageEvent_onlyRecords _ _ _ _).trans (State.raiseD_onlyEvents _ _ _ _ _ _).records

end Sys2Proof.Machine
end

