-- ==== Sys2Proof/Laws/Memory.lean ====
section
/-! SUPPORT. Sparse memories: what a byte reads as after each operation, and that every operation keeps the canonical
form. -/

namespace Sys2Proof.Machine

/-! Cells in canonical form. -/

theorem cellsOk_weaken {lo lo' : Nat} {cs : List Host.Cell} (h : cellsOk lo cs = true) (hl : lo' ≤ lo) :
    cellsOk lo' cs = true := by
  cases cs with
  | nil => rfl
  | cons c r =>
    obtain ⟨x, v⟩ := c
    simp only [cellsOk, Bool.and_eq_true, decide_eq_true_eq] at h ⊢
    exact ⟨⟨Nat.le_trans hl h.1.1, h.1.2⟩, h.2⟩

theorem getCell_below {lo a : Nat} {cs : List Host.Cell} (h : cellsOk lo cs = true) (ha : a < lo) : getCell cs a = 0 := by
  induction cs generalizing lo with
  | nil => rfl
  | cons c r ih =>
    obtain ⟨x, v⟩ := c
    simp only [cellsOk, Bool.and_eq_true, decide_eq_true_eq] at h
    have hx : a ≠ x := by omega
    simp only [getCell, if_neg hx]
    exact ih h.2 (by omega)

theorem cellsOk_cons {lo x : Nat} {v : Byte} {r : List Host.Cell} :
    cellsOk lo ((x, v) :: r) = true ↔ lo ≤ x ∧ v ≠ 0 ∧ cellsOk (x + 1) r = true := by
  simp only [cellsOk, Bool.and_eq_true, decide_eq_true_eq, and_assoc]

theorem cellsOk_putCell {lo a : Nat} {b : Byte} {cs : List Host.Cell} (h : cellsOk lo cs = true) (ha : lo ≤ a) :
    cellsOk lo (putCell cs a b) = true := by
  induction cs generalizing lo with
  | nil =>
    rw [putCell]
    split
    · rfl
    · next hb => exact cellsOk_cons.2 ⟨ha, hb, rfl⟩
  | cons c r ih =>
    obtain ⟨x, v⟩ := c
    have hc := cellsOk_cons.1 h
    rw [putCell]
    split
    · next hlt =>
      split
      · exact h
      · next hb => exact cellsOk_cons.2 ⟨ha, hb, cellsOk_cons.2 ⟨by omega, hc.2⟩⟩
    · split
      · next heq =>
        split
        · exact cellsOk_weaken hc.2.2 (by omega)
        · next hb => subst heq; exact cellsOk_cons.2 ⟨ha, hb, hc.2.2⟩
      · exact cellsOk_cons.2 ⟨hc.1, hc.2.1, ih hc.2.2 (by omega)⟩

theorem getCell_putCell {lo a x : Nat} {b : Byte} {cs : List Host.Cell} (h : cellsOk lo cs = true) :
    getCell (putCell cs a b) x = if x = a then b else getCell cs x := by
  induction cs generalizing lo with
  | nil =>
    simp only [putCell]
    split
    · next hb => simp [getCell, hb]
    · simp [getCell]
  | cons c r ih =>
    obtain ⟨y, v⟩ := c
    simp only [cellsOk, Bool.and_eq_true, decide_eq_true_eq] at h
    simp only [putCell]
    by_cases hlt : a < y
    · rw [if_pos hlt]
      by_cases hb : b = 0
      · rw [if_pos hb]
        by_cases hx : x = a
        · subst hx
          rw [if_pos rfl, getCell, if_neg (by omega), getCell_below h.2 (by omega), hb]
        · rw [if_neg hx]
      · rw [if_neg hb]; rfl
    · rw [if_neg hlt]
      by_cases heq : a = y
      · rw [if_pos heq]
        subst heq
        by_cases hb : b = 0
        · rw [if_pos hb]
          by_cases hx : x = a
          · subst hx
            rw [if_pos rfl, getCell_below h.2 (by omega), hb]
          · rw [if_neg hx, getCell, if_neg hx]
        · rw [if_neg hb, getCell, getCell]
          by_cases hx : x = a <;> simp [hx]
      · rw [if_neg heq, getCell, getCell]
        by_cases hx : x = y
        · subst hx
          rw [if_pos rfl, if_pos rfl, if_neg (by omega)]
        · rw [if_neg hx, if_neg hx]
          exact ih h.2

theorem cellsOk_filter {lo : Nat} (p : Host.Cell → Bool) {cs : List Host.Cell} (h : cellsOk lo cs = true) :
    cellsOk lo (cs.filter p) = true := by
  induction cs generalizing lo with
  | nil => rfl
  | cons c r ih =>
    obtain ⟨x, v⟩ := c
    simp only [cellsOk, Bool.and_eq_true, decide_eq_true_eq] at h
    rw [List.filter_cons]
    split
    · simp only [cellsOk, Bool.and_eq_true, decide_eq_true_eq]
      exact ⟨h.1, ih h.2⟩
    · exact cellsOk_weaken (ih h.2) (by omega)

theorem getCell_filter {lo a : Nat} (p : Nat → Bool) {cs : List Host.Cell} (h : cellsOk lo cs = true) :
    getCell (cs.filter (fun c => p c.1)) a = if p a then getCell cs a else 0 := by
  induction cs generalizing lo with
  | nil => simp [getCell]
  | cons c r ih =>
    obtain ⟨x, v⟩ := c
    simp only [cellsOk, Bool.and_eq_true, decide_eq_true_eq] at h
    rw [List.filter_cons]
    by_cases hx : a = x
    · subst hx
      by_cases hp : p a = true
      · simp [hp, getCell]
      · simp only [hp, Bool.false_eq_true, if_false]
        exact getCell_below (cellsOk_filter _ h.2) (by omega)
    · by_cases hp : p x = true
      · simp only [hp, if_true, getCell, if_neg hx]
        exact ih h.2
      · simp only [hp, Bool.false_eq_true, if_false, getCell, if_neg hx]
        exact ih h.2

/-! Memories. -/

@[simp] theorem Memory.wf_empty : ({} : Memory).wf = true := by decide
@[simp] theorem Memory.get_empty (a : Nat) : ({} : Memory).get a = 0 := rfl

/-- A byte stored keeps the canonical form. -/
@[simp] theorem Memory.wf_put {m : Memory} (a : Nat) (b : Byte) (h : m.wf = true) : (m.put a b).wf = true :=
  cellsOk_putCell h (Nat.zero_le a)

/-- Read after write, and every other byte unchanged. -/
theorem Memory.get_put {m : Memory} (h : m.wf = true) (a x : Nat) (b : Byte) :
    (m.put a b).get x = if x = a then b else m.get x := getCell_putCell h

@[simp] theorem Memory.wf_write {m : Memory} (a : Nat) (bs : List Byte) (h : m.wf = true) : (m.write a bs).wf = true := by
  induction bs generalizing m a with
  | nil => exact h
  | cons b bs ih => exact ih (a + 1) (Memory.wf_put a b h)

/-- Bytes stored at `a` read back; every byte outside them is unchanged. -/
theorem Memory.get_write {m : Memory} (h : m.wf = true) (a x : Nat) (bs : List Byte) :
    (m.write a bs).get x = if a ≤ x ∧ x < a + bs.length then bs.getD (x - a) 0 else m.get x := by
  induction bs generalizing m a with
  | nil =>
    have n : ¬(a ≤ x ∧ x < a + ([] : List Byte).length) := by simp
    rw [if_neg n, Memory.write]
  | cons b bs ih =>
    rw [Memory.write, ih (Memory.wf_put a b h), Memory.get_put h]
    by_cases h1 : a + 1 ≤ x ∧ x < a + 1 + bs.length
    · have h2 : a ≤ x ∧ x < a + (b :: bs).length := by simp; omega
      rw [if_pos h1, if_pos h2]
      obtain ⟨k, hk⟩ : ∃ k, x - a = k + 1 := ⟨x - a - 1, by omega⟩
      rw [hk, List.getD_cons_succ]
      congr 1
      omega
    · rw [if_neg h1]
      by_cases h3 : x = a
      · subst h3; simp
      · have h2 : ¬ (a ≤ x ∧ x < a + (b :: bs).length) := by simp; omega
        rw [if_neg h3, if_neg h2]

@[simp] theorem Memory.wf_writeCells {m : Memory} (cs : List Host.Cell) (h : m.wf = true) : (m.writeCells cs).wf = true := by
  induction cs generalizing m with
  | nil => exact h
  | cons c cs ih => exact ih (Memory.wf_put c.1 c.2 h)

@[simp] theorem Memory.wf_filter {m : Memory} (p : Host.Cell → Bool) (h : m.wf = true) :
    ({ cells := m.cells.filter p } : Memory).wf = true := cellsOk_filter p h

@[simp] theorem Memory.wf_clear {m : Memory} (a k : Nat) (h : m.wf = true) : (m.clear a k).wf = true := cellsOk_filter _ h

/-- A cleared range reads as the background; every other byte is unchanged. -/
theorem Memory.get_clear {m : Memory} (h : m.wf = true) (a k x : Nat) :
    (m.clear a k).get x = if a ≤ x ∧ x < a + k then 0 else m.get x := by
  have := getCell_filter (a := x) (fun y => !(decide (a ≤ y) && decide (y < a + k))) h
  simp only [Memory.get, Memory.clear, this]
  by_cases h1 : a ≤ x ∧ x < a + k
  · simp [h1]
  · rw [if_neg h1]
    simp only [Bool.not_and, Bool.or_eq_true, Bool.not_eq_true', decide_eq_false_iff_not, ite_eq_left_iff]
    intro h2
    omega

@[simp] theorem Memory.wf_copyFrom {m : Memory} (src : Memory) (a k : Nat) (h : m.wf = true) :
    (m.copyFrom src a k).wf = true := Memory.wf_writeCells _ (Memory.wf_clear a k h)

@[simp] theorem Memory.wf_mix {m : Memory} (old : Memory) (sel : Nat → Bool) (h : m.wf = true) :
    (m.mix old sel).wf = true := Memory.wf_writeCells _ (cellsOk_filter _ h)

/-- Memories kept in the canonical form by each step of a fold are kept by the fold. -/
@[simp] theorem Memory.wf_foldl {α : Type} (f : Memory → α → Memory) (hf : ∀ m x, m.wf = true → (f m x).wf = true)
    (xs : List α) (m : Memory) (h : m.wf = true) : (xs.foldl f m).wf = true := by
  induction xs generalizing m with
  | nil => exact h
  | cons x xs ih => exact ih (f m x) (hf m x h)

/-- A read answers as many bytes as were asked for. -/
@[simp] theorem Memory.length_read (m : Memory) (a k : Nat) : (m.read a k).length = k := by
  induction k generalizing a with
  | zero => rfl
  | succ k ih => simp [Memory.read, ih]

end Sys2Proof.Machine
end

