-- ==== Sys2Proof/Laws/Kept.lean ====
section
/-! SUPPORT. What the operations of the machine keep. A property of states that survives the writes below (`Kept`) survives
every operation of the model, so each operation has one lemma; the soundness of states, the untouched queue and the
advance of device time are such properties. -/

namespace Sys2Proof.Machine

/-- A property of states that no write of one field breaks, where memories stay canonical, lists keep their length and
device time does not go back. -/
structure Kept where
  holds : State → Prop
  dev : ∀ s x, holds s → holds { s with dev := x }
  presence : ∀ s x, holds s → holds { s with presence := x }
  ledger : ∀ s x, holds s → holds { s with ledger := x }
  enginesOffline : ∀ s x, holds s → holds { s with enginesOffline := x }
  consort : ∀ s x, holds s → holds { s with consort := x }
  board : ∀ s x, holds s → holds { s with board := x }
  out : ∀ s x, holds s → holds { s with out := x }
  bays : ∀ s x, holds s → x.length = s.bays.length → holds { s with bays := x }
  links : ∀ s x, holds s → x.length = s.links.length → holds { s with links := x }
  trains : ∀ s x, holds s → x.length = s.trains.length → holds { s with trains := x }
  clock : ∀ s x, holds s → s.clock.time ≤ x.time → holds { s with clock := x }
  host : ∀ s x, holds s → (s.host.wf = true → x.wf = true) → holds { s with host := x }
  fns : ∀ s x, holds s → x.length = s.fns.length → (s.fns.all Function.wf = true → x.all Function.wf = true) →
    holds { s with fns := x }
  parts : ∀ s x, holds s → x.length = s.parts.length → (s.parts.all Part.wf = true → x.all Part.wf = true) →
    holds { s with parts := x }

variable {K : Kept} {s : State}

/-! Single fields. -/

@[simp] theorem kept_dev (x : Device) (h : K.holds s) : K.holds { s with dev := x } := K.dev s x h
@[simp] theorem kept_presence (x : Presence) (h : K.holds s) : K.holds { s with presence := x } := K.presence s x h
@[simp] theorem kept_ledger (x : Ledger) (h : K.holds s) : K.holds { s with ledger := x } := K.ledger s x h
@[simp] theorem kept_engines (x : List Nat) (h : K.holds s) : K.holds { s with enginesOffline := x } := K.enginesOffline s x h
@[simp] theorem kept_consort (x : Consort) (h : K.holds s) : K.holds { s with consort := x } := K.consort s x h
@[simp] theorem kept_board (x : Board) (h : K.holds s) : K.holds { s with board := x } := K.board s x h
@[simp] theorem kept_out (x : Outputs) (h : K.holds s) : K.holds { s with out := x } := K.out s x h
@[simp] theorem kept_host (x : Memory) (h : K.holds s) (hx : s.host.wf = true → x.wf = true) : K.holds { s with host := x } :=
  K.host s x h hx
@[simp] theorem kept_links_map (f : Link → Link) (h : K.holds s) : K.holds { s with links := s.links.map f } :=
  K.links s _ h (List.length_map ..)
@[simp] theorem kept_consort_links_map (c : Consort) (f : Link → Link) (h : K.holds s) :
    K.holds { s with consort := c, links := s.links.map f } := K.links _ _ (K.consort s c h) (List.length_map ..)
@[simp] theorem kept_consort_links_mapIdx (c : Consort) (f : Nat → Link → Link) (h : K.holds s) :
    K.holds { s with consort := c, links := s.links.mapIdx f } := K.links _ _ (K.consort s c h) (List.length_mapIdx ..)
@[simp] theorem kept_links_set_out (i : Nat) (l : Link) (o : Outputs) (h : K.holds s) :
    K.holds { s with links := s.links.set i l, out := o } := K.out _ o (K.links s _ h (List.length_set ..))

/-! Folds. -/

@[simp] theorem kept_foldl {α : Type} (f : State → α → State) (xs : List α) (hf : ∀ s x, K.holds s → K.holds (f s x))
    (h : K.holds s) : K.holds (xs.foldl f s) := by
  induction xs generalizing s with
  | nil => exact h
  | cons x xs ih => exact ih (hf s x h)

theorem kept_foldl_fst {α β : Type} (f : State × β → α → State × β) (xs : List α)
    (hf : ∀ p x, K.holds p.1 → K.holds (f p x).1) (p : State × β) (h : K.holds p.1) : K.holds (xs.foldl f p).1 := by
  induction xs generalizing p with
  | nil => exact h
  | cons x xs ih => exact ih (f p x) (hf p x h)

/-! The parts of the state by index. -/

theorem all_set {α : Type} (p : α → Bool) (xs : List α) (i : Nat) (x : α) (hx : ∀ h : i < xs.length, p xs[i] = true → p x = true)
    (h : xs.all p = true) : (xs.set i x).all p = true := by
  rw [List.all_eq_true] at h ⊢
  intro y hy
  by_cases hi : i < xs.length
  · rcases List.mem_or_eq_of_mem_set hy with h1 | h1
    · exact h y h1
    · rw [h1]; exact hx hi (h _ (List.getElem_mem hi))
  · rw [List.set_eq_of_length_le (by omega)] at hy
    exact h y hy

theorem getD_of_lt {α : Type} {xs : List α} {i : Nat} (h : i < xs.length) (d : α) : xs.getD i d = xs[i] := by
  simp [List.getD_eq_getElem?_getD, List.getElem?_eq_getElem h]

theorem State.setFn_kept (i : Nat) (f : Function) (h : K.holds s) (hf : (s.fn i).wf = true → f.wf = true) :
    K.holds (s.setFn i f) := by
  refine K.fns s _ h (List.length_set ..) (all_set _ _ _ _ ?_)
  intro hi h1
  exact hf (by rw [State.fn, getD_of_lt hi]; exact h1)

@[simp] theorem State.setFn_kept_windows (i : Nat) (f : Function) (h : K.holds s) (h1 : f.urgent.window = (s.fn i).urgent.window)
    (h2 : f.bulk.window = (s.fn i).bulk.window) (h3 : f.msixTable = (s.fn i).msixTable) : K.holds (s.setFn i f) :=
  s.setFn_kept i f h (by intro hw; rw [Function.wf, h1, h2, h3]; exact hw)

@[simp] theorem State.modFn_kept (i : Nat) (g : Function → Function) (h : K.holds s)
    (h1 : ∀ f, (g f).urgent.window = f.urgent.window) (h2 : ∀ f, (g f).bulk.window = f.bulk.window)
    (h3 : ∀ f, (g f).msixTable = f.msixTable) : K.holds (s.modFn i g) :=
  s.setFn_kept_windows i _ h (h1 _) (h2 _) (h3 _)

theorem State.modFn_kept_wf (i : Nat) (g : Function → Function) (h : K.holds s) (hg : ∀ f, f.wf = true → (g f).wf = true) :
    K.holds (s.modFn i g) := s.setFn_kept i _ h (hg _)

theorem State.setPart_kept (i : Nat) (p : Part) (h : K.holds s) (hp : (s.part i).wf = true → p.wf = true) :
    K.holds (s.setPart i p) := by
  refine K.parts s _ h (List.length_set ..) (all_set _ _ _ _ ?_)
  intro hi h1
  exact hp (by rw [State.part, getD_of_lt hi]; exact h1)

@[simp] theorem State.setPart_kept_fields (i : Nat) (p : Part) (h : K.holds s) (hl : p.cores.length = (s.part i).cores.length)
    (hd : p.channels.length = (s.part i).channels.length) (hh : (s.part i).hbm.wf = true → p.hbm.wf = true)
    (hc : (s.part i).cores.all Core.wf = true → p.cores.all Core.wf = true) : K.holds (s.setPart i p) := by
  refine s.setPart_kept i p h ?_
  simp only [Part.wf, Bool.and_eq_true, decide_eq_true_eq, hl, hd]
  exact fun h1 => ⟨⟨h1.1.1, hh h1.1.2⟩, hc h1.2⟩

@[simp] theorem State.modPart_kept (i : Nat) (g : Part → Part) (h : K.holds s) (hl : ∀ p, (g p).cores.length = p.cores.length)
    (hd : ∀ p, (g p).channels.length = p.channels.length) (hh : ∀ p, p.hbm.wf = true → (g p).hbm.wf = true)
    (hc : ∀ p, p.cores.all Core.wf = true → (g p).cores.all Core.wf = true) : K.holds (s.modPart i g) :=
  s.setPart_kept_fields i _ h (hl _) (hd _) (hh _) (hc _)

@[simp] theorem State.modCore_kept (c : Nat) (g : Core → Core) (h : K.holds s) (h1 : ∀ x, x.clm.wf = true → (g x).clm.wf = true)
    (h2 : ∀ x, x.stop.wf = true → (g x).stop.wf = true) (h3 : ∀ x, x.check.wf = true → (g x).check.wf = true) :
    K.holds (s.modCore c g) := by
  refine s.modPart_kept _ _ h (fun p => by simp) (fun p => rfl) (fun p hp => hp) ?_
  intro p hp
  refine all_set _ _ _ _ ?_ hp
  intro hi hw
  rw [getD_of_lt hi]
  simp only [Core.wf, Bool.and_eq_true] at hw ⊢
  exact ⟨⟨h1 _ hw.1.1, h2 _ hw.1.2⟩, h3 _ hw.2⟩

@[simp] theorem State.setTrain_kept (i : Nat) (t : Train) (h : K.holds s) : K.holds (s.setTrain i t) :=
  K.trains s _ h (List.length_set ..)
@[simp] theorem State.modTrain_kept (i : Nat) (g : Train → Train) (h : K.holds s) : K.holds (s.modTrain i g) :=
  s.setTrain_kept i _ h
@[simp] theorem State.setBay_kept (i : Nat) (b : Bay) (h : K.holds s) : K.holds (s.setBay i b) :=
  K.bays s _ h (List.length_set ..)
@[simp] theorem State.setLink_kept (i : Nat) (l : Link) (h : K.holds s) : K.holds (s.setLink i l) :=
  K.links s _ h (List.length_set ..)
@[simp] theorem State.modDev_kept (g : Device → Device) (h : K.holds s) : K.holds (s.modDev g) := K.dev s _ h

/-! The properties that the statements use. -/

/-- Soundness of the state is such a property. -/
def Kept.sound : Kept where
  holds := fun s => s.wf = true
  dev := fun _ _ h => h
  presence := fun _ _ h => h
  ledger := fun _ _ h => h
  enginesOffline := fun _ _ h => h
  consort := fun _ _ h => h
  board := fun _ _ h => h
  out := fun _ _ h => h
  bays := by intro s x h hx; simp only [State.wf, hx] at h ⊢; exact h
  links := by intro s x h hx; simp only [State.wf, hx] at h ⊢; exact h
  trains := by intro s x h hx; simp only [State.wf, hx] at h ⊢; exact h
  clock := fun _ _ h _ => h
  host := by
    intro s x h hx
    simp only [State.wf, Bool.and_eq_true] at h ⊢
    exact ⟨⟨⟨h.1.1.1, hx h.1.1.2⟩, h.1.2⟩, h.2⟩
  fns := by
    intro s x h hl hx
    simp only [State.wf, Bool.and_eq_true, hl] at h ⊢
    exact ⟨⟨h.1.1, hx h.1.2⟩, h.2⟩
  parts := by
    intro s x h hl hx
    simp only [State.wf, Bool.and_eq_true, hl] at h ⊢
    exact ⟨h.1, hx h.2⟩

/-- That the queue of waiting commands is `q` is such a property. -/
def Kept.queue (q : List Instr) : Kept where
  holds := fun s => s.pending = q
  dev := fun _ _ h => h
  presence := fun _ _ h => h
  ledger := fun _ _ h => h
  enginesOffline := fun _ _ h => h
  consort := fun _ _ h => h
  board := fun _ _ h => h
  out := fun _ _ h => h
  bays := fun _ _ h _ => h
  links := fun _ _ h _ => h
  trains := fun _ _ h _ => h
  clock := fun _ _ h _ => h
  host := fun _ _ h _ => h
  fns := fun _ _ h _ _ => h
  parts := fun _ _ h _ _ => h

/-- That device time has reached `n` is such a property. -/
def Kept.timeFrom (n : Nat) : Kept where
  holds := fun s => n ≤ s.clock.time
  dev := fun _ _ h => h
  presence := fun _ _ h => h
  ledger := fun _ _ h => h
  enginesOffline := fun _ _ h => h
  consort := fun _ _ h => h
  board := fun _ _ h => h
  out := fun _ _ h => h
  bays := fun _ _ h _ => h
  links := fun _ _ h _ => h
  trains := fun _ _ h _ => h
  clock := fun _ _ h hc => Nat.le_trans h hc
  host := fun _ _ h _ => h
  fns := fun _ _ h _ _ => h
  parts := fun _ _ h _ _ => h

/-! The operations of the machine, in the order of their files. -/

@[simp] theorem State.modBay_kept (a1 : Nat) (a2 : Bay → Bay) (h : K.holds s) :
    K.holds (State.modBay s a1 a2) := by
  unfold State.modBay
  simp (maxDischargeDepth := 30) [h]

theorem kept_ite_fst {β : Type} (c : Prop) [Decidable c] (a b : State × β) (ha : K.holds a.1) (hb : K.holds b.1) :
    K.holds (if c then a else b).1 := by split <;> assumption

@[simp] theorem length_modAt {α : Type} (xs : List α) (i : Nat) (g : α → α) : (modAt xs i g).length = xs.length := by
  simp [modAt]

@[simp] theorem Core.wf_and (c : Core) (h1 : c.clm.wf = true) (h2 : c.stop.wf = true) (h3 : c.check.wf = true) :
    c.wf = true := by
  simp [Core.wf, h1, h2, h3]
theorem Core.wf_clm {c : Core} (h : c.wf = true) : c.clm.wf = true := by
  simp only [Core.wf, Bool.and_eq_true] at h; exact h.1.1
theorem Core.wf_stop {c : Core} (h : c.wf = true) : c.stop.wf = true := by
  simp only [Core.wf, Bool.and_eq_true] at h; exact h.1.2
theorem Core.wf_check {c : Core} (h : c.wf = true) : c.check.wf = true := by
  simp only [Core.wf, Bool.and_eq_true] at h; exact h.2

@[simp] theorem kept_ite (c : Prop) [Decidable c] (a b : State) (ha : K.holds a) (hb : K.holds b) :
    K.holds (if c then a else b) := by split <;> assumption

@[simp] theorem Core.all_map_wf (f : Core → Core) (cs : List Core) (hf : ∀ c, c.wf = true → (f c).wf = true)
    (h : cs.all Core.wf = true) : (cs.map f).all Core.wf = true := by
  rw [List.all_eq_true] at h ⊢
  intro c hc
  obtain ⟨d, hd, rfl⟩ := List.mem_map.1 hc
  exact hf d (h d hd)

@[simp] theorem State.hbmPut_kept (a1 : Nat) (a2 : Nat) (a3 : Byte) (h : K.holds s) :
    K.holds (State.hbmPut s a1 a2 a3) := by
  unfold State.hbmPut
  simp +contextual (maxDischargeDepth := 30) [h, apply_ite K.holds]

@[simp] theorem State.hbmWrite_kept (a1 : Nat) (a2 : Nat) (a3 : List Byte) (h : K.holds s) :
    K.holds (State.hbmWrite s a1 a2 a3) := by
  induction a3 generalizing s a2 with
  | nil => exact h
  | cons b bs ih => exact ih (a2 + 1) (s.hbmPut_kept a1 a2 b h)

@[simp] theorem State.hostWrite_kept (a1 : Nat) (a2 : Nat) (a3 : List Byte) (h : K.holds s) :
    K.holds (State.hostWrite s a1 a2 a3) := by
  unfold State.hostWrite
  simp +contextual (maxDischargeDepth := 30) [h, apply_ite K.holds]

@[simp] theorem State.hostStores_kept (a1 : Nat) (a2 : List Host.Cell) (h : K.holds s) :
    K.holds (State.hostStores s a1 a2) := by
  unfold State.hostStores
  simp +contextual (maxDischargeDepth := 30) [h, apply_ite K.holds]

@[simp] theorem State.signal_kept (a1 : Nat) (a2 : Nat) (h : K.holds s) :
    K.holds (State.signal s a1 a2) := by
  unfold State.signal
  simp (maxDischargeDepth := 30) [h]

@[simp] theorem State.signalEvents_kept (a1 : Nat) (h : K.holds s) :
    K.holds (State.signalEvents s a1) := by
  unfold State.signalEvents
  repeat' (first | split | simp_all +contextual (maxDischargeDepth := 30))

@[simp] theorem State.writeEvent_kept (a1 : Nat) (a2 : Nat) (a3 : Event) (h : K.holds s) :
    K.holds (State.writeEvent s a1 a2 a3) := by
  unfold State.writeEvent
  simp (maxDischargeDepth := 30) [h]

@[simp] theorem State.announce_kept (a1 : Nat) (a2 : Nat) (h : K.holds s) :
    K.holds (State.announce s a1 a2) := by
  unfold State.announce
  simp (maxDischargeDepth := 30) [h]

@[simp] theorem State.flushLost_kept (a1 : Nat) (h : K.holds s) :
    K.holds (State.flushLost s a1) := by
  unfold State.flushLost
  simp (maxDischargeDepth := 30) [h]

@[simp] theorem State.receive_kept (a1 : Nat) (a2 : Event) (h : K.holds s) :
    K.holds (State.receive s a1 a2) := by
  unfold State.receive
  simp (maxDischargeDepth := 30) [h]

@[simp] theorem State.raise_kept (a1 : Nat) (a2 : Event) (h : K.holds s) :
    K.holds (State.raise s a1 a2) := by
  unfold State.raise
  simp (maxDischargeDepth := 30) [h]

@[simp] theorem State.raiseD_kept (a1 : Nat) (a2 : Nat) (a3 : optParam Nat 255) (a4 : optParam Nat 0) (a5 : optParam (List Byte) []) (h : K.holds s) :
    K.holds (State.raiseD s a1 a2 a3 a4 a5) := by
  unfold State.raiseD
  simp (maxDischargeDepth := 30) [h]

@[simp] theorem State.raiseO_kept (a1 : Nat) (a2 : Nat) (a3 : Nat) (a4 : optParam Nat 65535) (a5 : optParam Nat 255) (a6 : optParam Nat 0) (a7 : optParam (List Byte) []) (h : K.holds s) :
    K.holds (State.raiseO s a1 a2 a3 a4 a5 a6 a7) := by
  unfold State.raiseO
  simp (maxDischargeDepth := 30) [h]

@[simp] theorem State.raiseL_kept (a1 : Nat) (a2 : Nat) (a3 : Nat) (a4 : optParam Nat 65535) (a5 : optParam Nat 255) (a6 : optParam Nat 0) (a7 : optParam (List Byte) []) (h : K.holds s) :
    K.holds (State.raiseL s a1 a2 a3 a4 a5 a6 a7) := by
  unfold State.raiseL
  simp (maxDischargeDepth := 30) [h]

@[simp] theorem State.raiseF_kept (a1 : Nat) (a2 : Nat) (a3 : Nat) (a4 : optParam Nat 0) (a5 : optParam (List Byte) []) (h : K.holds s) :
    K.holds (State.raiseF s a1 a2 a3 a4 a5) := by
  unfold State.raiseF
  simp (maxDischargeDepth := 30) [h]

@[simp] theorem State.once_kept (a1 : Nat) (a2 : Nat) (h : K.holds s) :
    K.holds (State.once s a1 a2).2 := by
  unfold State.once
  (repeat' split) <;> simp_all +contextual (maxDischargeDepth := 30)

@[simp] theorem State.saturated_kept (a1 : Nat) (a2 : Nat) (a3 : Nat) (a4 : Nat) (h : K.holds s) :
    K.holds (State.saturated s a1 a2 a3 a4) := by
  unfold State.saturated
  simp (maxDischargeDepth := 30) [h]

@[simp] theorem State.violate_kept (a1 : Nat) (a2 : Violation) (h : K.holds s) :
    K.holds (State.violate s a1 a2).1 := by
  unfold State.violate
  repeat' (first | split | simp_all +contextual (maxDischargeDepth := 30))

@[simp] theorem State.writeReply_kept (a1 : Nat) (a2 : Reply) (h : K.holds s) :
    K.holds (State.writeReply s a1 a2) := by
  unfold State.writeReply
  simp (maxDischargeDepth := 30) [h]

@[simp] theorem State.postHeld_kept (a0 : Nat) (a2 : Nat) (h : K.holds s) :
    K.holds (State.postHeld a0 s a2) := by
  induction a0 generalizing s with
  | zero => exact h
  | succ n ih =>
    rw [State.postHeld]
    try dsimp only
    split
    · exact h
    · split
      · exact h
      · exact ih (by simp [h])

@[simp] theorem State.noteFull_kept (a1 : Nat) (h : K.holds s) :
    K.holds (State.noteFull s a1) := by
  unfold State.noteFull
  simp (maxDischargeDepth := 30) [h]

@[simp] theorem State.postReplies_kept (a1 : Nat) (a2 : List Reply) (h : K.holds s) :
    K.holds (State.postReplies s a1 a2) := by
  unfold State.postReplies
  simp (maxDischargeDepth := 30) [h]

@[simp] theorem State.modLedger_kept (a1 : Ledger → Ledger) (h : K.holds s) :
    K.holds (State.modLedger s a1) := by
  unfold State.modLedger
  simp (maxDischargeDepth := 30) [h]

@[simp] theorem State.lightAlarm_kept  (h : K.holds s) :
    K.holds (State.lightAlarm s) := by
  unfold State.lightAlarm
  simp (maxDischargeDepth := 30) [h]

@[simp] theorem State.setHold_kept (a1 : Nat) (h : K.holds s) :
    K.holds (State.setHold s a1) := by
  unfold State.setHold
  simp (maxDischargeDepth := 30) [h]

@[simp] theorem State.notePressure_kept  (h : K.holds s) :
    K.holds (State.notePressure s) := by
  unfold State.notePressure
  simp (maxDischargeDepth := 30) [h]

@[simp] theorem State.reserve_kept (a1 : Nat) (a2 : Bool) (h : K.holds s) :
    K.holds (State.reserve s a1 a2).2 := by
  unfold State.reserve
  (repeat' split) <;> simp_all +contextual (maxDischargeDepth := 30)

@[simp] theorem State.unreserve_kept (a1 : Nat) (h : K.holds s) :
    K.holds (State.unreserve s a1) := by
  unfold State.unreserve
  simp (maxDischargeDepth := 30) [h]

@[simp] theorem State.closeWith_kept (a1 : Nat) (a2 : Option Nat) (a3 : Nat) (a4 : Nat) (a5 : List Byte) (h : K.holds s) :
    K.holds (State.closeWith s a1 a2 a3 a4 a5) := by
  unfold State.closeWith
  simp (maxDischargeDepth := 30) [h]

@[simp] theorem State.closeFolio_kept (a1 : optParam Nat 0) (a2 : optParam (Option Nat) none) (h : K.holds s) :
    K.holds (State.closeFolio s a1 a2) := by
  unfold State.closeFolio
  simp (maxDischargeDepth := 30) [h]

@[simp] theorem State.appendOpen_kept (a1 : Bool) (a2 : List (List Byte)) (h : K.holds s) :
    K.holds (State.appendOpen s a1 a2) := by
  unfold State.appendOpen
  simp (maxDischargeDepth := 30) [h]

@[simp] theorem State.append_kept (a1 : Bool) (a2 : List (List Byte)) (h : K.holds s) :
    K.holds (State.append s a1 a2) := by
  unfold State.append
  simp (maxDischargeDepth := 30) [h]

theorem State.place_kept (o : Bool) (rs : List (List Byte)) (h : K.holds s) (t : State) (ht : s.place o rs = some t) :
    K.holds t := by
  rw [State.place] at ht
  split at ht
  · cases ht; simp [h]
  · dsimp only at ht
    split at ht
    · cases ht; simp [h]
    · cases ht

theorem State.place_or_kept (o p : Bool) (rs qs : List (List Byte)) (h : K.holds s) (t : State)
    (ht : (s.place o rs).orElse (fun _ => s.place p qs) = some t) : K.holds t := by
  cases hp : s.place o rs with
  | none => rw [hp] at ht; exact s.place_kept _ _ h t ht
  | some u => rw [hp] at ht; cases ht; exact s.place_kept _ _ h _ hp

@[simp] theorem State.loseEntry_kept (a1 : Nat) (a2 : Nat) (a3 : Nat) (h : K.holds s) :
    K.holds (State.loseEntry s a1 a2 a3) := by
  unfold State.loseEntry
  simp (maxDischargeDepth := 30) [h]

@[simp] theorem Function.modRegion_urgent (f : Function) (h : Nat) (g : Region → Region) : (f.modRegion h g).urgent = f.urgent := by
  cases f; rfl
@[simp] theorem Function.modRegion_bulk (f : Function) (h : Nat) (g : Region → Region) : (f.modRegion h g).bulk = f.bulk := by
  cases f; rfl
@[simp] theorem Function.modRegion_msixTable (f : Function) (h : Nat) (g : Region → Region) :
    (f.modRegion h g).msixTable = f.msixTable := by cases f; rfl

@[simp] theorem State.tryGap_kept  (h : K.holds s) :
    K.holds (State.tryGap s) := by
  unfold State.tryGap
  dsimp only
  split
  · exact h
  · split
    · next t ht => exact State.modLedger_kept _ (s.place_or_kept _ _ _ _ h t ht)
    · exact h

@[simp] theorem State.toGasp_kept (a1 : List (List Byte)) (a2 : Nat) (a3 : Nat) (h : K.holds s) :
    K.holds (State.toGasp s a1 a2 a3).2 := by
  unfold State.toGasp
  repeat' (first | split | simp_all +contextual (maxDischargeDepth := 30))

@[simp] theorem State.stage_kept (a1 : Bool) (a2 : Nat) (a3 : List (List Byte)) (a4 : Nat) (a5 : Nat) (h : K.holds s) :
    K.holds (State.stage s a1 a2 a3 a4 a5).2 := by
  unfold State.stage
  dsimp only
  split
  · simp [h]
  · have hg : K.holds (s.modLedger (fun l => { l with reserved := l.reserved - a2 })).tryGap := by simp [h]
    generalize (s.modLedger (fun l => { l with reserved := l.reserved - a2 })).tryGap = g at hg
    split
    · next t ht =>
      refine t.notePressure_kept ?_
      split at ht
      · cases ht
      · split at ht
        · cases ht
        · cases hp : g.place a1 a3 with
          | none =>
            rw [hp] at ht
            change (if a1 = true then g.place false a3 else none) = some t at ht
            split at ht
            · exact g.place_kept _ _ hg t ht
            · cases ht
          | some u => rw [hp] at ht; cases ht; exact g.place_kept _ _ hg _ hp
    · exact g.loseEntry_kept _ _ _ hg

@[simp] theorem State.stageOne_kept (a1 : List Byte) (a2 : Nat) (a3 : Nat) (h : K.holds s) :
    K.holds (State.stageOne s a1 a2 a3) := by
  unfold State.stageOne
  simp (maxDischargeDepth := 30) [h]

@[simp] theorem State.stageEvent_kept (a1 : Nat) (a2 : Nat) (a3 : Nat) (a4 : List Byte) (h : K.holds s) :
    K.holds (State.stageEvent s a1 a2 a3 a4) := by
  unfold State.stageEvent
  simp (maxDischargeDepth := 30) [h]

@[simp] theorem State.mediumFault_kept (a1 : Nat) (a2 : Nat) (h : K.holds s) :
    K.holds (State.mediumFault s a1 a2) := by
  unfold State.mediumFault
  simp (maxDischargeDepth := 30) [h]

@[simp] theorem State.bayEventOf_kept (a1 : Nat) (a2 : Nat) (a3 : List Byte) (h : K.holds s) :
    K.holds (State.bayEventOf s a1 a2 a3) := by
  unfold State.bayEventOf
  simp (maxDischargeDepth := 30) [h]

@[simp] theorem State.bayEvent_kept (a1 : Nat) (a2 : Nat) (h : K.holds s) :
    K.holds (State.bayEvent s a1 a2) := by
  unfold State.bayEvent
  simp (maxDischargeDepth := 30) [h]

@[simp] theorem State.freezeRecord_kept (a1 : Nat) (a2 : Bool) (h : K.holds s) :
    K.holds (State.freezeRecord s a1 a2) := by
  unfold State.freezeRecord
  simp (maxDischargeDepth := 30) [h]

@[simp] theorem State.violation_kept (a1 : Nat) (a2 : Bool) (a3 : Violation) (h : K.holds s) :
    K.holds (State.violation s a1 a2 a3) := by
  unfold State.violation
  simp (maxDischargeDepth := 30) [h]

@[simp] theorem State.fresh_kept  (h : K.holds s) :
    K.holds (State.fresh s).2 := by
  unfold State.fresh
  simp (maxDischargeDepth := 30) [h]

@[simp] theorem State.modWork_kept (a1 : Nat) (a2 : Nat) (a3 : Work → Work) (h : K.holds s) :
    K.holds (State.modWork s a1 a2 a3) := by
  unfold State.modWork
  simp (maxDischargeDepth := 30) [h]

@[simp] theorem State.finishWork_kept (a1 : Nat) (a2 : Nat) (a3 : Nat) (a4 : List Byte) (h : K.holds s) :
    K.holds (State.finishWork s a1 a2 a3 a4) := by
  unfold State.finishWork
  simp (maxDischargeDepth := 30) [h]

@[simp] theorem State.failWork_kept (a1 : Nat) (a2 : Nat) (a3 : Refuse) (h : K.holds s) :
    K.holds (State.failWork s a1 a2 a3) := by
  unfold State.failWork
  simp (maxDischargeDepth := 30) [h]

@[simp] theorem State.dropPieces_kept (a1 : Nat) (a2 : Nat) (h : K.holds s) :
    K.holds (State.dropPieces s a1 a2) := by
  unfold State.dropPieces
  simp (maxDischargeDepth := 30) [h]

@[simp] theorem State.endWork_kept (a1 : Nat) (a2 : Nat) (a3 : Refuse) (h : K.holds s) :
    K.holds (State.endWork s a1 a2 a3) := by
  unfold State.endWork
  simp (maxDischargeDepth := 30) [h]

@[simp] theorem State.addDue_kept (a1 : Nat) (a2 : DueReply) (h : K.holds s) :
    K.holds (State.addDue s a1 a2) := by
  unfold State.addDue
  simp (maxDischargeDepth := 30) [h]

@[simp] theorem State.noteAccess_kept (a1 : Nat) (a2 : Region) (a3 a4 : Nat) (a5 a6 : Bool) (h : K.holds s) :
    K.holds (State.noteAccess s a1 a2 a3 a4 a5 a6) := by
  unfold State.noteAccess
  simp (maxDischargeDepth := 30) [h]

@[simp] theorem State.slotWrite_kept (a1 : Nat) (a2 : Region) (a3 : Nat) (a4 : List Byte) (a5 : Bool) (h : K.holds s) :
    K.holds (State.slotWrite s a1 a2 a3 a4 a5) := by
  unfold State.slotWrite
  simp (maxDischargeDepth := 30) [h]

@[simp] theorem State.returnSlot_kept (a1 : Nat) (a2 : Nat) (a3 : Nat) (a4 : Nat) (a5 : Nat) (a6 : HeldSlot) (h : K.holds s) :
    K.holds (State.returnSlot s a1 a2 a3 a4 a5 a6) := by
  unfold State.returnSlot
  (repeat' split) <;> simp_all +contextual (maxDischargeDepth := 30)

@[simp] theorem State.returnSlots_kept (a1 : Nat) (a2 : Work) (h : K.holds s) :
    K.holds (State.returnSlots s a1 a2) := by
  unfold State.returnSlots
  simp +contextual (maxDischargeDepth := 30) [h, apply_ite K.holds]

@[simp] theorem State.stageDue_kept (a1 : DueReply) (a2 : Nat) (h : K.holds s) :
    K.holds (State.stageDue s a1 a2).2.2 := by
  unfold State.stageDue
  repeat' (first | split | simp_all +contextual (maxDischargeDepth := 30))

@[simp] theorem State.countReply_kept (a1 : Nat) (a2 : DueReply) (a3 : Bool) (h : K.holds s) :
    K.holds (State.countReply s a1 a2 a3) := by
  unfold State.countReply
  (repeat' split) <;> simp_all +contextual (maxDischargeDepth := 30)

@[simp] theorem State.stageAll_kept (a1 : Nat) (a2 : Nat) (a3 : List DueReply) (a4 : List (Nat × Reply)) (h : K.holds s) :
    K.holds (State.stageAll s a1 a2 a3 a4).2 := by
  induction a3 generalizing s a4 with
  | nil => exact h
  | cons d ds ih =>
    rw [State.stageAll]
    exact ih _ (State.countReply_kept _ _ _ (s.stageDue_kept d a2 h))

@[simp] theorem State.release_kept (a1 : Nat) (a2 : Nat) (a3 : List DueReply) (h : K.holds s) :
    K.holds (State.release s a1 a2 a3) := by
  unfold State.release
  simp +contextual (maxDischargeDepth := 30) [h, apply_ite K.holds]

theorem State.claimSlot_kept (t r i : Nat) (h : K.holds s) (u : State) (hu : s.claimSlot t r i = some u) : K.holds u := by
  rw [State.claimSlot] at hu
  split at hu
  · cases hu
  · split at hu
    · cases hu; exact h
    · split at hu
      · cases hu
      · cases hu; simp (maxDischargeDepth := 9) [h]

@[simp] theorem State.releaseSlot_kept (a1 : Nat) (a2 : Nat) (a3 : Nat) (h : K.holds s) :
    K.holds (State.releaseSlot s a1 a2 a3) := by
  unfold State.releaseSlot
  (repeat' split) <;> simp_all +contextual (maxDischargeDepth := 30)

@[simp] theorem State.spillPutUnit_kept (a1 : Nat) (a2 : Nat) (a3 : Nat) (a4 : List Byte) (h : K.holds s) :
    K.holds (State.spillPutUnit s a1 a2 a3 a4) := by
  unfold State.spillPutUnit
  (repeat' split) <;> simp_all +contextual (maxDischargeDepth := 30)

@[simp] theorem State.spillWrite_kept (a1 : Nat) (a2 : Nat) (a3 : Nat) (a4 : List Byte) (h : K.holds s) :
    K.holds (State.spillWrite s a1 a2 a3 a4) := by
  unfold State.spillWrite
  simp +contextual (maxDischargeDepth := 30) [h, apply_ite K.holds]

@[simp] theorem State.useAsMemory_kept (a1 a2 : Nat) (h : K.holds s) : K.holds (State.useAsMemory s a1 a2) := by
  unfold State.useAsMemory
  simp (maxDischargeDepth := 30) [h]

theorem State.claimSlots_kept (t r : Nat) (xs : List Nat) (o : Option State) (h : ∀ u, o = some u → K.holds u) (u : State)
    (hu : xs.foldl (fun (o : Option State) i => o.bind (fun s => s.claimSlot t r i)) o = some u) : K.holds u := by
  induction xs generalizing o with
  | nil => exact h u hu
  | cons x xs ih =>
    refine ih _ ?_ hu
    intro v hv
    obtain ⟨w, hw, hv⟩ := Option.bind_eq_some_iff.1 hv
    exact w.claimSlot_kept t r x (h w hw) v hv

theorem State.claimRange_kept (t r off len : Nat) (h : K.holds s) (u : State) (hu : s.claimRange t r off len = some u) :
    K.holds u := by
  rw [State.claimRange] at hu
  split at hu
  · cases hu
  · split at hu
    · cases hu; exact h
    · refine State.claimSlots_kept t r _ _ ?_ u hu
      intro v hv
      cases hv
      simp [h]

@[simp] theorem State.badSlot_kept (a1 : Nat) (a2 : Nat) (a3 : Nat) (h : K.holds s) :
    K.holds (State.badSlot s a1 a2 a3) := by
  unfold State.badSlot
  simp (maxDischargeDepth := 30) [h]

@[simp] theorem State.dropPoisoned_kept (a1 a2 : Nat) (a3 : Refuse) (h : K.holds s) :
    K.holds (State.dropPoisoned s a1 a2 a3) := by
  unfold State.dropPoisoned
  (repeat' split) <;> simp_all +contextual (maxDischargeDepth := 30)

@[simp] theorem State.setEntry_kept (a1 : Nat) (a2 : Pool) (a3 : Nat) (a4 : PageEntry) (h : K.holds s) :
    K.holds (State.setEntry s a1 a2 a3 a4) := by
  unfold State.setEntry
  simp (maxDischargeDepth := 30) [h]

@[simp] theorem State.seqWrite_kept (a1 : Nat) (a2 : Pool) (a3 : Nat) (a4 : Sequence) (h : K.holds s) :
    K.holds (State.seqWrite s a1 a2 a3 a4) := by
  unfold State.seqWrite
  simp (maxDischargeDepth := 30) [h]

@[simp] theorem State.rowWrite_kept (a1 : Nat) (a2 : Pool) (a3 : Sequence) (a4 : Nat) (a5 : Nat) (a6 : Nat) (a7 : List Byte) (h : K.holds s) :
    K.holds (State.rowWrite s a1 a2 a3 a4 a5 a6 a7) := by
  unfold State.rowWrite
  (repeat' split) <;> simp_all +contextual (maxDischargeDepth := 30)

@[simp] theorem State.linkPage_kept (a1 : Nat) (a2 : Pool) (a3 : Nat) (a4 : Nat) (a5 : Nat) (h : K.holds s) :
    K.holds (State.linkPage s a1 a2 a3 a4 a5) := by
  unfold State.linkPage
  simp (maxDischargeDepth := 30) [h]

theorem State.obtainPage_kept (t : Nat) (p : Pool) (j : Nat) (h : K.holds s) (a : Appended) (ha : s.obtainPage t p j = .ok a) :
    K.holds a.s := by
  have hl : ∀ (u : State), K.holds u → ∀ (i l f : Nat), Except.ok (⟨u.linkPage t p j i l, f⟩ : Appended) = (.ok a : Except Refuse Appended) →
      K.holds a.s := by
    intro u hu i l f e
    have : (⟨u.linkPage t p j i l, f⟩ : Appended) = a := Except.ok.inj e
    rw [← this]
    dsimp only
    exact u.linkPage_kept _ _ _ _ _ hu
  rw [State.obtainPage] at ha
  dsimp only at ha
  split at ha
  · exact hl _ h _ _ _ ha
  · split at ha
    · exact absurd ha (by simp)
    · split at ha
      · split at ha
        · exact absurd ha (by simp)
        · exact hl _ (State.seqWrite_kept _ _ _ _ h) _ _ _ ha
      · split at ha
        · split at ha
          · next u hu => exact hl _ (s.claimSlot_kept _ _ _ h u hu) _ _ _ ha
          · exact absurd ha (by simp)
        · exact absurd ha (by simp)

theorem State.appendOne_kept (t : Nat) (p : Pool) (j : Nat) (h : K.holds s) (a : Appended) (ha : s.appendOne t p j = .ok a) :
    K.holds a.s := by
  rw [State.appendOne] at ha
  dsimp only at ha
  split at ha
  · exact absurd ha (by simp)
  · next b hb =>
    have hk : K.holds b.s := by
      split at hb
      · exact s.obtainPage_kept _ _ _ h b hb
      · rw [← Except.ok.inj hb]
        exact h
    split at ha
    · exact absurd ha (by simp)
    · rw [← Except.ok.inj ha]
      dsimp only
      exact State.seqWrite_kept _ _ _ _ (kept_foldl _ _ (fun v x hv => State.rowWrite_kept _ _ _ _ _ _ _ (State.rowWrite_kept _ _ _ _ _ _ _ hv)) hk)

theorem State.appendMany_kept (t : Nat) (p : Pool) (j n fl : Nat) (h : K.holds s) (a : Appended)
    (ha : State.appendMany t p j n s fl = .ok a) : K.holds a.s := by
  induction n generalizing s fl with
  | zero => rw [State.appendMany] at ha; cases ha; exact h
  | succ n ih =>
    rw [State.appendMany] at ha
    split at ha
    · cases ha
    · next b hb => exact ih _ (s.appendOne_kept _ _ _ h b hb) ha

@[simp] theorem State.openSequence_kept (a1 : Nat) (a2 : Pool) (a3 : Nat) (a4 : Nat) (a5 : Nat) (a6 : Nat) (a7 : Nat) (h : K.holds s) :
    K.holds (State.openSequence s a1 a2 a3 a4 a5 a6 a7) := by
  unfold State.openSequence
  simp (maxDischargeDepth := 30) [h]

@[simp] theorem State.closeSequence_kept (a1 : Nat) (a2 : Pool) (a3 : Nat) (h : K.holds s) :
    K.holds (State.closeSequence s a1 a2 a3) := by
  unfold State.closeSequence
  simp +contextual (maxDischargeDepth := 30) [h, apply_ite K.holds]

@[simp] theorem State.closePool_kept (a1 : Nat) (a2 : Pool) (h : K.holds s) : K.holds (State.closePool s a1 a2) := by
  unfold State.closePool
  (repeat' split) <;> simp_all +contextual (maxDischargeDepth := 30) [apply_ite K.holds]

@[simp] theorem State.retireInPool_kept (a1 : Nat) (a2 : Pool) (a3 : Nat) (h : K.holds s) :
    K.holds (State.retireInPool s a1 a2 a3) := by
  unfold State.retireInPool
  simp (maxDischargeDepth := 30) [h]

@[simp] theorem State.restoreHbm_kept (a1 : Nat) (a2 : List Memory) (a3 : List Range) (h : K.holds s) :
    K.holds (State.restoreHbm s a1 a2 a3) := by
  unfold State.restoreHbm
  simp +contextual (maxDischargeDepth := 30) [h, apply_ite K.holds]

@[simp] theorem State.undoSequence_kept (t : Nat) (old : List Memory) (p : Pool) (j : Nat) (h : K.holds s) :
    K.holds (s.undoSequence t old p j) := by
  unfold State.undoSequence
  exact kept_foldl _ _ (fun u x hu => State.releaseSlot_kept _ _ _ hu) (State.restoreHbm_kept _ _ _ h)

end Sys2Proof.Machine
end

