-- ==== Sys2Proof/Laws/KeptRun.lean ====
section
/-! SUPPORT. What the descriptors of a program keep: the compute operations of Datapath. -/

namespace Sys2Proof.Machine

variable {K : Kept} {s : State}

@[simp] theorem Core.writeByte_clm_wf (c : Core) (a : Nat) (b : Byte) (h : c.clm.wf = true) :
    (c.writeByte a b).clm.wf = true := by
  rw [Core.writeByte]
  split <;> simp [h]

@[simp] theorem Core.writeBytes_clm_wf (c : Core) (a : Nat) (bs : List Byte) (h : c.clm.wf = true) :
    (c.writeBytes a bs).clm.wf = true := by
  induction bs generalizing c a with
  | nil => exact h
  | cons b bs ih => exact ih _ _ (c.writeByte_clm_wf a b h)

@[simp] theorem Core.writeBytes_stop (c : Core) (a : Nat) (bs : List Byte) :
    (c.writeBytes a bs).stop = c.stop := by
  induction bs generalizing c a with
  | nil => rfl
  | cons b bs ih =>
    rw [Core.writeBytes, ih, Core.writeByte]
    split <;> rfl

@[simp] theorem Core.writeBytes_check (c : Core) (a : Nat) (bs : List Byte) : (c.writeBytes a bs).check = c.check := by
  induction bs generalizing c a with
  | nil => rfl
  | cons b bs ih =>
    rw [Core.writeBytes, ih, Core.writeByte]
    split <;> rfl

@[simp] theorem State.operandWrite_kept (a1 : RunCtx) (a2 : Desc) (a3 : Layout) (a4 : Nat) (a5 : List Byte) (h : K.holds s) :
    K.holds (State.operandWrite s a1 a2 a3 a4 a5) := by
  unfold State.operandWrite
  repeat' (first | split | simp_all +contextual (maxDischargeDepth := 30))

@[simp] theorem State.sequenceWrite_kept (a1 : RunCtx) (a2 : Nat) (a3 : List Byte) (h : K.holds s) :
    K.holds (State.sequenceWrite s a1 a2 a3) := by
  unfold State.sequenceWrite
  (repeat' split) <;> simp_all +contextual (maxDischargeDepth := 30)

@[simp] theorem State.writeRows_kept (a1 : RunCtx) (a2 : Desc) (a3 : Layout) (a4 : List (List Byte)) (h : K.holds s) :
    K.holds (State.writeRows s a1 a2 a3 a4) := by
  unfold State.writeRows
  simp +contextual (maxDischargeDepth := 30) [h, apply_ite K.holds]

@[simp] theorem State.writeMatrices_kept (a1 : RunCtx) (a2 : Desc) (a3 : Layout) (a4 : List (List (List Elt))) (h : K.holds s) :
    K.holds (State.writeMatrices s a1 a2 a3 a4) := by
  unfold State.writeMatrices
  simp (maxDischargeDepth := 30) [h]

/-! Stop banks. -/

@[simp] theorem Core.fillChecks_clm (c : Core) (f : Nat) (ms : List Nat) : (c.fillChecks f ms).clm = c.clm := rfl
@[simp] theorem Core.fillChecks_stop (c : Core) (f : Nat) (ms : List Nat) : (c.fillChecks f ms).stop = c.stop := rfl
@[simp] theorem Core.fillChecks_check_wf (c : Core) (f : Nat) (ms : List Nat) (h : c.check.wf = true) :
    (c.fillChecks f ms).check.wf = true :=
  Memory.wf_writeCells _ (Memory.wf_foldl _ (fun _ _ hm => Memory.wf_clear _ _ hm) ms _ h)

@[simp] theorem Core.writeSlab_wf (c : Core) (f : Nat) (bs : List Byte) (h : c.wf = true) : (c.writeSlab f bs).wf = true := by
  unfold Core.writeSlab
  have hc := Core.wf_clm h
  have hk := Core.wf_check h
  exact Core.wf_and _ hc (by simp) (Core.fillChecks_check_wf _ _ _ hk)

theorem Core.fillChecks_wf (c : Core) (f : Nat) (ms : List Nat) (h : c.wf = true) : (c.fillChecks f ms).wf = true :=
  Core.wf_and _ (by rw [Core.fillChecks_clm]; exact Core.wf_clm h) (by rw [Core.fillChecks_stop]; exact Core.wf_stop h)
    (Core.fillChecks_check_wf _ _ _ (Core.wf_check h))

theorem Core.writeMacro_wf (c : Core) (f mac : Nat) (bs : List Byte) (h : c.wf = true) :
    (c.writeMacro f mac bs).wf = true := by
  unfold Core.writeMacro
  have hc := Core.wf_clm h
  have hk := Core.wf_check h
  exact Core.fillChecks_wf _ _ _ (Core.wf_and _ hc (Memory.wf_write _ _ (Core.wf_stop h)) hk)

theorem State.modCore_kept_wf (c : Nat) (g : Core → Core) (h : K.holds s) (hg : ∀ x, x.wf = true → (g x).wf = true) :
    K.holds (s.modCore c g) := by
  refine s.modPart_kept _ _ h (fun p => by simp) (fun p => rfl) (fun p hp => hp) ?_
  intro p hp
  refine all_set _ _ _ _ ?_ hp
  intro hi hw
  rw [getD_of_lt hi]
  exact hg _ hw

@[simp] theorem State.writeSlab_kept (a1 : Nat) (a2 : Model) (a3 a4 : Nat) (h : K.holds s) :
    K.holds (State.writeSlab s a1 a2 a3 a4) := by
  unfold State.writeSlab
  split
  · exact s.modCore_kept_wf _ _ h (fun x hx => x.writeSlab_wf _ _ hx)
  · exact h

@[simp] theorem State.modCounters_kept (a1 : Nat) (a2 : CoreCounters → CoreCounters) (h : K.holds s) :
    K.holds (State.modCounters s a1 a2) := by
  unfold State.modCounters
  simp (maxDischargeDepth := 30) [h]

@[simp] theorem State.raiseWrap_kept (a1 : Nat) (h : K.holds s) :
    K.holds (State.raiseWrap s a1) := by
  unfold State.raiseWrap
  simp (maxDischargeDepth := 30) [h]

@[simp] theorem State.countRows_kept (a1 a2 : Nat) (h : K.holds s) : K.holds (State.countRows s a1 a2) := by
  unfold State.countRows
  simp (maxDischargeDepth := 30) [h]

@[simp] theorem State.countGatherAccesses_kept (a1 a2 : Nat) (h : K.holds s) : K.holds (State.countGatherAccesses s a1 a2) := by
  unfold State.countGatherAccesses
  simp (maxDischargeDepth := 30) [h]

@[simp] theorem State.latchFailure_kept (a1 a2 a3 a4 : Nat) (a5 : Option Nat) (h : K.holds s) :
    K.holds (State.latchFailure s a1 a2 a3 a4 a5) := by
  unfold State.latchFailure
  simp (maxDischargeDepth := 30) [h]

@[simp] theorem State.testMacro_kept (a1 a2 a3 : Nat) (h : K.holds s) : K.holds (State.testMacro s a1 a2 a3) := by
  unfold State.testMacro
  (repeat' split) <;> simp_all +contextual (maxDischargeDepth := 30)

@[simp] theorem State.droneTests_kept (a1 : Nat) (h : K.holds s) : K.holds (State.droneTests s a1) := by
  unfold State.droneTests
  simp +contextual (maxDischargeDepth := 30) [h]

@[simp] theorem State.rewriteFrom_kept (a1 : Nat) (a2 : Model) (a3 a4 a5 : Nat) (h : K.holds s) :
    K.holds (State.rewriteFrom s a1 a2 a3 a4 a5).1 := by
  unfold State.rewriteFrom
  dsimp only
  refine s.modCore_kept_wf _ _ h (fun x hx => ?_)
  have hw := Core.writeMacro_wf x a2.format a5 (s.hbmRead a1 (a2.addr + 4096 + a4 * slabBytes + a5 * 131072) 131072) hx
  generalize x.writeMacro _ _ _ = y at hw ⊢
  split <;> exact hw

@[simp] theorem State.rewriteMacro_kept (a1 a2 a3 : Nat) (h : K.holds s) : K.holds (State.rewriteMacro s a1 a2 a3).1 := by
  unfold State.rewriteMacro
  (repeat' split)
  · exact h
  · exact h
  · exact s.rewriteFrom_kept _ _ _ _ _ h

@[simp] theorem State.repairMacro_kept (a1 a2 a3 : Nat) (h : K.holds s) : K.holds (State.repairMacro s a1 a2 a3) := by
  have hr := s.rewriteMacro_kept a1 a2 a3 h
  unfold State.repairMacro
  split
  · next e => rw [e] at hr; exact hr
  · next e => rw [e] at hr; dsimp only at hr ⊢; split <;> simp [hr]

@[simp] theorem State.testPinned_kept (a1 : Nat) (a2 : Model) (a3 a4 a5 : Nat) (h : K.holds s) :
    K.holds (State.testPinned s a1 a2 a3 a4 a5).1 := by
  unfold State.testPinned
  split
  · exact h
  · next v e =>
    have hr := State.rewriteFrom_kept (K := K) (s := s.raiseO 0x0303 2 (a3 / 16) a3 a5 0 [byte v]) a1 a2 a3 a4 a5
      (s.raiseO_kept _ _ _ _ _ _ _ h)
    dsimp only
    split
    · next e => rw [e] at hr; exact hr
    · next e => rw [e] at hr; exact State.raiseO_kept _ _ _ _ _ _ _ hr

@[simp] theorem State.testPins_kept (a1 : Nat) (a2 : Model) (a3 a4 : Nat) (h : K.holds s) :
    K.holds (State.testPins s a1 a2 a3 a4).1 := by
  unfold State.testPins
  refine kept_foldl_fst _ _ (fun p x hp => ?_) _ h
  dsimp only
  split
  · exact hp
  · refine kept_foldl_fst _ _ (fun q y hq => ?_) _ hp
    split
    · exact hq
    · exact State.testPinned_kept _ _ _ _ _ hq

@[simp] theorem State.releasePin_kept (a1 a2 a3 a4 : Nat) (h : K.holds s) : K.holds (State.releasePin s a1 a2 a3 a4) := by
  unfold State.releasePin
  refine State.modPart_kept _ _ (kept_foldl _ _ (fun u x hu => ?_) h) (fun p => rfl) (fun p => rfl) (fun p hp => hp) (fun p hp => hp)
  split
  · exact u.modCore_kept_wf _ _ hu (fun x hx => by
      have hc := Core.wf_clm hx
      exact Core.wf_and _ hc rfl rfl)
  · exact hu

/-! Descriptors. -/

@[simp] theorem State.checkStopmm_kept (a1 : RunCtx) (a2 : Desc) (a3 : Shape) (h : K.holds s) :
    K.holds (State.checkStopmm s a1 a2 a3) := by
  unfold State.checkStopmm
  split
  · exact h
  · split
    · exact h
    · exact kept_foldl _ _ (fun u x hu => u.countRows_kept _ _ hu) (kept_foldl _ _ (fun u x hu => u.latchFailure_kept _ _ _ _ _ hu) h)

@[simp] theorem State.loadUnits_kept (a1 : RunCtx) (a2 : Desc) (h : K.holds s) : K.holds (State.loadUnits s a1 a2) := by
  unfold State.loadUnits
  refine kept_foldl _ _ (fun u x hu => u.modCore_kept_wf _ _ hu (fun k hk => ?_)) (s.modDev_kept _ h)
  split
  · exact hk
  · split <;> exact hk

@[simp] theorem State.countGather_kept (a1 : RunCtx) (a2 : Desc) (a3 : Shape) (h : K.holds s) :
    K.holds (State.countGather s a1 a2 a3) := by
  unfold State.countGather
  exact kept_foldl _ _ (fun u x hu => u.countGatherAccesses_kept _ _ hu) h

@[simp] theorem State.runDesc_kept (a1 : RunCtx) (a2 : Desc) (a3 : Shape) (h : K.holds s) :
    K.holds (State.runDesc s a1 a2 a3).s := by
  unfold State.runDesc
  split
  · exact h
  · dsimp only
    have hl := s.loadUnits_kept a1 a2 h
    split
    · exact State.writeMatrices_kept _ _ _ _ (by split <;> simp [hl])
    · exact State.writeRows_kept _ _ _ _ (by split <;> simp [hl])

end Sys2Proof.Machine
end

