-- ==== Sys2Proof/Laws/KeptExecute.lean ====
section
/-! SUPPORT. What checking, executing and committing a command keep: Check, Protocol, Video and Execute. -/

namespace Sys2Proof.Machine

variable {K : Kept} {s : State}

@[simp] theorem State.modRing_kept (fn : Nat) (bulk : Bool) (g : Ring → Ring) (h : K.holds s)
    (hw : ∀ r, r.window.wf = true → (g r).window.wf = true) : K.holds (s.modRing fn bulk g) := by
  unfold State.modRing
  refine s.modFn_kept_wf _ _ h ?_
  intro f hf
  simp only [Function.wf, Bool.and_eq_true] at hf ⊢
  split
  · exact ⟨⟨hf.1.1, hw _ hf.1.2⟩, hf.2⟩
  · exact ⟨⟨hw _ hf.1.1, hf.1.2⟩, hf.2⟩

@[simp] theorem State.presenceRecord_kept (a1 : Nat) (a2 : List Byte) (h : K.holds s) :
    K.holds (State.presenceRecord s a1 a2) := by
  unfold State.presenceRecord
  simp (maxDischargeDepth := 30) [h]

@[simp] theorem State.postDue_kept (a1 : Nat) (a2 : DueReply) (h : K.holds s) :
    K.holds (State.postDue s a1 a2) := by
  unfold State.postDue
  simp (maxDischargeDepth := 30) [h]

@[simp] theorem State.refusePacket_kept (a1 : Packet) (a2 : Nat) (a3 : Nat) (a4 : Nat) (a5 : Refuse) (a6 : Option Nat) (a7 : Nat) (h : K.holds s) :
    K.holds (State.refusePacket s a1 a2 a3 a4 a5 a6 a7) := by
  unfold State.refusePacket
  simp (maxDischargeDepth := 30) [h]

@[simp] theorem State.accepted_kept (a1 : Work) (h : K.holds s) :
    K.holds (State.accepted s a1) := by
  unfold State.accepted
  (repeat' split) <;> simp_all +contextual (maxDischargeDepth := 30)

@[simp] theorem State.acceptPacket_kept (a1 : Packet) (a2 : OpInfo) (a3 : Command) (a4 : Nat) (a5 : Nat) (h : K.holds s) :
    K.holds (State.acceptPacket s a1 a2 a3 a4 a5) := by
  unfold State.acceptPacket
  repeat' (first | split | simp_all +contextual (maxDischargeDepth := 30))

@[simp] theorem State.checkPacket_kept (a1 : Packet) (a2 : Bool) (h : K.holds s) :
    K.holds (State.checkPacket s a1 a2) := by
  unfold State.checkPacket
  repeat' (first | split | simp_all +contextual (maxDischargeDepth := 30))

@[simp] theorem State.takePacket_kept (a1 : Nat) (a2 : Bool) (h : K.holds s) :
    K.holds (State.takePacket s a1 a2) := by
  unfold State.takePacket
  simp (maxDischargeDepth := 30) [h]

@[simp] theorem State.drainRing_kept (a0 : Nat) (a2 : Nat) (a3 : Bool) (h : K.holds s) :
    K.holds (State.drainRing a0 s a2 a3) := by
  induction a0 generalizing s with
  | zero => exact h
  | succ n ih =>
    rw [State.drainRing]
    try dsimp only
    split
    · exact ih (s.takePacket_kept _ _ h)
    · exact h

@[simp] theorem State.checkRings_kept  (h : K.holds s) :
    K.holds (State.checkRings s) := by
  unfold State.checkRings
  simp +contextual (maxDischargeDepth := 30) [h, apply_ite K.holds]

@[simp] theorem State.doorbell_kept (a1 : Nat) (a2 : Bool) (a3 : Nat) (a4 : Nat) (h : K.holds s) :
    K.holds (State.doorbell s a1 a2 a3 a4) := by
  unfold State.doorbell
  simp (maxDischargeDepth := 30) [h]

@[simp] theorem State.writeHeld_kept (a1 : Nat) (a2 : Nat) (a3 : List (Nat × Event)) (h : K.holds s) :
    K.holds (State.writeHeld s a1 a2 a3) := by
  induction a3 generalizing s with
  | nil => exact h
  | cons p rest ih =>
    obtain ⟨n, e⟩ := p
    rw [State.writeHeld]
    exact ih (by try dsimp only
                 split <;> simp [h])

@[simp] theorem State.enableEvents_kept (a1 : Nat) (h : K.holds s) :
    K.holds (State.enableEvents s a1) := by
  unfold State.enableEvents
  simp (maxDischargeDepth := 30) [h]

@[simp] theorem State.writePicture_kept (a1 : Nat) (a2 : Session) (a3 : DecodedPicture) (h : K.holds s) :
    K.holds (State.writePicture s a1 a2 a3) := by
  unfold State.writePicture
  simp +contextual (maxDischargeDepth := 30) [h, apply_ite K.holds]

@[simp] theorem State.present_kept (a1 : Nat) (a2 : Session) (a3 : Nat) (a4 : Option (Nat × Bool × Nat × List Byte)) (h : K.holds s) :
    K.holds (State.present s a1 a2 a3 a4).1 := by
  unfold State.present
  (repeat' split) <;> simp_all +contextual (maxDischargeDepth := 30)

@[simp] theorem State.setSession_kept (a1 : Nat) (a2 : Session) (h : K.holds s) :
    K.holds (State.setSession s a1 a2) := by
  unfold State.setSession
  simp (maxDischargeDepth := 30) [h]

@[simp] theorem State.endDecode_kept (a1 : Work) (a2 : Session) (a3 : Nat) (a4 : Conditioning) (a5 : DecodeResult) (a6 : List DecodedPicture) (h : K.holds s) :
    K.holds (State.endDecode s a1 a2 a3 a4 a5 a6) := by
  unfold State.endDecode
  extract_lets t reasons outs nums shown recs stats e y1 y2 v1 v2 v3 v4
  have h1 : K.holds e.1 := State.present_kept _ _ _ _ h
  have h2 : K.holds v1 := by
    refine kept_foldl _ _ ?_ h1
    intro w q hw
    split
    · exact State.raiseL_kept _ _ _ _ _ _ _ hw
    · exact hw
  have h3 : K.holds v2 := by
    dsimp only [v2]
    (repeat' split) <;> first | exact h2 | exact State.slotWrite_kept _ _ _ _ _ h2
  have h4 : K.holds v4 := State.setSession_kept _ _ (State.modWork_kept _ _ _ h3)
  clear_value v4 reasons
  split
  · exact State.finishWork_kept _ _ _ _ h4
  · exact State.finishWork_kept _ _ _ _ h4

@[simp] theorem State.decodeStream_kept (a1 : Work) (a2 : Session) (a3 : Nat) (a4 : Conditioning) (h : K.holds s) :
    K.holds (State.decodeStream s a1 a2 a3 a4) := by
  unfold State.decodeStream
  refine State.endDecode_kept _ _ _ _ _ _ (kept_foldl_fst _ _ ?_ _ (s.modWork_kept _ _ _ h))
  intro o p hu
  exact State.writePicture_kept _ _ _ hu

@[simp] theorem State.openSession_kept (a1 : Work) (a2 : Nat) (h : K.holds s) :
    K.holds (State.openSession s a1 a2) := by
  unfold State.openSession
  (repeat' split) <;> simp_all +contextual (maxDischargeDepth := 30)

@[simp] theorem State.writeShadow_kept (a1 : Work) (h : K.holds s) :
    K.holds (State.writeShadow s a1) := by
  unfold State.writeShadow
  (repeat' split) <;> simp_all +contextual (maxDischargeDepth := 30)

@[simp] theorem State.failIssue_kept (a1 : Work) (a2 : Refuse) (h : K.holds s) :
    K.holds (State.failIssue s a1 a2) := by
  unfold State.failIssue
  simp (maxDischargeDepth := 30) [h]

@[simp] theorem State.notePayloads_kept (a1 : Work) (a2 : List HeldSlot) (h : K.holds s) :
    K.holds (State.notePayloads s a1 a2) := by
  unfold State.notePayloads
  refine kept_foldl _ _ (fun u x hu => ?_) h
  (repeat' split) <;> first | exact hu | exact u.noteAccess_kept _ _ _ _ _ _ hu

@[simp] theorem State.noteHeaders_kept (a1 : Work) (a2 : List (Nat × SlotRef)) (h : K.holds s) :
    K.holds (State.noteHeaders s a1 a2) := by
  unfold State.noteHeaders
  refine kept_foldl _ _ (fun u x hu => ?_) h
  split
  · exact u.noteAccess_kept _ _ _ _ _ _ hu
  · exact hu

@[simp] theorem State.rereadInputs_kept (a1 : Work) (h : K.holds s) :
    K.holds (State.rereadInputs s a1) := by
  unfold State.rereadInputs
  simp (maxDischargeDepth := 30) [h]

@[simp] theorem State.takeSlots_kept (a1 : Work) (h : K.holds s) :
    K.holds (State.takeSlots s a1) := by
  unfold State.takeSlots
  split
  · exact s.rereadInputs_kept _ h
  · cases s.holdSlots a1 (namedSlots a1.refs) [] with
    | mk hs e =>
      have hk := State.modWork_kept a1.train a1.id (fun w => { w with held := hs }) (State.notePayloads_kept a1 hs
        (s.noteHeaders_kept a1 ((namedSlots a1.refs).take (hs.length + 1)) h))
      cases e with
      | none => exact hk
      | some r => exact State.failIssue_kept _ _ hk

@[simp] theorem State.putOutput_kept (a1 : Work) (a2 : Nat) (a3 : Nat) (a4 : List Byte) (h : K.holds s) :
    K.holds (State.putOutput s a1 a2 a3 a4) := by
  unfold State.putOutput
  repeat' (first | split | simp_all +contextual (maxDischargeDepth := 30))

@[simp] theorem State.fetchFailure_kept (a1 : RunCtx) (a2 a3 : Nat) (h : K.holds s) :
    K.holds (State.fetchFailure s a1 a2 a3).s := by
  unfold State.fetchFailure
  dsimp only
  (repeat' split) <;> simp [h]

@[simp] theorem State.descFailure_kept (a1 : RunCtx) (a2 : Nat) (a3 : Nat) (a4 : Desc) (a5 : Shape) (h : K.holds s) :
    K.holds (State.descFailure s a1 a2 a3 a4 a5).s := by
  unfold State.descFailure
  dsimp only
  have hu := kept_foldl (fun (s : State) h => s.useAsMemory (a1.t + 1) h)
    (((a4.inputs a5).filter (fun l => l.kind == 1 && isSpill l.addr)).map (fun l => spillHandle l.addr))
    (fun u x hu => u.useAsMemory_kept _ _ hu) h
  generalize (((a4.inputs a5).filter (fun l => l.kind == 1 && isSpill l.addr)).map (fun l => spillHandle l.addr)).foldl
    (fun (s : State) h => s.useAsMemory (a1.t + 1) h) s = v at hu
  split
  · exact s.fetchFailure_kept _ _ _ h
  · (repeat' split) <;> first | exact h | exact hu | exact State.badSlot_kept _ _ _ hu

theorem State.claimOutput_kept (x : RunCtx) (d : Desc) (sh : Shape) (h : K.holds s) (u : State)
    (hu : s.claimOutput x d sh = some u) : K.holds u := by
  have key : ∀ (rs : List Range) (o : Option State), (∀ v, o = some v → K.holds v) → ∀ u,
      rs.foldl (fun (o : Option State) r => o.bind (fun s => s.claimRange (x.t + 1) (spillHandle r.start) (spillOffset r.start) r.len)) o
        = some u → K.holds u := by
    intro rs
    induction rs with
    | nil => intro o ho u hu; exact ho u hu
    | cons r rs ih =>
      intro o ho u hu
      refine ih _ ?_ u hu
      intro v hv
      obtain ⟨w, hw, hv⟩ := Option.bind_eq_some_iff.1 hv
      exact w.claimRange_kept _ _ _ _ (ho w hw) v hv
  rw [State.claimOutput] at hu
  split at hu
  · split at hu
    · exact key _ _ (fun v hv => by cases hv; exact h) u hu
    · cases hu; exact h
  · cases hu; exact h

@[simp] theorem State.addResultEvent_kept (a1 : Nat) (a2 : Event) (h : K.holds s) :
    K.holds (State.addResultEvent s a1 a2) := by
  unfold State.addResultEvent
  simp (maxDischargeDepth := 30) [h]

@[simp] theorem State.countEvent_kept (a1 : RunCtx) (a2 : Nat) (a3 : Nat) (h : K.holds s) :
    K.holds (State.countEvent s a1 a2 a3) := by
  unfold State.countEvent
  simp (maxDischargeDepth := 30) [h]

theorem State.runDescs_kept (x : RunCtx) (score : Bool) (addr program : Nat) (ds : List (Desc × Shape)) (i : Nat) (h : K.holds s) :
    K.holds (State.runDescs x score addr program ds s i).s := by
  induction ds generalizing s i x with
  | nil => exact h
  | cons d ds ih =>
    obtain ⟨d, sh⟩ := d
    rw [State.runDescs]
    dsimp only
    have he := s.descFailure_kept { x with index := i } addr program d sh h
    split
    · exact he
    · split
      · exact ih _ _ he
      · split
        · exact he
        · next u hu =>
          have hk := State.claimOutput_kept _ _ _ he u hu
          refine ih _ _ ?_
          have h1 : K.holds ((((u.runDesc { x with index := i } d sh).s.countEvent { x with index := i } 0x0302
              (u.runDesc { x with index := i } d sh).sat)).countEvent { x with index := i } 0x0301
              (u.runDesc { x with index := i } d sh).clamped) :=
            State.countEvent_kept _ _ _ (State.countEvent_kept _ _ _ (State.runDesc_kept _ _ _ hk))
          split
          · exact State.modTrain_kept _ _ h1
          · exact h1

@[simp] theorem State.openRun_kept (a1 : Work) (a2 : Bool) (h : K.holds s) :
    K.holds (State.openRun s a1 a2) := by
  unfold State.openRun
  simp +contextual (maxDischargeDepth := 30) [h, apply_ite K.holds]

@[simp] theorem State.addJournal_kept (a1 : Nat) (a2 : List Range) (h : K.holds s) :
    K.holds (State.addJournal s a1 a2) := by
  unfold State.addJournal
  simp (maxDischargeDepth := 30) [h]

@[simp] theorem State.freeBytes_kept (a1 : Nat) (h : K.holds s) : K.holds (State.freeBytes s a1).2 := by
  unfold State.freeBytes
  dsimp only
  exact s.modDev_kept _ h

@[simp] theorem State.scramble_kept (a1 : Nat) (a2 : Range) (h : K.holds s) :
    K.holds (State.scramble s a1 a2) := by
  unfold State.scramble
  split
  · split
    · exact h
    · refine kept_foldl _ _ (fun u x hu => ?_) h
      dsimp only
      split
      · exact State.modTrain_kept _ _ (State.spillWrite_kept _ _ _ _ (u.freeBytes_kept _ hu))
      · exact hu
  · refine kept_foldl _ _ (fun u x hu => ?_) h
    split
    · exact hu
    · exact State.modTrain_kept _ _ (State.hbmWrite_kept _ _ _ (u.freeBytes_kept _ hu))

@[simp] theorem State.unclaim_kept (a1 : Work) (h : K.holds s) : K.holds (State.unclaim s a1) := by
  unfold State.unclaim
  refine kept_foldl _ _ ?_ h
  intro u x hu
  exact kept_foldl _ _ (fun v c hv => State.releaseSlot_kept _ _ _ hv) hu

@[simp] theorem State.spoil_kept (a1 : Work) (a2 : Nat) (a3 : List Range) (a4 : Refuse) (h : K.holds s) :
    K.holds (State.spoil s a1 a2 a3 a4) := by
  unfold State.spoil
  split
  · have h2 := kept_foldl (fun (s : State) x => s.scramble a1.train x)
      ((((s.train a1.train).doneSteps a1 a2).flatMap a1.stepWrites ++ a3).eraseDups) (fun u x hu => u.scramble_kept _ _ hu) h
    dsimp only
    split
    · exact State.unclaim_kept _ h2
    · exact h2
  · exact h

@[simp] theorem RunEnd.spoiled_kept (e : RunEnd) (w : Work) (k : Nat) (r : Refuse) (h : K.holds e.s) : K.holds (e.spoiled w k r) :=
  e.s.spoil_kept _ _ _ _ h

@[simp] theorem State.runProgram_kept (a1 : Work) (a2 : RunCtx) (a3 : Bool) (h : K.holds s) :
    K.holds (State.runProgram s a1 a2 a3).s := by
  exact State.runDescs_kept _ _ _ _ _ _ (by simp [h])

theorem State.scoreRuns_kept (w : Work) (seed : Nat) (seq : Pool × Nat) (n k : Nat) (h : K.holds s) :
    K.holds (State.scoreRuns w seed seq n k s).s := by
  induction n generalizing s k with
  | zero => exact h
  | succ n ih =>
    rw [State.scoreRuns]
    dsimp only
    split
    · exact s.runProgram_kept _ _ _ h
    · exact ih _ (s.runProgram_kept _ _ _ h)

@[simp] theorem State.readStep_kept (a1 : Work) (a2 : Nat) (a3 : Nat) (a4 : Bool) (h : K.holds s) :
    K.holds (State.readStep s a1 a2 a3 a4) := by
  unfold State.readStep
  repeat' (first | split | simp_all +contextual (maxDischargeDepth := 30))

@[simp] theorem State.writeStep_kept (a1 : Work) (a2 : Nat) (a3 : Nat) (a4 : Nat) (a5 : Bool) (h : K.holds s) :
    K.holds (State.writeStep s a1 a2 a3 a4 a5) := by
  unfold State.writeStep
  (repeat' split) <;> simp_all +contextual (maxDischargeDepth := 30)

@[simp] theorem State.fillHbm_kept (a1 : Nat) (a2 : Nat) (a3 : Nat) (a4 : Nat) (h : K.holds s) :
    K.holds (State.fillHbm s a1 a2 a3 a4).1 := by
  unfold State.fillHbm
  refine kept_foldl_fst _ _ ?_ _ h
  intro p x hp
  dsimp only
  split
  · exact hp
  · simp [hp]

/-- What a spill fill answers, either way, survives. -/
theorem State.fillSlot_kept (fn p : Nat) (r : Region) (whole : Range) (lo hi i : Nat) (h : K.holds s) :
    (∀ e, s.fillSlot fn p r whole lo hi i = .error e → K.holds e.1) ∧ (∀ e, s.fillSlot fn p r whole lo hi i = .ok e → K.holds e.1) := by
  unfold State.fillSlot
  dsimp only
  split
  · refine ⟨fun e he => (by cases he), fun e he => ?_⟩
    cases he
    exact State.releaseSlot_kept _ _ _ (s.useAsMemory_kept _ _ h)
  · split
    · refine ⟨fun e he => ?_, fun e he => (by cases he)⟩
      cases he
      exact h
    · next u hu =>
      have hk := s.claimRange_kept _ _ _ _ h u hu
      split
      · refine ⟨fun e he => ?_, fun e he => (by cases he)⟩
        cases he
        exact u.badSlot_kept _ _ _ hk
      · refine ⟨fun e he => (by cases he), fun e he => ?_⟩
        cases he
        exact u.spillWrite_kept _ _ _ _ hk

theorem kept_foldl_except {α β E : Type} (f : State × β → α → Except (State × E) (State × β)) (xs : List α)
    (hf : ∀ x i, K.holds x.1 → (∀ e, f x i = .error e → K.holds e.1) ∧ (∀ e, f x i = .ok e → K.holds e.1))
    (o : Except (State × E) (State × β)) (ho : (∀ e, o = .error e → K.holds e.1) ∧ (∀ e, o = .ok e → K.holds e.1)) :
    (∀ e, xs.foldl (fun o i => o.bind (fun x => f x i)) o = .error e → K.holds e.1)
      ∧ (∀ e, xs.foldl (fun o i => o.bind (fun x => f x i)) o = .ok e → K.holds e.1) := by
  induction xs generalizing o with
  | nil => exact ho
  | cons x xs ih =>
    refine ih _ ?_
    cases o with
    | error e => exact ho
    | ok e => exact hf e x (ho.2 e rfl)

theorem State.fillSpill_kept (fn p a n : Nat) (whole : Range) (h : K.holds s) :
    (∀ e, s.fillSpill fn p a n whole = .error e → K.holds e.1) ∧ (∀ e, s.fillSpill fn p a n whole = .ok e → K.holds e.1) := by
  unfold State.fillSpill
  split
  · refine ⟨fun e he => ?_, fun e he => (by cases he)⟩
    cases he
    exact h
  · refine kept_foldl_except _ _ (fun x i hx => ?_) _ ⟨fun e he => (by cases he), fun e he => by cases he; exact h⟩
    next r _ =>
    have hs := State.fillSlot_kept (K := K) (s := x.1) fn p r whole (max (spillOffset a) (i * r.slotSize))
      (min (spillOffset a + n) ((i + 1) * r.slotSize)) i hx
    dsimp only
    generalize x.1.fillSlot fn p r whole (max (spillOffset a) (i * r.slotSize)) (min (spillOffset a + n) ((i + 1) * r.slotSize)) i
      = o at hs ⊢
    cases o with
    | error e => exact ⟨fun f hf => by cases hf; exact hs.1 e rfl, fun f hf => (by cases hf)⟩
    | ok e => exact ⟨fun f hf => (by cases hf), fun f hf => by cases hf; exact hs.2 e rfl⟩

@[simp] theorem State.fillStepRun_kept (a1 : Work) (a2 : Nat) (a3 : Nat) (a4 : Nat) (a5 : Nat) (a6 : Bool) (h : K.holds s) :
    K.holds (State.fillStepRun s a1 a2 a3 a4 a5 a6) := by
  unfold State.fillStepRun
  dsimp only
  split
  · have hf := s.fillSpill_kept (a1.train + 1) a5 (stepRange ⟨a3, a4⟩ (a1.aux.headD 65536) a2).start
      (stepRange ⟨a3, a4⟩ (a1.aux.headD 65536) a2).len ⟨a3, a4⟩ h
    split
    · next u m e =>
      have hk : K.holds u := hf.2 _ e
      split <;> simp [hk]
    · next u m e =>
      have hk : K.holds u := hf.1 _ e
      exact State.failIssue_kept _ _ (State.spoil_kept _ _ _ _ hk)
  · have hk := s.fillHbm_kept a1.train a5 (stepRange ⟨a3, a4⟩ (a1.aux.headD 65536) a2).start
      (stepRange ⟨a3, a4⟩ (a1.aux.headD 65536) a2).len h
    split
    · exact State.finishWork_kept _ _ _ _ (State.modWork_kept _ _ _ hk)
    · exact State.modWork_kept _ _ _ hk

@[simp] theorem State.modelStep_kept (a1 : Work) (a2 : Nat) (a3 : List Byte) (a4 : Nat) (a5 : Nat) (a6 : Bool) (h : K.holds s) :
    K.holds (State.modelStep s a1 a2 a3 a4 a5 a6) := by
  unfold State.modelStep
  (repeat' split) <;> simp_all +contextual (maxDischargeDepth := 30)

@[simp] theorem State.pinStep_kept (a1 : Work) (a2 : Nat) (a3 : Nat) (a4 : Nat) (a5 : Nat) (a6 : Bool) (h : K.holds s) :
    K.holds (State.pinStep s a1 a2 a3 a4 a5 a6) := by
  unfold State.pinStep
  dsimp only
  generalize (s.train a1.train).objects.models.find? (·.handle == a3) = m
  cases m with
  | none => exact s.failIssue_kept _ _ h
  | some x =>
    dsimp only
    generalize (List.range 4).filterMap (fun i => if 4 * a2 + i < a5 then some (4 * a2 + i) else none) = slabs
    have hw := kept_foldl (fun (s : State) i => s.writeSlab a1.train x (a4 + i) i) slabs (fun u i hu => u.writeSlab_kept _ _ _ _ hu) h
    generalize slabs.foldl (fun (s : State) i => s.writeSlab a1.train x (a4 + i) i) s = v at hw ⊢
    have ht := State.testPins_kept a1.train x a4 a5 hw
    generalize v.testPins a1.train x a4 a5 = e at ht ⊢
    generalize slabs.findSome? _ = r
    obtain ⟨u, o⟩ := e
    cases r with
    | some r => exact s.failIssue_kept _ _ h
    | none =>
      dsimp only
      split
      · exact hw
      · cases o with
        | none => exact State.finishWork_kept _ _ _ _ ht
        | some o => exact State.failIssue_kept _ _ (State.releasePin_kept _ _ _ _ ht)

@[simp] theorem State.runStep_kept (a1 : Work) (a2 : Nat) (h : K.holds s) :
    K.holds (State.runStep s a1 a2) := by
  unfold State.runStep
  dsimp only
  have hk := s.runProgram_kept a1 (a1.runCtx a2 0) true h
  split
  · exact State.failIssue_kept _ _ (RunEnd.spoiled_kept _ _ _ _ hk)
  · exact State.finishWork_kept _ _ _ _ hk

@[simp] theorem State.poolStep_kept (a1 : Work) (a2 : Nat) (a3 : Nat) (a4 : Nat) (a5 : Nat) (a6 : Bool) (h : K.holds s) :
    K.holds (State.poolStep s a1 a2 a3 a4 a5 a6) := by
  unfold State.poolStep
  extract_lets p r inside v1 v2
  have h1 : K.holds v1 := kept_foldl _ _ (fun u i hu => by split <;> simp [hu]) h
  have h2 : K.holds v2 := kept_foldl _ _ (fun u i hu => by split <;> simp [hu]) h1
  (repeat' split) <;> first | exact h2 | exact State.finishWork_kept _ _ _ _ h2 | exact State.failIssue_kept _ _ (s.spoil_kept _ _ _ _ h)

@[simp] theorem State.notePositions_kept (a1 : Work) (a2 : Nat) (h : K.holds s) : K.holds (State.notePositions s a1 a2) := by
  unfold State.notePositions
  split <;> simp [h]

@[simp] theorem State.failSequence_kept (a1 : Work) (a2 : Nat) (a3 : Refuse) (h : K.holds s) :
    K.holds (State.failSequence s a1 a2 a3) := State.failIssue_kept _ _ (s.notePositions_kept _ _ h)

@[simp] theorem State.scoreStep_kept (a1 : Work) (a2 a3 a4 a5 : Nat) (h : K.holds s) :
    K.holds (State.scoreStep s a1 a2 a3 a4 a5) := by
  unfold State.scoreStep
  dsimp only
  split
  · simp [h]
  · split
    · exact State.failSequence_kept _ _ _ (State.dropPoisoned_kept _ _ _ (s.modWork_kept _ _ _ h))
    · next b hb =>
      have hk := fun q => State.scoreRuns_kept a1 a4 q a5 0
        (State.appendOne_kept _ _ _ (State.addJournal_kept _ _ (s.modWork_kept _ _ _ h)) b hb)
      split
      · exact State.failSequence_kept _ _ _ (State.undoSequence_kept _ _ _ _ (RunEnd.spoiled_kept _ _ _ _ (hk _)))
      · exact State.finishWork_kept _ _ _ _ (State.modWork_kept _ _ _ (hk _))

@[simp] theorem State.prefillStep_kept (a1 : Work) (a2 : Nat) (a3 : Nat) (a4 : Bool) (h : K.holds s) :
    K.holds (State.prefillStep s a1 a2 a3 a4) := by
  unfold State.prefillStep
  dsimp only
  split
  · simp [h]
  · split
    · exact State.failSequence_kept _ _ _ (State.undoSequence_kept _ _ _ _ (State.dropPoisoned_kept _ _ _ h))
    · next b hb =>
      have hk := fun x => b.s.runProgram_kept a1 x (decide (a2 = 0)) (State.appendMany_kept _ _ _ _ _ (State.addJournal_kept _ _ h) b hb)
      split
      · exact State.failSequence_kept _ _ _ (State.undoSequence_kept _ _ _ _ (RunEnd.spoiled_kept _ _ _ _ (hk _)))
      · split
        · exact State.finishWork_kept _ _ _ _ (State.modWork_kept _ _ _ (hk _))
        · exact State.modWork_kept _ _ _ (hk _)

@[simp] theorem State.jobStep_kept (a1 : Work) (a2 : Nat) (a3 : Nat) (a4 : Bool) (h : K.holds s) :
    K.holds (State.jobStep s a1 a2 a3 a4) := by
  unfold State.jobStep
  dsimp only
  have hk := s.runProgram_kept a1 (a1.runCtx a3 a2) (decide (a2 = 0)) h
  split
  · exact State.failIssue_kept _ _ (RunEnd.spoiled_kept _ _ _ _ hk)
  · split
    · exact State.finishWork_kept _ _ _ _ hk
    · exact hk

@[simp] theorem State.decodeStep_kept (a1 : Work) (a2 a3 : Nat) (a4 : Bool) (h : K.holds s) :
    K.holds (State.decodeStep s a1 a2 a3 a4) := by
  unfold State.decodeStep
  dsimp only
  cases (s.train a1.train).objects.sessions.find? (·.handle == a3) with
  | none => exact s.failIssue_kept _ _ h
  | some x =>
    dsimp only
    generalize hc : (if a4 = true then x.previous else x.active) = c
    have hd := State.decodeStream_kept a1 x a1.admittedTo c (s.addJournal_kept a1.train x.restored h)
    generalize State.decodeStream _ _ _ _ _ = v at hd ⊢
    split
    · exact State.failIssue_kept _ _ (s.spoil_kept _ _ _ _ h)
    · exact hd

@[simp] theorem State.diagStep_kept (a1 : Work) (a2 : Bool) (h : K.holds s) :
    K.holds (State.diagStep s a1 a2) := by
  unfold State.diagStep
  split
  · exact h
  · dsimp only
    refine State.finishWork_kept _ _ _ _ (State.modWork_kept _ _ _ (kept_foldl _ _ ?_ (State.modDev_kept _ h)))
    intro u p hu
    refine u.modPart_kept _ _ hu (fun p => List.length_map ..) (fun p => rfl) (fun p hp => hp) ?_
    intro p hp
    refine Core.all_map_wf _ _ ?_ hp
    intro c hc
    have h1 := Core.wf_clm hc
    have h2 := Core.wf_stop hc
    have h3 := Core.wf_check hc
    simp [h1, h2, h3]

@[simp] theorem State.execStep_kept (a1 : Work) (a2 : Nat) (a3 : Bool) (a4 : Bool) (h : K.holds s) :
    K.holds (State.execStep s a1 a2 a3 a4) := by
  unfold State.execStep
  (repeat' split) <;> simp_all +contextual (maxDischargeDepth := 30)

@[simp] theorem State.cutWork_kept (a1 : Nat) (a2 : Nat) (a3 : Nat) (h : K.holds s) :
    K.holds (State.cutWork s a1 a2 a3) := by
  unfold State.cutWork
  (repeat' split) <;> simp_all +contextual (maxDischargeDepth := 30)

@[simp] theorem State.fixSteps_kept (a1 : Work) (h : K.holds s) :
    K.holds (State.fixSteps s a1) := by
  unfold State.fixSteps
  (repeat' split) <;> simp_all +contextual (maxDischargeDepth := 30)

@[simp] theorem State.execZero_kept (a1 : Work) (h : K.holds s) :
    K.holds (State.execZero s a1) := by
  unfold State.execZero
  repeat' (first | split | simp_all +contextual (maxDischargeDepth := 30))

@[simp] theorem State.modObjects_kept (a1 : Nat) (a2 : Objects → Objects) (h : K.holds s) :
    K.holds (State.modObjects s a1 a2) := by
  unfold State.modObjects
  simp (maxDischargeDepth := 30) [h]

@[simp] theorem State.commitWork_kept (a1 : Work) (h : K.holds s) :
    K.holds (State.commitWork s a1) := by
  unfold State.commitWork
  repeat' (first | split | simp_all +contextual (maxDischargeDepth := 30))

end Sys2Proof.Machine
end

