-- ==== Sys2Proof/Laws/KeptCommit.lean ====
section
/-! SUPPORT. What the ledger, security, checkpoints, the Bellows window and the links keep. -/

namespace Sys2Proof.Machine

variable {K : Kept} {s : State}

@[simp] theorem State.checkFlush_kept  (h : K.holds s) :
    K.holds (State.checkFlush s) := by
  unfold State.checkFlush
  simp +contextual (maxDischargeDepth := 30) [h, apply_ite K.holds]

@[simp] theorem State.freeClosing_kept (a1 : Nat) (h : K.holds s) :
    K.holds (State.freeClosing s a1) := by
  unfold State.freeClosing
  simp (maxDischargeDepth := 30) [h]

@[simp] theorem State.failRetire_kept (a1 : Nat) (h : K.holds s) :
    K.holds (State.failRetire s a1) := by
  unfold State.failRetire
  simp +contextual (maxDischargeDepth := 30) [h, apply_ite K.holds]

@[simp] theorem State.elect_kept  (h : K.holds s) :
    K.holds (State.elect s) := by
  unfold State.elect
  (repeat' split) <;> simp_all +contextual (maxDischargeDepth := 30)

@[simp] theorem State.bayFault_kept (a1 : Nat) (a2 : Nat) (h : K.holds s) :
    K.holds (State.bayFault s a1 a2) := by
  unfold State.bayFault
  simp (maxDischargeDepth := 30) [h]

@[simp] theorem State.noteBayFull_kept (a1 : Nat) (h : K.holds s) :
    K.holds (State.noteBayFull s a1) := by
  unfold State.noteBayFull
  simp (maxDischargeDepth := 30) [h]

@[simp] theorem State.eject_kept (a1 : Nat) (h : K.holds s) :
    K.holds (State.eject s a1) := by
  unfold State.eject
  repeat' (first | split | simp_all +contextual (maxDischargeDepth := 30))

@[simp] theorem State.ejected_kept (a1 : Nat) (h : K.holds s) :
    K.holds (State.ejected s a1) := by
  unfold State.ejected
  refine kept_foldl _ _ ?_ h
  intro u w hu
  dsimp only
  split <;> simp [hu]

@[simp] theorem State.startPolicy_kept (a1 : Work) (a2 : Nat) (h : K.holds s) :
    K.holds (State.startPolicy s a1 a2) := by
  unfold State.startPolicy
  simp (maxDischargeDepth := 30) [h]

@[simp] theorem State.revertPolicy_kept (h : K.holds s) :
    K.holds (State.revertPolicy s) := by
  unfold State.revertPolicy
  split <;> simp (maxDischargeDepth := 30) [h]

@[simp] theorem State.applyPolicy_kept (a1 : Nat) (h : K.holds s) :
    K.holds (State.applyPolicy s a1) := by
  unfold State.applyPolicy
  extract_lets v1 v2
  have h1 : K.holds v1 := s.modLedger_kept _ h
  have h2 : K.holds v2 := by
    dsimp only [v2]
    (repeat' split) <;> first | exact h1 | exact State.modLedger_kept _ h1
  split
  · exact State.setHold_kept _ h2
  · exact h2

@[simp] theorem State.startRetire_kept (a1 : Work) (a2 : Nat) (h : K.holds s) :
    K.holds (State.startRetire s a1 a2) := by
  unfold State.startRetire
  split
  · exact s.failIssue_kept _ _ h
  · extract_lets u d rs keep room
    have h1 : K.holds u := State.tryGap_kept (s.modLedger_kept _ h)
    split
    next v y e =>
      have hy : K.holds y := by
        have ey := congrArg Prod.snd e
        dsimp only at ey
        rw [← ey]
        split
        · exact u.appendOpen_kept _ _ h1
        · split
          · exact u.toGasp_kept _ _ _ h1
          · exact State.fresh_kept (u.loseEntry_kept _ _ _ h1)
      extract_lets z
      have hz : K.holds z := y.modWork_kept _ _ _ hy
      split
      · exact z.failIssue_kept _ _ hz
      · exact State.modWork_kept _ _ _ (State.notePressure_kept (z.closeFolio_kept _ _ hz))

@[simp] theorem State.startFlush_kept (a1 : Work) (h : K.holds s) :
    K.holds (State.startFlush s a1) := by
  unfold State.startFlush
  refine State.checkFlush_kept (State.modWork_kept _ _ _ ?_)
  split
  · exact s.closeFolio_kept _ _ h
  · exact h

@[simp] theorem State.startEject_kept (a1 : Work) (a2 : Nat) (h : K.holds s) :
    K.holds (State.startEject s a1 a2) := by
  unfold State.startEject
  (repeat' split) <;> simp_all +contextual (maxDischargeDepth := 30)

@[simp] theorem State.folioCommitted_kept (a1 : Nat) (a2 : Folio) (a3 : Bool) (h : K.holds s) :
    K.holds (State.folioCommitted s a1 a2 a3) := by
  unfold State.folioCommitted
  simp +contextual (maxDischargeDepth := 30) [h, apply_ite K.holds]

@[simp] theorem State.folioTorn_kept (a1 : Nat) (h : K.holds s) :
    K.holds (State.folioTorn s a1) := by
  unfold State.folioTorn
  simp (maxDischargeDepth := 30) [h]

@[simp] theorem State.mountGood_kept (a1 : Nat) (a2 : CartridgePages) (h : K.holds s) :
    K.holds (State.mountGood s a1 a2) := by
  unfold State.mountGood
  (repeat' split) <;> simp_all +contextual (maxDischargeDepth := 30)

@[simp] theorem State.mountOutcome_kept (a1 : Nat) (a2 : CartridgePages) (a3 : Bool) (h : K.holds s) :
    K.holds (State.mountOutcome s a1 a2 a3) := by
  unfold State.mountOutcome
  simp (maxDischargeDepth := 30) [h]

@[simp] theorem State.modPresence_kept (a1 : Presence → Presence) (h : K.holds s) :
    K.holds (State.modPresence s a1) := by
  unfold State.modPresence
  simp (maxDischargeDepth := 30) [h]

@[simp] theorem State.closeWindow_kept (a1 : Nat) (h : K.holds s) :
    K.holds (State.closeWindow s a1) := by
  unfold State.closeWindow
  (repeat' split) <;> simp_all +contextual (maxDischargeDepth := 30)

@[simp] theorem State.loopBreak_kept  (h : K.holds s) :
    K.holds (State.loopBreak s) := by
  unfold State.loopBreak
  simp (maxDischargeDepth := 30) [h]

@[simp] theorem State.latchUnpowered_kept  (h : K.holds s) :
    K.holds (State.latchUnpowered s) := by
  unfold State.latchUnpowered
  simp (maxDischargeDepth := 30) [h]

@[simp] theorem State.noteInterruption_kept (a1 : Bool) (h : K.holds s) :
    K.holds (State.noteInterruption s a1) := by
  unfold State.noteInterruption
  simp (maxDischargeDepth := 30) [h]

@[simp] theorem State.startSealClear_kept (a1 : Work) (h : K.holds s) :
    K.holds (State.startSealClear s a1) := by
  unfold State.startSealClear
  (repeat' split) <;> simp_all +contextual (maxDischargeDepth := 30)

@[simp] theorem State.modBank_kept (a1 : Nat) (a2 : Bank → Bank) (h : K.holds s) :
    K.holds (State.modBank s a1 a2) := by
  unfold State.modBank
  simp (maxDischargeDepth := 30) [h]

@[simp] theorem State.startFirmware_kept (a1 : Work) (a2 : Nat) (h : K.holds s) :
    K.holds (State.startFirmware s a1 a2) := by
  unfold State.startFirmware
  repeat' (first | split | simp_all +contextual (maxDischargeDepth := 30))

@[simp] theorem State.startOwnerKey_kept (a1 : Work) (h : K.holds s) :
    K.holds (State.startOwnerKey s a1) := by
  unfold State.startOwnerKey
  simp (maxDischargeDepth := 30) [h]

@[simp] theorem State.commitQuote_kept (a1 : Work) (a2 : List Byte) (h : K.holds s) :
    K.holds (State.commitQuote s a1 a2) := by
  unfold State.commitQuote
  simp (maxDischargeDepth := 30) [h]

@[simp] theorem State.commit_kept (a1 : Work) (h : K.holds s) :
    K.holds (State.commit s a1) := by
  unfold State.commit
  (repeat' split) <;> simp_all +contextual (maxDischargeDepth := 30)

@[simp] theorem State.dropClaims_kept (a1 : Nat) (h : K.holds s) : K.holds (State.dropClaims s a1) := by
  unfold State.dropClaims
  simp (maxDischargeDepth := 30) [h]

@[simp] theorem State.clearCores_kept (a1 : Nat) (h : K.holds s) : K.holds (State.clearCores s a1) := by
  unfold State.clearCores
  refine kept_foldl _ _ (fun u p hu => u.modPart_kept _ _ hu (fun p => List.length_map ..) (fun p => rfl) (fun p hp => hp) ?_) h
  exact fun p hp => Core.all_map_wf _ _ (fun c hc => rfl) hp

@[simp] theorem State.clearGroup_kept (a1 : Nat) (h : K.holds s) :
    K.holds (State.clearGroup s a1) := by
  unfold State.clearGroup
  exact State.modTrain_kept _ _ (kept_foldl _ _ (fun u p hu => u.modFn_kept _ _ hu (fun f => rfl) (fun f => rfl) (fun f => rfl))
    (State.clearCores_kept _ (s.dropClaims_kept _ h)))

@[simp] theorem State.imageSlots_kept (a1 : Work) (a2 a3 a4 a5 : Nat) (h : K.holds s) :
    K.holds (State.imageSlots s a1 a2 a3 a4 a5).1 := by
  unfold State.imageSlots
  split
  · exact h
  · dsimp only
    split
    · exact h
    · exact s.noteHeaders_kept _ _ h

@[simp] theorem State.returnImageSlot_kept (a1 : Work) (a2 : Nat) (a3 : Nat) (a4 : List Byte) (h : K.holds s) :
    K.holds (State.returnImageSlot s a1 a2 a3 a4) := by
  unfold State.returnImageSlot
  (repeat' split) <;> simp_all +contextual (maxDischargeDepth := 30)

@[simp] theorem State.returnImage_kept (a1 : Work) (a2 : Nat) (a3 : List Byte) (a4 : List Nat) (h : K.holds s) :
    K.holds (State.returnImage s a1 a2 a3 a4) := by
  unfold State.returnImage
  simp +contextual (maxDischargeDepth := 30) [h, apply_ite K.holds]

@[simp] theorem State.startShadow_kept (a1 : Work) (a2 : Nat) (a3 : Nat) (h : K.holds s) :
    K.holds (State.startShadow s a1 a2 a3) := by
  unfold State.startShadow
  simp (maxDischargeDepth := 30) [h]

@[simp] theorem State.drainNow_kept (a1 : Nat) (h : K.holds s) :
    K.holds (State.drainNow s a1) := by
  unfold State.drainNow
  (repeat' split) <;> simp_all +contextual (maxDischargeDepth := 30)

@[simp] theorem State.freezeAt_kept (a1 : Nat) (a2 : Nat) (h : K.holds s) :
    K.holds (State.freezeAt s a1 a2) := by
  unfold State.freezeAt
  split
  · exact h
  · split
    · exact h
    · split
      · exact h
      · dsimp only
        split
        · exact State.modTrain_kept _ _ (State.modWork_kept _ _ _ (s.imageSlots_kept _ _ _ _ _ h))
        · exact State.failIssue_kept _ _ (State.modTrain_kept _ _ (State.modWork_kept _ _ _ (s.imageSlots_kept _ _ _ _ _ h)))

@[simp] theorem State.sealDrain_kept (a1 : Nat) (a2 : Nat) (h : K.holds s) :
    K.holds (State.sealDrain s a1 a2) := by
  unfold State.sealDrain
  (repeat' split) <;> simp_all +contextual (maxDischargeDepth := 30)

@[simp] theorem State.startStop_kept (a1 : Work) (a2 : Nat) (h : K.holds s) :
    K.holds (State.startStop s a1 a2) := by
  unfold State.startStop
  dsimp only
  split
  · simp [h]
  · split
    · split <;> simp [h]
    · simp [h]

@[simp] theorem State.writePayloads_kept (a1 : Nat) (a2 : Region) (a3 : List HeldSlot) (h : K.holds s) :
    K.holds (State.writePayloads s a1 a2 a3) := by
  unfold State.writePayloads
  simp +contextual (maxDischargeDepth := 30) [h]

theorem State.placeImages_kept (w : Work) (region first : Nat) (xs : List (Nat × List Byte)) (acc : List HeldSlot) (h : K.holds s) :
    K.holds (State.placeImages w region first xs s acc).1 := by
  induction xs generalizing s first acc with
  | nil => exact h
  | cons x xs ih =>
    obtain ⟨i, image⟩ := x
    rw [State.placeImages]
    have hk := s.imageSlots_kept w region first acc.length image.length h
    generalize s.imageSlots w region first acc.length image.length = e at hk ⊢
    obtain ⟨u, hs, o⟩ := e
    cases o with
    | some r => exact hk
    | none =>
      dsimp only
      split
      · exact hk
      · exact ih _ _ (u.writePayloads_kept _ _ _ hk)

@[simp] theorem State.restartStopped_kept (h : K.holds s) : K.holds (State.restartStopped s) := by
  unfold State.restartStopped
  exact State.modDev_kept _ (kept_foldl _ _ (fun u t hu => u.modTrain_kept _ _ hu) h)

@[simp] theorem State.failStop_kept (a1 : Work) (a2 : Refuse) (h : K.holds s) : K.holds (State.failStop s a1 a2) :=
  State.restartStopped_kept (s.failIssue_kept _ _ h)

@[simp] theorem State.startRestore_kept (a1 : Work) (a2 : Nat) (a3 : Nat) (h : K.holds s) :
    K.holds (State.startRestore s a1 a2 a3) := by
  unfold State.startRestore
  (repeat' split) <;> simp_all +contextual (maxDischargeDepth := 30)

@[simp] theorem State.loadPages_kept (a1 : Nat) (a2 : List (Nat × Nat × List Byte)) (h : K.holds s) :
    K.holds (State.loadPages s a1 a2) := by
  unfold State.loadPages
  simp +contextual (maxDischargeDepth := 30) [h, apply_ite K.holds]

@[simp] theorem State.repin_kept (a1 : Nat) (a2 : Objects) (a3 : Residency) (h : K.holds s) :
    K.holds (State.repin s a1 a2 a3) := by
  unfold State.repin
  split
  · exact h
  · exact kept_foldl _ _ (fun u i hu => u.writeSlab_kept _ _ _ _ hu) h

@[simp] theorem State.failRestore_kept (a1 : Work) (a2 : List Byte) (a3 : Refuse) (h : K.holds s) :
    K.holds (State.failRestore s a1 a2 a3) := by
  unfold State.failRestore
  dsimp only
  refine kept_foldl _ _ (fun u x hu => ?_) ?_
  · split
    · exact u.modPart_kept _ _ hu (fun p => rfl) (fun p => rfl) (fun p hp => Memory.wf_clear _ _ hp) (fun p hp => hp)
    · exact hu
  · have hc := State.modTrain_kept (K := K) a1.train (fun x => { x.dropWork with
        objects := x.objects.emptied, works := x.works, due := x.due, n5Next := x.n5Next, floor := 0, stepNext := x.stepNext })
      (State.clearCores_kept a1.train (s.failIssue_kept a1 a3 h))
    split
    · exact hc
    · exact State.loadPages_kept _ _ hc

@[simp] theorem State.commitRestore_kept (a1 : Work) (h : K.holds s) :
    K.holds (State.commitRestore s a1) := by
  unfold State.commitRestore
  dsimp only
  refine State.modWork_kept _ _ _ (kept_foldl_fst _ _ ?_ _ ?_)
  rotate_left
  · dsimp only
    exact State.modObjects_kept _ _ h
  rintro ⟨u, n⟩ r hu
  dsimp only
  split
  · exact hu
  · dsimp only
    exact State.modTrain_kept _ _ (State.modDev_kept _ hu)

@[simp] theorem State.undoAppends_kept (a1 : Nat) (a2 : Work) (h : K.holds s) : K.holds (State.undoAppends s a1 a2) := by
  have hb (n : Nat) (old : List Memory) : K.holds (match s.sequence? a1 a2.fn n with
      | some (p, j, _) => s.undoSequence a1 old p j
      | none => s) := by split <;> simp [h]
  unfold State.undoAppends
  dsimp only
  (repeat' split) <;> first | exact h | exact hb _ _ | exact s.undoSequence_kept _ _ _ _ h | exact s.setSession_kept _ _ h

@[simp] theorem State.undoFinished_kept (a1 : Nat) (a2 : Work) (h : K.holds s) :
    K.holds (State.undoFinished s a1 a2) := by
  unfold State.undoFinished
  repeat' (first | split | simp_all +contextual (maxDischargeDepth := 30))

@[simp] theorem State.noteOwn_kept (a1 : Work) (h : K.holds s) : K.holds (State.noteOwn s a1) := by
  unfold State.noteOwn
  (repeat' split) <;> first | exact h | exact s.notePositions_kept _ _ h

@[simp] theorem State.endWorks_kept (a1 : Nat) (a2 : List Work) (a3 : Refuse) (h : K.holds s) :
    K.holds (State.endWorks s a1 a2 a3) := by
  unfold State.endWorks
  refine kept_foldl _ _ (fun u w hu => ?_) (kept_foldl _ _ (fun u w hu => u.undoFinished_kept _ _ hu) h)
  extract_lets v1 v2
  have h1 : K.holds v1 := by
    dsimp only [v1]
    split
    · exact u.modTrain_kept _ _ hu
    · exact hu
  have h2 : K.holds v2 := by
    dsimp only [v2]
    split
    · exact State.restartStopped_kept h1
    · exact h1
  exact State.endWork_kept _ _ _ (State.noteOwn_kept _ h2)

@[simp] theorem State.endRegionWorks_kept (a1 : Nat) (a2 : Nat) (a3 : Nat) (a4 : Nat) (h : K.holds s) :
    K.holds (State.endRegionWorks s a1 a2 a3 a4).1 := by
  unfold State.endRegionWorks
  refine kept_foldl_fst _ _ ?_ _ h
  rintro ⟨u, n⟩ t hu
  exact State.endWorks_kept _ _ _ hu

@[simp] theorem State.withdraw_kept (a1 : Nat) (a2 : Nat) (h : K.holds s) :
    K.holds (State.withdraw s a1 a2) := by
  unfold State.withdraw
  simp (maxDischargeDepth := 30) [h]

@[simp] theorem State.startDeregister_kept (a1 : Work) (h : K.holds s) :
    K.holds (State.startDeregister s a1) := by
  unfold State.startDeregister
  simp (maxDischargeDepth := 30) [h]

@[simp] theorem State.forceDeregister_kept (a1 : Nat) (h : K.holds s) :
    K.holds (State.forceDeregister s a1) := by
  unfold State.forceDeregister
  refine kept_foldl _ _ ?_ h
  intro u w hu
  dsimp only
  split
  · split
    · exact State.failIssue_kept _ _ hu
    · exact State.modWork_kept _ _ _ (State.withdraw_kept _ _ (State.endRegionWorks_kept _ _ _ _ hu))
  · exact hu

@[simp] theorem State.bellowsFault_kept (a1 : Nat) (a2 : Nat) (a3 : Nat) (a4 : Nat) (a5 : Bool) (h : K.holds s) :
    K.holds (State.bellowsFault s a1 a2 a3 a4 a5) := by
  unfold State.bellowsFault
  simp (maxDischargeDepth := 30) [h]

@[simp] theorem State.retireSpill_kept (a1 : Nat) (a2 : Region) (a3 : Nat) (h : K.holds s) :
    K.holds (State.retireSpill s a1 a2 a3) := by
  unfold State.retireSpill
  simp (maxDischargeDepth := 30) [h]

@[simp] theorem State.slotReadFailed_kept (a1 a2 a3 a4 : Nat) (h : K.holds s) :
    K.holds (State.slotReadFailed s a1 a2 a3 a4) := by
  unfold State.slotReadFailed
  extract_lets r spill needs
  split
  · extract_lets v1 v2
    have h1 : K.holds v1 := by
      dsimp only [v1]
      split
      · exact s.endWorks_kept _ _ _ h
      · exact h
    refine State.bellowsFault_kept _ _ _ _ _ ?_
    dsimp only [v2]
    split
    · exact State.retireSpill_kept _ _ _ h1
    · exact State.modWork_kept _ _ _ h1
  · exact h

@[simp] theorem State.sendPort_kept (a1 : Nat) (a2 : Nat) (a3 : List Nat) (a4 : List Byte) (h : K.holds s) :
    K.holds (State.sendPort s a1 a2 a3 a4) := by
  unfold State.sendPort
  simp (maxDischargeDepth := 30) [h]

@[simp] theorem State.sendTo_kept (a1 : Nat) (a2 : Nat) (a3 : List Nat) (a4 : List Byte) (h : K.holds s) :
    K.holds (State.sendTo s a1 a2 a3 a4) := by
  unfold State.sendTo
  (repeat' split) <;> simp_all +contextual (maxDischargeDepth := 30)

@[simp] theorem State.sendAll_kept (a1 : Nat) (a2 : List Nat) (a3 : List Byte) (h : K.holds s) :
    K.holds (State.sendAll s a1 a2 a3) := by
  unfold State.sendAll
  simp +contextual (maxDischargeDepth := 30) [h, apply_ite K.holds]

@[simp] theorem State.modLink_kept (a1 : Nat) (a2 : Link → Link) (h : K.holds s) :
    K.holds (State.modLink s a1 a2) := by
  unfold State.modLink
  simp (maxDischargeDepth := 30) [h]

@[simp] theorem State.linkEvent_kept (a1 : Nat) (a2 : Nat) (a3 : Nat) (a4 : List Byte) (h : K.holds s) :
    K.holds (State.linkEvent s a1 a2 a3 a4) := by
  unfold State.linkEvent
  simp (maxDischargeDepth := 30) [h]

@[simp] theorem State.countReplay_kept (a1 : Nat) (h : K.holds s) :
    K.holds (State.countReplay s a1) := by
  unfold State.countReplay
  simp (maxDischargeDepth := 30) [h]

@[simp] theorem State.countRetrain_kept (a1 : Nat) (h : K.holds s) :
    K.holds (State.countRetrain s a1) := by
  unfold State.countRetrain
  simp (maxDischargeDepth := 30) [h]

@[simp] theorem State.retrain_kept (a1 : Nat) (h : K.holds s) :
    K.holds (State.retrain s a1) := by
  unfold State.retrain
  simp (maxDischargeDepth := 30) [h]

@[simp] theorem State.replayFrame_kept (a1 : Nat) (h : K.holds s) :
    K.holds (State.replayFrame s a1) := by
  unfold State.replayFrame
  simp (maxDischargeDepth := 30) [h]

@[simp] theorem State.linkViolation_kept (a1 : Nat) (h : K.holds s) :
    K.holds (State.linkViolation s a1) := by
  unfold State.linkViolation
  simp (maxDischargeDepth := 30) [h]

@[simp] theorem State.takeFrame_kept (a1 : FrameLink) (h : K.holds s) :
    K.holds (State.takeFrame s a1).2 := by
  unfold State.takeFrame
  repeat' (first | split | simp_all +contextual (maxDischargeDepth := 30))

end Sys2Proof.Machine
end

