-- ==== Sys2Proof/Laws/KeptBreath.lean ====
section
/-! SUPPORT. What the Breath engine and the consort keep. -/

namespace Sys2Proof.Machine

variable {K : Kept} {s : State}

@[simp] theorem State.startZero_kept (a1 : Work) (h : K.holds s) :
    K.holds (State.startZero s a1) := by
  unfold State.startZero
  (repeat' split) <;> simp_all +contextual (maxDischargeDepth := 30)

@[simp] theorem State.startWaits_kept (a1 : Work) (h : K.holds s) :
    K.holds (State.startWaits s a1) := by
  unfold State.startWaits
  (repeat' split) <;> first
    | exact K.consort _ _ (s.modWork_kept _ _ _ h)
    | (simp_all +contextual (maxDischargeDepth := 30); done)

@[simp] theorem State.issueWork_kept (a1 : Nat) (a2 : Nat) (h : K.holds s) :
    K.holds (State.issueWork s a1 a2) := by
  unfold State.issueWork
  repeat' (first | split | simp_all +contextual (maxDischargeDepth := 30))

@[simp] theorem State.markIssued_kept (a1 : Nat) (h : K.holds s) :
    K.holds (State.markIssued s a1) := by
  unfold State.markIssued
  simp (maxDischargeDepth := 30) [h]

@[simp] theorem State.rereadRunning_kept (a1 : Nat) (h : K.holds s) : K.holds (State.rereadRunning s a1) := by
  unfold State.rereadRunning
  refine kept_foldl _ _ (fun u w hu => ?_) h
  (repeat' split) <;> simp [hu]

@[simp] theorem State.issueAll_kept (a1 : Nat) (h : K.holds s) :
    K.holds (State.issueAll s a1) := by
  unfold State.issueAll
  simp +contextual (maxDischargeDepth := 30) [h, apply_ite K.holds]

@[simp] theorem State.applyTime_kept (a1 : Work) (a2 : Nat) (h : K.holds s) :
    K.holds (State.applyTime s a1 a2) := by
  unfold State.applyTime
  dsimp only
  split
  · next hn => exact State.modWork_kept _ _ _ (K.clock s _ h hn)
  · split
    · exact State.modWork_kept _ _ _ (K.clock s _ h (Nat.le_refl _))
    · simp [h]

@[simp] theorem State.applyTimes_kept (a1 : Nat) (h : K.holds s) :
    K.holds (State.applyTimes s a1) := by
  unfold State.applyTimes
  refine kept_foldl _ _ ?_ h
  intro u w hu
  split
  · split <;> simp [hu]
  · exact hu

@[simp] theorem State.endWaiting_kept (a1 : Nat) (a2 : Refuse) (h : K.holds s) :
    K.holds (State.endWaiting s a1 a2) := by
  unfold State.endWaiting
  simp +contextual (maxDischargeDepth := 30) [h, apply_ite K.holds]

@[simp] theorem State.stopCarried_kept (a1 : Nat) (h : K.holds s) :
    K.holds (State.stopCarried s a1) := by
  unfold State.stopCarried
  dsimp only
  split
  · exact h
  · refine kept_foldl _ _ ?_ (by simp [h])
    intro u p hu
    split
    · exact hu
    · split
      · exact hu
      · exact State.endWork_kept _ _ _ hu

@[simp] theorem State.carryOn_kept (a1 : Nat) (h : K.holds s) :
    K.holds (State.carryOn s a1) := by
  unfold State.carryOn
  dsimp only
  split
  · exact h
  · refine State.addResultEvent_kept _ _ ?_
    have hg := kept_foldl_fst (K := K) (fun (o : State × List Piece) p => (o.1.fresh.2.fresh.2, o.2 ++ [{ p with
        carried := true, cycles := o.1.fresh.1 % (p.cycles + 1), energy := o.1.fresh.2.fresh.1 % (p.energy + 1) }]))
      ((s.train a1).admitted.filter (fun p => !p.done)) (fun o p ho => State.fresh_kept (State.fresh_kept ho)) (s, []) h
    split
    · exact State.modPart_kept _ _ (State.modTrain_kept _ _ hg) (fun p => rfl) (fun p => rfl) (fun p hp => hp) (fun p hp => hp)
    · exact State.modTrain_kept _ _ hg

@[simp] theorem State.retirePages_kept (a1 : Nat) (h : K.holds s) : K.holds (State.retirePages s a1) := by
  unfold State.retirePages
  exact kept_foldl _ _ (fun u a hu => kept_foldl _ _ (fun v o hv => v.retireInPool_kept _ _ _ hv) hu) h

@[simp] theorem State.applyAtAdmission_kept (a1 : Nat) (h : K.holds s) :
    K.holds (State.applyAtAdmission s a1) := by
  unfold State.applyAtAdmission
  have hp := State.applyPolicy_kept (K := K) a1 (s.modDev_kept (fun d => { d with
    configDigest := s.ownDigest s.consort.topology s.consort.members }) h)
  dsimp only
  split
  · exact hp
  · exact State.retirePages_kept _ (State.modTrain_kept _ _ (kept_foldl _ _ (fun u p hu =>
      u.modPart_kept _ _ hu (fun p => rfl) (fun p => rfl) (fun p hp => hp) (fun p hp => hp)) hp))

@[simp] theorem State.cutTrain_kept (a1 a2 : Nat) (h : K.holds s) : K.holds (State.cutTrain s a1 a2) := by
  unfold State.cutTrain
  exact kept_foldl _ _ (fun u w hu => u.cutWork_kept _ _ _ hu) h

@[simp] theorem State.admitAt_kept (a1 a2 : Nat) (h : K.holds s) : K.holds (State.admitAt s a1 a2) := by
  unfold State.admitAt
  extract_lets v1 v2 v3 v4 f quiet v5
  have h2 : K.holds v2 := State.modTrain_kept _ _ (s.applyAtAdmission_kept _ h)
  have h3 : K.holds v3 := by
    dsimp only [v3]
    (repeat' split) <;> first | exact h2 | exact State.endWaiting_kept _ _ h2
  have h4 : K.holds v4 := by
    dsimp only [v4]
    (repeat' split) <;> first | exact h3 | exact State.cutTrain_kept _ _ h3
  split
  · exact h4
  · exact State.modTrain_kept _ _ (kept_foldl _ _ (fun u x hu => u.modWork_kept _ _ _ hu) h4)

@[simp] theorem State.admitNext_kept (a1 : Nat) (h : K.holds s) :
    K.holds (State.admitNext s a1) := by
  unfold State.admitNext
  have hc := State.carryOn_kept (K := K) a1 (State.stopCarried_kept a1 (s.modTrain_kept a1 (fun x => { x with phase := .sealing }) h))
  dsimp only
  split
  · exact hc
  · exact State.admitAt_kept _ _ hc

@[simp] theorem State.sendAdmitted_kept (a1 : Nat) (h : K.holds s) :
    K.holds (State.sendAdmitted s a1) := by
  unfold State.sendAdmitted
  simp (maxDischargeDepth := 30) [h]

@[simp] theorem State.rollback_kept (a1 : Nat) (h : K.holds s) :
    K.holds (State.rollback s a1) := by
  unfold State.rollback
  dsimp only
  refine State.retirePages_kept _ (State.modTrain_kept _ _ (kept_foldl _ _
    (fun u p hu => u.modPart_kept _ _ hu (fun p => rfl) (fun p => rfl) (fun p hp => hp) (fun p hp => hp)) (State.modTrain_kept _ _ ?_)))
  refine State.modFn_kept _ _ (State.modFn_kept _ _ ?_ (fun f => rfl) (fun f => rfl) (fun f => rfl))
    (fun f => rfl) (fun f => rfl) (fun f => rfl)
  exact kept_host _ (s.restoreHbm_kept _ _ _ h) (fun hw => Memory.wf_foldl _ (fun m r hm => Memory.wf_copyFrom _ _ _ hm) _ _ hw)

@[simp] theorem State.rerunAdmin_kept  (h : K.holds s) :
    K.holds (State.rerunAdmin s) := by
  unfold State.rerunAdmin
  refine kept_foldl _ _ (fun u w hu => ?_) (State.modTrain_kept _ _ h)
  split
  · split <;> simp (maxDischargeDepth := 30) [hu]
  · exact hu

@[simp] theorem State.droneSlot_kept (a1 : Nat) (h : K.holds s) : K.holds (State.droneSlot s a1) := by
  unfold State.droneSlot
  split
  · exact s.droneTests_kept _ h
  · exact h

@[simp] theorem State.begin_kept (a1 : Nat) (h : K.holds s) :
    K.holds (State.begin s a1) := by
  unfold State.begin
  extract_lets x y n5 v1 v2 v3 repairs v4 v5 z v6 v7 v8
  have h1 : K.holds v1 := s.setTrain_kept _ _ h
  split
  · refine State.modTrain_kept _ _ ?_
    dsimp only [v2]
    split
    · exact v1.rollback_kept _ h1
    · exact h1
  · split
    · have h3 : K.holds v3 := by
        dsimp only [v3]
        split
        · exact State.rerunAdmin_kept h1
        · exact v1.rollback_kept _ h1
      have h4 : K.holds v4 := kept_foldl _ _ (fun u c hu => u.repairMacro_kept _ _ _ hu) (v3.modTrain_kept _ _ h3)
      exact State.issueAll_kept _ (State.rereadRunning_kept _ (v4.droneSlot_kept _ h4))
    · have h6 : K.holds v6 := State.modTrain_kept _ _ (v1.modTrain_kept _ _ h1)
      have h7 : K.holds v7 := by
        dsimp only [v7]
        split
        · exact v6.modPart_kept _ _ h6 (fun p => rfl) (fun p => rfl) (fun p hp => hp) (fun p hp => hp)
        · exact h6
      have h8 : K.holds v8 := by
        dsimp only [v8]
        split
        · exact v7.modLedger_kept _ h7
        · exact h7
      exact State.issueAll_kept _ (State.drainNow_kept _ (v8.droneSlot_kept _ h8))

@[simp] theorem State.countCores_kept (a1 : Nat) (a2 : Nat) (h : K.holds s) :
    K.holds (State.countCores s a1 a2) := by
  unfold State.countCores
  simp +contextual (maxDischargeDepth := 30) [h, apply_ite K.holds]

@[simp] theorem State.completePiece_kept (a1 : Nat) (a2 : Nat) (h : K.holds s) :
    K.holds (State.completePiece s a1 a2) := by
  unfold State.completePiece
  extract_lets x
  split
  · exact h
  · extract_lets v1 v2 v3
    have h1 : K.holds v1 := s.modTrain_kept _ _ h
    have h2 : K.holds v2 := by
      dsimp only [v2]
      split
      · exact v1.countCores_kept _ _ h1
      · exact h1
    have h3 : K.holds v3 := v2.modWork_kept _ _ _ h2
    split
    · exact h3
    · split
      · exact h3
      · extract_lets v4 v5
        have h5 : K.holds v5 := State.modWork_kept _ _ _ (v3.execStep_kept _ _ _ _ h3)
        (repeat' split) <;> first | exact h5 | exact State.failWork_kept _ _ _ h5

@[simp] theorem State.rewritePin_kept (a1 : Work) (a2 a3 : Nat) (h : K.holds s) : K.holds (State.rewritePin s a1 a2 a3) := by
  unfold State.rewritePin
  (repeat' split) <;> first | exact h | exact s.rewriteFrom_kept _ _ _ _ _ h

@[simp] theorem State.endPin_kept (a1 : Work) (a2 : Nat) (a3 : Refuse) (h : K.holds s) : K.holds (State.endPin s a1 a2 a3) := by
  unfold State.endPin
  split
  · exact State.endWork_kept _ _ _ (s.releasePin_kept _ _ _ _ h)
  · exact h

theorem State.macroFails_kept (w : Work) (core unit : Nat) (rewrite : State → State) (gone : State → Refuse → State) (h : K.holds s)
    (hr : ∀ u, K.holds u → K.holds (rewrite u)) (hg : ∀ u r, K.holds u → K.holds (gone u r)) :
    K.holds (State.macroFails s w core unit rewrite gone) := by
  unfold State.macroFails
  have h1 : K.holds (s.fresh.2.raiseO 0x0303 2 (core / 16) core unit 0 [byte (s.fresh.1 % 5)]) :=
    State.raiseO_kept _ _ _ _ _ _ _ (State.fresh_kept h)
  dsimp only
  split
  · exact hg _ _ h1
  · exact State.modWork_kept _ _ _ (hr _ h1)

@[simp] theorem State.evalMonitors_kept (a1 : Nat) (h : K.holds s) :
    K.holds (State.evalMonitors s a1) := by
  unfold State.evalMonitors
  simp +contextual (maxDischargeDepth := 30) [h, apply_ite K.holds]

@[simp] theorem State.noteSeal_kept (a1 : Nat) (a2 : Bool) (h : K.holds s) :
    K.holds (State.noteSeal s a1 a2) := by
  unfold State.noteSeal
  simp (maxDischargeDepth := 30) [h]

@[simp] theorem State.applyMarks_kept (a1 : Nat) (h : K.holds s) :
    K.holds (State.applyMarks s a1) := by
  unfold State.applyMarks
  simp +contextual (maxDischargeDepth := 30) [h, apply_ite K.holds]

@[simp] theorem State.applyHeld_kept (a1 : Nat) (h : K.holds s) :
    K.holds (State.applyHeld s a1) := by
  unfold State.applyHeld
  simp +contextual (maxDischargeDepth := 30) [h, apply_ite K.holds]

@[simp] theorem State.commitAny_kept (a1 : Work) (h : K.holds s) :
    K.holds (State.commitAny s a1) := by
  unfold State.commitAny
  (repeat' split) <;> simp_all +contextual (maxDischargeDepth := 30)

@[simp] theorem State.faultDiag_kept (a1 : Work) (h : K.holds s) :
    K.holds (State.faultDiag s a1) := by
  unfold State.faultDiag
  simp +contextual (maxDischargeDepth := 30) [h, apply_ite K.holds]

@[simp] theorem State.countDrained_kept (a1 : Nat) (a2 : List Work) (h : K.holds s) : K.holds (State.countDrained s a1 a2) := by
  unfold State.countDrained
  split <;> simp [h]

@[simp] theorem State.releaseFinished_kept (a1 : Nat) (h : K.holds s) :
    K.holds (State.releaseFinished s a1) := by
  unfold State.releaseFinished
  exact kept_foldl _ _ (fun u w hu => u.faultDiag_kept _ hu) (State.release_kept _ _ _ (State.modTrain_kept _ _
    (kept_foldl _ _ (fun u w hu => u.returnSlots_kept _ _ hu) (s.countDrained_kept _ _ h))))

@[simp] theorem State.raiseResults_kept (a1 : Nat) (h : K.holds s) :
    K.holds (State.raiseResults s a1) := by
  unfold State.raiseResults
  simp +contextual (maxDischargeDepth := 30) [h, apply_ite K.holds]

@[simp] theorem State.shutdownIdle_kept  (h : K.holds s) :
    K.holds (State.shutdownIdle s) := by
  unfold State.shutdownIdle
  simp (maxDischargeDepth := 30) [h]

@[simp] theorem State.stageAbort_kept (a1 a2 a3 : Nat) (h : K.holds s) :
    K.holds (State.stageAbort s a1 a2 a3) := by
  unfold State.stageAbort
  simp (maxDischargeDepth := 30) [h]

@[simp] theorem State.passSeal_kept (a1 : Nat) (h : K.holds s) :
    K.holds (State.passSeal s a1) := by
  unfold State.passSeal
  simp +contextual (maxDischargeDepth := 30) [h, apply_ite K.holds]

@[simp] theorem State.failSeal_kept (a1 : Nat) (h : K.holds s) :
    K.holds (State.failSeal s a1) := by
  unfold State.failSeal
  simp +contextual (maxDischargeDepth := 30) [h, apply_ite K.holds]

@[simp] theorem State.closeSeal_kept (a1 : Nat) (h : K.holds s) :
    K.holds (State.closeSeal s a1) := by
  unfold State.closeSeal
  simp +contextual (maxDischargeDepth := 30) [h, apply_ite K.holds]

@[simp] theorem State.noteRestart_kept  (h : K.holds s) :
    K.holds (State.noteRestart s) := by
  unfold State.noteRestart
  simp (maxDischargeDepth := 30) [h]

@[simp] theorem State.settle_kept (a1 : Nat) (h : K.holds s) :
    K.holds (State.settle s a1) := by
  unfold State.settle
  simp (maxDischargeDepth := 30) [h]

@[simp] theorem State.releaseDue_kept (a1 : Nat) (h : K.holds s) : K.holds (State.releaseDue s a1) := by
  unfold State.releaseDue
  dsimp only
  split
  · exact h
  · exact State.release_kept _ _ _ (s.modTrain_kept _ _ h)

@[simp] theorem State.applyRegroup_kept (a1 : Work) (a2 : Nat) (a3 : Nat) (a4 : Nat) (a5 : Nat) (a6 : Nat) (h : K.holds s) :
    K.holds (State.applyRegroup s a1 a2 a3 a4 a5 a6) := by
  unfold State.applyRegroup
  extract_lets block old v1 top seals handles v2 v3 news done v4
  have h1 : K.holds v1 := kept_foldl _ _ (fun u t hu => u.releaseDue_kept _ hu) h
  have h2 : K.holds v2 := kept_foldl _ _ (fun u t hu => u.clearGroup_kept _ hu) h1
  have h3 : K.holds v3 := kept_foldl _ _ (fun u p hu => State.setTrain_kept _ _
    (u.modPart_kept _ _ hu (fun p => rfl) (fun p => rfl) (fun p hp => hp) (fun p hp => hp))) h2
  exact State.modTrain_kept _ _ (v3.modTrain_kept _ _ h3)

@[simp] theorem State.enterHalted_kept  (h : K.holds s) :
    K.holds (State.enterHalted s) := by
  unfold State.enterHalted
  simp +contextual (maxDischargeDepth := 30) [h, apply_ite K.holds]

@[simp] theorem State.modConsort_kept (a1 : Consort → Consort) (h : K.holds s) :
    K.holds (State.modConsort s a1) := by
  unfold State.modConsort
  simp (maxDischargeDepth := 30) [h]

@[simp] theorem State.endFormation_kept (a1 : Refuse) (h : K.holds s) :
    K.holds (State.endFormation s a1) := by
  unfold State.endFormation
  (repeat' split) <;> simp_all +contextual (maxDischargeDepth := 30)

@[simp] theorem State.failFormation_kept (a1 : Refuse) (h : K.holds s) :
    K.holds (State.failFormation s a1) := by
  unfold State.failFormation
  split
  · exact h
  · exact State.endFormation_kept _ (State.sendAll_kept _ _ _ h)

@[simp] theorem State.form_kept (a1 : Nat) (a2 : Nat) (a3 : Nat) (a4 : List Nat) (h : K.holds s) :
    K.holds (State.form s a1 a2 a3 a4) := by
  unfold State.form
  simp +contextual (maxDischargeDepth := 30) [h, apply_ite K.holds]

@[simp] theorem State.closeGroups_kept (a1 : Refuse) (h : K.holds s) :
    K.holds (State.closeGroups s a1) := by
  unfold State.closeGroups
  simp +contextual (maxDischargeDepth := 30) [h, apply_ite K.holds]

@[simp] theorem State.noteGone_kept (a1 : Nat) (a2 : Nat) (a3 : Nat) (h : K.holds s) :
    K.holds (State.noteGone s a1 a2 a3) := by
  unfold State.noteGone
  simp (maxDischargeDepth := 30) [h]

@[simp] theorem State.leaveConsort_kept  (h : K.holds s) :
    K.holds (State.leaveConsort s) := by
  unfold State.leaveConsort
  repeat' (first | split | simp_all +contextual (maxDischargeDepth := 30))

@[simp] theorem State.tryLeave_kept  (h : K.holds s) :
    K.holds (State.tryLeave s) := by
  unfold State.tryLeave
  simp (maxDischargeDepth := 30) [h]

@[simp] theorem State.memberGone_kept (a1 : Nat) (a2 : Nat) (a3 : Nat) (h : K.holds s) :
    K.holds (State.memberGone s a1 a2 a3) := by
  unfold State.memberGone
  simp (maxDischargeDepth := 30) [h]

@[simp] theorem State.applyLeaves_kept (a1 : Nat) (h : K.holds s) :
    K.holds (State.applyLeaves s a1) := by
  unfold State.applyLeaves
  extract_lets own v1 v2
  have h1 : K.holds v1 := by
    dsimp only [v1]
    split
    · exact s.modConsort_kept _ h
    · exact h
  split
  · exact State.tryLeave_kept (State.modConsort_kept _ (v1.closeGroups_kept _ h1))
  · have h2 : K.holds v2 := kept_foldl _ _ (fun u x hu => u.memberGone_kept _ _ _ hu) h1
    split
    · exact h2
    · exact State.memberGone_kept _ _ _ h2

@[simp] theorem State.actSeal_kept (a1 : Nat) (a2 : Bool) (a3 : Nat) (h : K.holds s) :
    K.holds (State.actSeal s a1 a2 a3) := by
  unfold State.actSeal
  simp (maxDischargeDepth := 30) [h]

@[simp] theorem State.compareDigests_kept (a1 : Nat) (a2 : List Verdict) (h : K.holds s) :
    K.holds (State.compareDigests s a1 a2) := by
  unfold State.compareDigests
  repeat' (first | split | simp_all +contextual (maxDischargeDepth := 30))

@[simp] theorem State.decideConsort_kept (a1 : Nat) (h : K.holds s) :
    K.holds (State.decideConsort s a1) := by
  unfold State.decideConsort
  simp (maxDischargeDepth := 30) [h]

@[simp] theorem State.ownVerdict_kept (a1 : Nat) (h : K.holds s) :
    K.holds (State.ownVerdict s a1) := by
  unfold State.ownVerdict
  simp (maxDischargeDepth := 30) [h]

@[simp] theorem State.beginAdmin_kept  (h : K.holds s) :
    K.holds (State.beginAdmin s) := by
  unfold State.beginAdmin
  extract_lets leave stop n u x v y1
  have hu : K.holds u := State.applyTimes_kept _ (State.begin_kept _ h)
  have hv : K.holds v := by
    dsimp only [v]
    (repeat' split) <;> first | exact hu | simp [hu]
  clear_value v
  split
  · have h1 : K.holds y1 := by
      dsimp only [y1]
      split
      · exact State.sendAll_kept _ _ _ hv
      · exact hv
    clear_value y1
    exact State.applyLeaves_kept _ (kept_foldl _ _ (fun u x hu => u.sendAll_kept _ _ _ hu) h1)
  · exact hv

@[simp] theorem State.verdictMissing_kept (a1 : Nat) (h : K.holds s) : K.holds (State.verdictMissing s a1) := by
  unfold State.verdictMissing
  extract_lets x act vs missing v
  have ha : ∀ u, K.holds u → K.holds (act u) := fun u hu => State.modTrain_kept _ _ (u.actSeal_kept _ _ _ hu)
  split
  · split
    · exact h
    · refine ha _ (State.sendAll_kept _ _ _ (kept_foldl _ _ (fun u c hu => State.memberGone_kept _ _ _ (u.sendAll_kept _ _ _ hu)) h))
  · exact ha _ (State.memberGone_kept _ _ _ (s.sendAll_kept _ _ _ h))

@[simp] theorem State.phaseEvent_kept (a1 : Nat) (a2 : Nat) (h : K.holds s) :
    K.holds (State.phaseEvent s a1 a2) := by
  unfold State.phaseEvent
  simp (maxDischargeDepth := 30) [h]

@[simp] theorem State.stopNotice_kept (a1 : Nat) (a2 : Nat) (h : K.holds s) :
    K.holds (State.stopNotice s a1 a2) := by
  unfold State.stopNotice
  repeat' (first | split | simp_all +contextual (maxDischargeDepth := 30))

@[simp] theorem State.trainingFailed_kept (a1 : Nat) (h : K.holds s) :
    K.holds (State.trainingFailed s a1) := by
  unfold State.trainingFailed
  simp (maxDischargeDepth := 30) [h]

@[simp] theorem State.greet_kept (a1 : Nat) (h : K.holds s) :
    K.holds (State.greet s a1) := by
  unfold State.greet
  simp (maxDischargeDepth := 30) [h]

end Sys2Proof.Machine
end

