-- ==== Sys2Proof/Laws/KeptDevice.lean ====
section
/-! SUPPORT. What memory errors, startup, the registers and the board keep, and a tick. -/

namespace Sys2Proof.Machine

variable {K : Kept} {s : State}

@[simp] theorem State.modChannel_kept (a1 : Nat) (a2 : Nat) (a3 : Channel → Channel) (h : K.holds s) :
    K.holds (State.modChannel s a1 a2 a3) := by
  unfold State.modChannel
  exact s.modPart_kept _ _ h (fun p => rfl) (fun p => length_modAt ..) (fun p hp => hp) (fun p hp => hp)

@[simp] theorem State.countChannel_kept (a1 : Nat) (a2 : Nat) (a3 : Nat) (h : K.holds s) :
    K.holds (State.countChannel s a1 a2 a3) := by
  unfold State.countChannel
  simp (maxDischargeDepth := 30) [h]

@[simp] theorem State.trackPage_kept (a1 : Nat) (a2 : Nat) (a3 : Nat) (h : K.holds s) :
    K.holds (State.trackPage s a1 a2 a3) := by
  unfold State.trackPage
  simp (maxDischargeDepth := 30) [h]

@[simp] theorem State.stopRunning_kept (a1 : Work) (a2 : Refuse) (h : K.holds s) : K.holds (State.stopRunning s a1 a2) := by
  unfold State.stopRunning
  split
  · exact h
  · refine State.noteOwn_kept _ (State.undoAppends_kept _ _ ?_)
    split
    · exact s.spoil_kept _ _ _ _ h
    · exact h

@[simp] theorem State.poisonWork_kept (a1 : Work) (a2 : Nat) (a3 : Nat) (a4 : Nat) (a5 : Nat) (h : K.holds s) :
    K.holds (State.poisonWork s a1 a2 a3 a4 a5) := by
  unfold State.poisonWork
  dsimp only
  split
  · exact s.failStop_kept _ _ h
  · split
    · exact State.endWork_kept _ _ _ (s.modTrain_kept _ _ h)
    · exact State.endWork_kept _ _ _ (s.stopRunning_kept _ _ h)

@[simp] theorem State.breakResidency_kept (a1 : Nat) (a2 : Residency) (a3 : Refuse) (h : K.holds s) :
    K.holds (State.breakResidency s a1 a2 a3) := by
  unfold State.breakResidency
  simp +contextual (maxDischargeDepth := 30) [h, apply_ite K.holds]

@[simp] theorem State.poisoned_kept (a1 : Nat) (a2 : Nat) (a3 : Nat) (a4 : Nat) (a5 : Option Nat) (h : K.holds s) :
    K.holds (State.poisoned s a1 a2 a3 a4 a5) := by
  unfold State.poisoned
  repeat' (first | split | simp_all +contextual (maxDischargeDepth := 30))

@[simp] theorem State.failChannel_kept (a1 : Nat) (a2 : Nat) (h : K.holds s) :
    K.holds (State.failChannel s a1 a2) := by
  unfold State.failChannel
  simp (maxDischargeDepth := 30) [h]

@[simp] theorem State.retirePage_kept (a1 : Nat) (a2 : Nat) (h : K.holds s) :
    K.holds (State.retirePage s a1 a2) := by
  unfold State.retirePage
  simp (maxDischargeDepth := 30) [h]

@[simp] theorem State.selfTestFail_kept (a1 : Nat) (a2 : Nat) (a3 : Nat) (h : K.holds s) :
    K.holds (State.selfTestFail s a1 a2 a3) := by
  unfold State.selfTestFail
  simp (maxDischargeDepth := 30) [h]

@[simp] theorem State.faultSelfTest_kept (a1 : Nat) (h : K.holds s) :
    K.holds (State.faultSelfTest s a1) := by
  unfold State.faultSelfTest
  simp (maxDischargeDepth := 30) [h]

@[simp] theorem State.stageGasp_kept  (h : K.holds s) :
    K.holds (State.stageGasp s) := by
  unfold State.stageGasp
  simp (maxDischargeDepth := 30) [h]

@[simp] theorem State.stageStartup_kept  (h : K.holds s) :
    K.holds (State.stageStartup s) := by
  unfold State.stageStartup
  simp +contextual (maxDischargeDepth := 30) [h, apply_ite K.holds]

@[simp] theorem State.stageOwed_kept  (h : K.holds s) :
    K.holds (State.stageOwed s) := by
  unfold State.stageOwed
  simp +contextual (maxDischargeDepth := 30) [h, apply_ite K.holds]

@[simp] theorem State.refuseWrite_kept (a1 : Nat) (a2 : Nat) (a3 : Nat) (h : K.holds s) :
    K.holds (State.refuseWrite s a1 a2 a3) := by
  unfold State.refuseWrite
  simp (maxDischargeDepth := 30) [h]

@[simp] theorem State.clearPinned_kept (a1 : Nat) (h : K.holds s) :
    K.holds (State.clearPinned s a1) := by
  unfold State.clearPinned
  refine kept_foldl _ _ ?_ h
  intro u w hu
  split
  · refine kept_foldl _ _ ?_ hu
    intro v i hv
    exact v.modCore_kept_wf _ _ hv (fun c hc => by
      have h1 := Core.wf_clm hc
      exact Core.wf_and _ h1 rfl rfl)
  · exact hu

@[simp] theorem State.partitionReset_kept (a1 : Nat) (h : K.holds s) :
    K.holds (State.partitionReset s a1) := by
  unfold State.partitionReset
  dsimp only
  refine State.modTrain_kept _ _ (kept_foldl _ _ ?_ (State.dropClaims_kept _ (State.clearPinned_kept _ h)))
  intro u p hu
  refine State.modFn_kept _ _ (u.modPart_kept _ _ hu (fun p => List.length_map ..) (fun p => rfl) (fun p hp => hp) ?_)
    (fun f => rfl) (fun f => rfl) (fun f => rfl)
  intro p hp
  refine Core.all_map_wf _ _ ?_ hp
  intro c hc
  have h2 := Core.wf_stop hc
  have h3 := Core.wf_check hc
  exact Core.wf_and _ rfl h2 h3

@[simp] theorem State.restartTrains_kept (a1 : Nat) (h : K.holds s) :
    K.holds (State.restartTrains s a1) := by
  unfold State.restartTrains
  simp +contextual (maxDischargeDepth := 30) [h, apply_ite K.holds]

@[simp] theorem State.snapshot_kept (a1 : Nat) (h : K.holds s) :
    K.holds (State.snapshot s a1) := by
  unfold State.snapshot
  simp (maxDischargeDepth := 30) [h]

@[simp] theorem State.perfCtrl_kept (a1 : Nat) (a2 : Nat) (a3 : Nat) (h : K.holds s) :
    K.holds (State.perfCtrl s a1 a2 a3) := by
  unfold State.perfCtrl
  simp (maxDischargeDepth := 30) [h]

@[simp] theorem State.sendPending_kept (a1 : Nat) (a2 : Nat) (h : K.holds s) :
    K.holds (State.sendPending s a1 a2) := by
  unfold State.sendPending
  split <;> simp (maxDischargeDepth := 30) [h]

@[simp] theorem State.unmask_kept (a1 : Nat) (a2 : Nat) (h : K.holds s) :
    K.holds (State.unmask s a1 a2) := by
  unfold State.unmask
  simp (maxDischargeDepth := 30) [h]

@[simp] theorem State.unmaskFunction_kept (a1 : Nat) (h : K.holds s) :
    K.holds (State.unmaskFunction s a1) := by
  unfold State.unmaskFunction
  simp +contextual (maxDischargeDepth := 30) [h, apply_ite K.holds]

@[simp] theorem State.endForShutdown_kept (a1 : Work) (h : K.holds s) :
    K.holds (State.endForShutdown s a1) := by
  unfold State.endForShutdown
  dsimp only
  (repeat' split) <;> first
    | exact h
    | exact State.cutWork_kept _ _ _ h
    | exact State.failFormation_kept _ h
    | exact State.failRestore_kept _ _ _ h
    | exact State.failStop_kept _ _ h
    | exact State.endWork_kept _ _ _ h
    | exact State.endWork_kept _ _ _ (s.modTrain_kept _ _ h)

@[simp] theorem State.readBar0_kept (a1 : Nat) (a2 : Nat) (a3 : Nat) (h : K.holds s) :
    K.holds (State.readBar0 s a1 a2 a3) := by
  unfold State.readBar0
  dsimp only
  split
  · exact K.out _ _ h
  · split
    · exact K.out _ _ (by simp [h])
    · refine K.out _ _ ?_
      (repeat' split) <;> repeat' (first | exact h | exact fun _ => rfl | apply State.modFn_kept)

@[simp] theorem State.writeReplyBase_kept (a1 : Nat) (a2 : Nat) (h : K.holds s) :
    K.holds (State.writeReplyBase s a1 a2) := by
  unfold State.writeReplyBase
  simp (maxDischargeDepth := 30) [h]

@[simp] theorem State.writeEvqBase_kept (a1 : Nat) (a2 : Nat) (h : K.holds s) :
    K.holds (State.writeEvqBase s a1 a2) := by
  unfold State.writeEvqBase
  simp (maxDischargeDepth := 30) [h]

@[simp] theorem State.writeThermWarn_kept (a1 : Nat) (a2 : Nat) (h : K.holds s) :
    K.holds (State.writeThermWarn s a1 a2) := by
  unfold State.writeThermWarn
  simp (maxDischargeDepth := 30) [h]

@[simp] theorem State.writeWindow_kept (a1 : Nat) (a2 : Nat) (a3 : Nat) (h : K.holds s) :
    K.holds (State.writeWindow s a1 a2 a3) := by
  unfold State.writeWindow
  simp (maxDischargeDepth := 30) [h]

@[simp] theorem State.writeRecovery_kept (a1 a2 a3 : Nat) (h : K.holds s) :
    K.holds (State.writeRecovery s a1 a2 a3) := by
  unfold State.writeRecovery
  (repeat' split) <;> simp_all +contextual (maxDischargeDepth := 30)

@[simp] theorem State.writeMsix_kept (a1 : Nat) (a2 : Nat) (a3 : List Byte) (h : K.holds s) :
    K.holds (State.writeMsix s a1 a2 a3) := by
  unfold State.writeMsix
  dsimp only
  split
  · exact h
  · have hk : K.holds (s.modFn a1 (fun f => { f with msixTable := f.msixTable.write a2 a3 })) := by
      refine s.modFn_kept_wf _ _ h (fun f hf => ?_)
      simp only [Function.wf, Bool.and_eq_true] at hf ⊢
      exact ⟨hf.1, Memory.wf_write _ _ hf.2⟩
    (repeat' split) <;> simp [hk]

@[simp] theorem State.bar2Refused_kept (a1 : Bool) (a2 : Nat) (h : K.holds s) :
    K.holds (State.bar2Refused s a1 a2) := by
  unfold State.bar2Refused
  simp (maxDischargeDepth := 30) [h]

@[simp] theorem State.modBoard_kept (a1 : Board → Board) (h : K.holds s) :
    K.holds (State.modBoard s a1) := by
  unfold State.modBoard
  simp (maxDischargeDepth := 30) [h]

@[simp] theorem State.powerFail_kept (a1 : Nat) (h : K.holds s) :
    K.holds (State.powerFail s a1) := by
  unfold State.powerFail
  simp (maxDischargeDepth := 30) [h]

@[simp] theorem State.respond_kept (a1 : List Byte) (h : K.holds s) :
    K.holds (State.respond s a1) := by
  unfold State.respond
  simp (maxDischargeDepth := 30) [h]

@[simp] theorem tick_kept  (h : K.holds s) :
    K.holds (tick s) := by
  unfold tick
  split
  · exact h
  · have hc := K.clock s { s.clock with
      timebase := s.clock.timebase + 1
      time := s.clock.time + (if 0 < s.clock.slew ∧ s.clock.timebase % 100 = 0 then 9 else 10)
      slew := if s.clock.timebase % 100 = 0 then s.clock.slew - 1 else s.clock.slew } h (Nat.le_add_right _ _)
    refine K.parts _ _ hc (List.length_map ..) ?_
    intro hp
    rw [List.all_map]
    exact hp

end Sys2Proof.Machine
end

