-- ==== Sys2Proof/Tests/Slice0.lean ====
section
/-! SUPPORT. Tests: ill-formed commands are refused by the well-formedness check, single commands do what the manual says, and
every clause of every statement has a state and operands that meet its hypotheses, at the ends of their ranges. -/

namespace Sys2Proof.Tests

set_option Elab.async false

open Sys2Proof Sys2Proof.Machine

/-! Well-formedness: each check with a term that it refuses. -/

/-- A header at the ends of its fields. -/
def hdr : PacketHeader := { fn := 16, bulk := true, flags := 255, seq := 65535, tag := 0xFFFFFFFF, part := 255, plen := 255, crc := some 65535, stores := [] }

def noRef : SlotRef := {}
def bigRef : SlotRef := { gen := 256 }
def goodLink : FrameLink := { port := 5, linkSeq := 65535, crcGood := true }
def badLink : FrameLink := { port := 6, linkSeq := 0, crcGood := true }
def cart : CartridgePages :=
  { genuine := true, id := zeros 16, insertions := 2000, spare := 1, temperature := 40, remapped := 0, openSlot := 0xFFFFFFFF
    writtenMap := 0, life := 0, boundCard := zeros 16, bindTime := 0, retireTime := 0, lastSlot := 0, faultCode := 0, headers := [] }

theorem test_wf_header : hdr.wf = true ∧ [{ hdr with fn := 17 }, { hdr with flags := 256 }, { hdr with seq := 65536 }
    , { hdr with tag := 2 ^ 32 }, { hdr with part := 256 }, { hdr with plen := 256 }, { hdr with crc := some 65536 }
    , { hdr with stores := [(2 ^ 64, 1)] }].all (fun h => !h.wf) = true := by decide +kernel

theorem test_wf_slot_reference : [({ region := 65536 } : SlotRef), { slot := 65536 }, { gen := 256 }, { dir := 256 }].all (fun r => !r.wf)
    = true := by decide +kernel

theorem test_wf_frame_link : goodLink.wf = true ∧ badLink.wf = false ∧ { goodLink with linkSeq := 65536 }.wf = false := by
  decide +kernel

theorem test_wf_cartridge : cart.wf = true ∧ [{ cart with id := [] }, { cart with insertions := 2 ^ 32 }, { cart with spare := 256 }
    , { cart with temperature := 256 }, { cart with remapped := 2 ^ 32 }, { cart with openSlot := 2 ^ 32 }
    , { cart with writtenMap := 2 ^ 128 }, { cart with life := 256 }, { cart with boundCard := [] }, { cart with bindTime := 2 ^ 64 }
    , { cart with retireTime := 2 ^ 64 }, { cart with lastSlot := 2 ^ 32 }, { cart with faultCode := 65536 }
    , { cart with headers := [(0, [])] }].all (fun c => !c.wf) = true := by decide +kernel

theorem test_wf_registers : [Instr.ringSlotWrite 17 0 false 0 [], .ringSlotWrite 0 17 false 0 [], .ringSlotWrite 0 16 false 0x3FFFF [0, 0]
    , .doorbell 17 0 false 0 4 [], .doorbell 0 17 false 0 4 [], .doorbell 0 0 false 256 1 [], .doorbell 0 0 false 0 9 []
    , .doorbell 0 0 false 0 4 [(2 ^ 64, 0)], .evqCfgWrite 17 0 0, .evqCfgWrite 0 17 0, .evqCfgWrite 0 0 (2 ^ 64)
    , .replyHeadWrite 17 0 0, .replyHeadWrite 0 17 0, .replyHeadWrite 0 0 (2 ^ 32), .evqHeadWrite 0 0 (2 ^ 32)
    , .replyCfgWrite 0 0 (2 ^ 32), .snap 0 0 (2 ^ 32), .clear 0 0 (2 ^ 32), .eventStatusWrite 0 0 (2 ^ 32)
    , .ringCfgWrite 17 0 false 0, .ringCfgWrite 0 17 false 0, .ringCfgWrite 0 0 false (2 ^ 32), .bar2WinWrite 17 0 0
    , .bar2WinWrite 0 17 0, .bar2WinWrite 0 0 (2 ^ 64), .unfreeze 17 0, .unfreeze 0 (2 ^ 32), .chanterRestart 17 0
    , .chanterRestart 0 (2 ^ 32), .go 17 0 [], .go 0 (2 ^ 32) [], .lastViolationRead 17 0, .lastViolationRead 0 17
    , .ledgerNextRead 17 8, .ledgerNextRead 0 65, .wideRegisterRead 17 0 4, .wideRegisterRead 0 (2 ^ 26) 4
    , .wideRegisterRead 0 0 65, .halfRegisterRead 17 0, .halfRegisterRead 0 (2 ^ 26), .registerWrite 17 0 0 4 0
    , .registerWrite 0 2 0 4 0, .registerWrite 0 0 (2 ^ 26) 4 0, .registerWrite 0 0 0 9 0, .registerWrite 0 0 0 4 (2 ^ 32)
    , .bar2Read 17 0 4, .bar2Read 0 (2 ^ 32) 4, .bar2Read 0 0 65, .bar2Write 17 0 [], .bar2Write 0 (2 ^ 32) []
    , .bar2Write 0 0 (zeros 65)].all (fun i => !i.wf) = true := by decide +kernel

theorem test_wf_resets_and_accesses : [Instr.functionLevelReset 0, .functionLevelReset 17, .perstDeassert 0 16, .perstDeassert 7 16
    , .perstDeassert 6 3, .pcieLinkRetrain 0 16, .pcieLinkRetrain 6 0, .bellowsPoisonedCompletion 17 0 0
    , .bellowsPoisonedCompletion 0 65536 0, .bellowsPoisonedCompletion 0 0 65536, .bellowsCompletionTimeout 17 0 0
    , .bellowsUnsupportedRequest 17 0 false, .bellowsUnsupportedRequest 0 65536 true, .deregisterAccessesDone 0 65536].all
      (fun i => !i.wf) = true := by decide +kernel

theorem test_wf_packets : [Instr.nop { hdr with fn := 17 }, .timeSet hdr (2 ^ 64) 0, .timeSet hdr 0 (2 ^ 48), .shutdown hdr (2 ^ 32)
    , .breathSet hdr 65536 0, .breathSet hdr 0 256, .partGroup hdr 256 0 0 0 0 0, .partGroup hdr 0 256 0 0 0 0
    , .partGroup hdr 0 0 256 0 0 0, .partGroup hdr 0 0 0 256 0 0, .partGroup hdr 0 0 0 0 65536 0, .partGroup hdr 0 0 0 0 0 65536
    , .partQos hdr 256, .bellowsRegister hdr 256 0 0 0 0 0, .bellowsRegister hdr 0 256 0 0 0 0, .bellowsRegister hdr 0 0 65536 0 0 0
    , .bellowsRegister hdr 0 0 0 256 0 0, .bellowsRegister hdr 0 0 0 0 (2 ^ 64) 0, .bellowsRegister hdr 0 0 0 0 0 (2 ^ 64)
    , .bellowsDeregister hdr 65536 0, .bellowsDeregister hdr 0 256, .bellowsRead hdr bigRef 0, .bellowsRead hdr noRef (2 ^ 64)
    , .bellowsWrite hdr bigRef 0 0, .bellowsWrite hdr noRef (2 ^ 64) 0, .bellowsWrite hdr noRef 0 (2 ^ 32), .memFill hdr (2 ^ 64) 0 0
    , .memFill hdr 0 (2 ^ 64) 0, .memFill hdr 0 0 (2 ^ 32), .retirePage hdr (2 ^ 64), .modelLoad hdr [] 0 0 0
    , .modelLoad hdr (zeros 32) (2 ^ 64) 0 0, .modelLoad hdr (zeros 32) 0 (2 ^ 64) 0, .modelLoad hdr (zeros 32) 0 0 256
    , .stopPin hdr (2 ^ 32) 0 0, .stopPin hdr 0 65536 0, .stopPin hdr 0 0 65536, .stopRelease hdr (2 ^ 32)
    , .progRegister hdr (2 ^ 64) 0, .progRegister hdr 0 65536, .shapeSet hdr 256 0 [], .shapeSet hdr 0 256 []
    , .shapeSet hdr 0 0 (List.replicate 13 0), .shapeSet hdr 0 0 [2 ^ 32], .progRun hdr (2 ^ 64) 0 [], .progRun hdr 0 (2 ^ 64) []
    , .progRun hdr 0 0 (List.replicate 5 noRef), .progRun hdr 0 0 [bigRef]].all (fun i => !i.wf) = true := by decide +kernel

theorem test_wf_more_packets : [Instr.histPool hdr (2 ^ 64) 0 0, .histPool hdr 0 (2 ^ 32) 0, .histPool hdr 0 0 256
    , .histOpen hdr (2 ^ 32) 0 0 0, .histOpen hdr 0 256 0 0, .histOpen hdr 0 0 65536 0, .histOpen hdr 0 0 0 (2 ^ 64)
    , .histPrefill hdr (2 ^ 64) 0 noRef, .histPrefill hdr 0 (2 ^ 32) noRef, .histPrefill hdr 0 0 bigRef
    , .score hdr (2 ^ 64) 0 0 0 noRef noRef, .score hdr 0 (2 ^ 32) 0 0 noRef noRef, .score hdr 0 0 (2 ^ 64) 0 noRef noRef
    , .score hdr 0 0 0 256 noRef noRef, .score hdr 0 0 0 0 bigRef noRef, .score hdr 0 0 0 0 noRef bigRef
    , .jobSubmit hdr (2 ^ 64) 0 0 noRef noRef, .jobSubmit hdr 0 (2 ^ 64) 0 noRef noRef, .jobSubmit hdr 0 0 65536 noRef noRef
    , .jobSubmit hdr 0 0 0 bigRef noRef, .jobSubmit hdr 0 0 0 noRef bigRef, .vidOpen hdr 256 0 0 0 0, .vidOpen hdr 0 65536 0 0 0
    , .vidOpen hdr 0 0 65536 0 0, .vidOpen hdr 0 0 0 65536 0, .vidOpen hdr 0 0 0 0 (2 ^ 64), .vidDecode hdr (2 ^ 32) noRef noRef
    , .vidDecode hdr 0 bigRef noRef, .vidDecode hdr 0 noRef bigRef, .setConditioning hdr (2 ^ 32) 0 0 0 0 0 0 0 0
    , .setConditioning hdr 0 65536 0 0 0 0 0 0 0, .setConditioning hdr 0 0 0 0 0 0 0 65536 0, .setConditioning hdr 0 0 0 0 0 0 0 0 (2 ^ 64)
    , .snapshotShadow hdr (2 ^ 48) 0 0 0, .snapshotShadow hdr 0 65536 0 0, .snapshotShadow hdr 0 0 65536 0, .snapshotShadow hdr 0 0 0 65536
    , .snapshotStop hdr (2 ^ 48) 0 0, .snapshotStop hdr 0 65536 0, .snapshotStop hdr 0 0 65536, .restore hdr 65536 0, .restore hdr 0 65536
    , .consortForm hdr 256 0 0 0 (zeros 32) 0, .consortForm hdr 0 0 0 256 (zeros 32) 0, .consortForm hdr 0 0 0 0 [] 0
    , .consortForm hdr 0 0 0 0 (zeros 32) 65536, .consortLeave hdr (2 ^ 48), .ledgerNote hdr [], .fwUpdate hdr bigRef 0 0
    , .fwUpdate hdr noRef 256 0, .fwUpdate hdr noRef 0 256, .ownerKeyInstall hdr bigRef, .presenceSet hdr 65536, .attest hdr [] noRef
    , .attest hdr (zeros 32) bigRef, .droneCfg hdr bigRef 0, .droneCfg hdr noRef 256].all (fun i => !i.wf) = true := by decide +kernel

theorem test_wf_events : [Instr.breathStart 17, .workComplete 17 0, .checkFailure 17 0 0 0, .checkFailure 0 16 0 0, .checkFailure 0 0 65536 0
    , .checkFailure 0 0 0 256, .hbmReadOutcome 16 0 0 0 none, .hbmReadOutcome 0 16 0 0 none, .hbmReadOutcome 0 0 196608 0 none
    , .hbmReadOutcome 0 0 0 8 none, .clmScrub 256 0 true none, .clmScrub 0 0x400000 true none, .clmScrub 0 1 true none, .keySwitch 3
    , .folioCommitComplete 2 0, .folioCommitComplete 0 5, .cardDetect 2 cart, .cardDetect 0 { cart with id := [] }
    , .mountComplete 2 true false, .cardRemoved 2, .powerFailWarning 5, .sensorReading 15 0, .sensorReading 0 128, .sensorReading 0 (-129)
    , .thermalTrip 15, .selfTestComplete 65536 0 [], .selfTestComplete 0 (2 ^ 32) [], .selfTestComplete 0 0 [(16, 0)]
    , .selfTestComplete 0 0 [(0, 16)], .partitionSelfTestComplete 16 0, .partitionSelfTestComplete 0 65536
    , .hello badLink 0 2 0 0 (zeros 192), .hello goodLink 256 2 0 0 (zeros 192), .hello goodLink 0 2 0 0 [], .time badLink 0 0 0
    , .time goodLink (2 ^ 64) 0 0, .time goodLink 0 (2 ^ 32) 0, .admitFrame badLink 0 0 [], .admitFrame goodLink 16 0 []
    , .admitFrame goodLink 0 (2 ^ 48) [], .data badLink 0 0 0 [], .data goodLink (2 ^ 48) 0 0 [], .data goodLink 0 16 0 []
    , .data goodLink 0 0 (2 ^ 64) [], .data goodLink 0 0 0 (zeros 257), .sealFrame badLink 0 0 0 true 0 [], .sealFrame goodLink 256 0 0 true 0 []
    , .sealFrame goodLink 0 17 0 true 0 [], .sealFrame goodLink 0 0 (2 ^ 48) true 0 [], .sealFrame goodLink 0 0 0 true (2 ^ 32) []
    , .sealFrame goodLink 0 0 0 true 0 (zeros 33), .control badLink 0 0 0 0, .control goodLink 256 0 0 0, .control goodLink 0 0 0 (2 ^ 64)
    , .linkRetrain 6 true, .formationComplete (2 ^ 64) 0 [], .formationComplete 0 (2 ^ 48) [], .formationComplete 0 0 [2 ^ 48]
    , .formationTimeout 65536, .verdictDeadline 17, .moduleInserted 2 true true 8 1, .moduleInserted 0 true true 256 1
    , .engineTimeout 17 0, .engineTimeout 0 (2 ^ 32), .setEndpointId 256, .getPdr (2 ^ 32), .getSensorReading 65536
    , .unsupportedSidebandMessage 256 0 0, .unsupportedSidebandMessage 0 0 1, .unsupportedSidebandMessage 0 256 0, .unsupportedSidebandMessage 0 0 256
    , .msixVectorUnmask 17 none, .msixVectorUnmask 0 (some 64), .msixModerationExpiry 17].all (fun i => !i.wf) = true := by decide +kernel

theorem test_wf_good : [Instr.doorbell 16 15 true 0xFFF 4 [], .timeSet hdr (2 ^ 64 - 1) (2 ^ 48 - 1), .shapeSet hdr 255 255 (List.replicate 12 0)
    , .checkFailure 16 15 65535 255, .hbmReadOutcome 15 15 196607 7 none, .clmScrub 255 0x3FFFC0 false none
    , .sensorReading 14 (-128), .cardDetect 1 cart, .time goodLink 0 0 (-5), .msixVectorUnmask 16 (some 63)].all Instr.wf = true := by
  decide +kernel

/-! Small states. -/

/-- READY, power on, nothing configured. -/
def rdy : State :=
  { State.reset with
    dev := { State.reset.dev with state := .ready, phase1 := false, banks := [{}, {}], linkGen := 6, linkWidth := 16 }
    board := { State.reset.board with perst := false } }

/-- `s` with one train, function, bay, link or part changed, or at a moment of the timebase. -/
def tr (k : Nat) (g : Train → Train) (s : State := rdy) : State := s.modTrain k g
def fnc (k : Nat) (g : Function → Function) (s : State := rdy) : State := s.modFn k g
def bayS (k : Nat) (g : Bay → Bay) (s : State := rdy) : State := s.modBay k g
def lnk (k : Nat) (g : Link → Link) (s : State := rdy) : State := s.modLink k g
def at_ (T : Nat) (s : State := rdy) : State := { s with clock := { s.clock with timebase := T, time := 10 * T } }

/-- A command in progress on train `k`. -/
def work (k id : Nat) (c : Command) (stage : Stage := .outside) (b : Behaviour := .waits) : Work :=
  { id := id, fn := if k = 16 then 0 else k + 1, bulk := false, cmd := c, flags := 0, seq := 0, tag := 7, part := if k = 16 then 255 else k
    params := [], train := k, behaviour := b, stage := stage }

/-- READY with that work on its train. -/
def withWork (w : Work) (s : State := rdy) : State := tr w.train (fun x => { x with works := [w] }) s

/-- A packet header of function `f`. -/
def ph (f plen : Nat) (bulk : Bool := false) : PacketHeader :=
  { fn := f, bulk := bulk, flags := 0, seq := 0, tag := 1, part := if f = 0 then 255 else f - 1, plen := plen, crc := none, stores := [] }

/-- READY with the rings of function `f` enabled. -/
def rings (f : Nat) (s : State := rdy) : State :=
  fnc f (fun x => { x with urgent := { x.urgent with enable := true }, bulk := { x.bulk with enable := true } }) s

theorem test_rdy_sound : rdy.wf = true ∧ rdy.ringsEmpty = true := by decide +kernel

/-! What meets the hypotheses of the statements, clause by clause: the step, reset and packets. -/

theorem wit_StepRunsFront : ({ rdy with pending := [.holdUpEnd, .getTid] } : State).pending = .holdUpEnd :: [.getTid] := rfl

theorem wit_EmptyQueueTicks : rdy.pending = [] ∧ rdy.board.good = true ∧ rdy.clock.slew = 0
    ∧ (0 < ({ timebase := 100, slew := 1 } : Clock).slew ∧ ({ timebase := 100, slew := 1 } : Clock).timebase % 100 = 0)
    ∧ (0 < ({ timebase := 99, slew := 1 } : Clock).slew ∧ ({ timebase := 99, slew := 1 } : Clock).timebase % 100 ≠ 0) := by decide +kernel

theorem wit_StepKeepsSoundness : rdy.wf = true ∧ step rdy = .next (tick rdy) := ⟨by decide +kernel, rfl⟩

theorem wit_DeviceTimeNeverBack : step rdy = .next (tick rdy) ∧ rdy.pending = [] := ⟨rfl, rfl⟩

theorem wit_CommandsLeaveTheQueue : exec .auxPowerReturn rdy = .next (rdy.modBoard (fun b => { b with aux := true })) := rfl

theorem wit_ParametersRoundTrip : submission (.timeSet hdr (2 ^ 64 - 1) (2 ^ 48 - 1)) = some (hdr, .timeSet (2 ^ 64 - 1) (2 ^ 48 - 1))
    ∧ (Instr.timeSet hdr (2 ^ 64 - 1) (2 ^ 48 - 1)).wf = true := ⟨rfl, by decide +kernel⟩

theorem test_wit_parameters_hold : Command.ofParams (Command.shapeSet 2 1 []).opcode (fit 52 (Command.shapeSet 2 1 [2 ^ 32 - 1]).params)
    = some (.shapeSet 2 1 ((2 ^ 32 - 1) :: List.replicate 11 0)) := by decide +kernel

theorem wit_PacketFieldsRoundTrip : hdr.wf = true ∧ { hdr with crc := none }.crc = none := by decide +kernel

/-- The checked NOP of `wit_PacketAccepted`. -/
def nopAt : State := (rings 0).arrived (ph 0 0) .nop
def nopPacket : Packet := Packet.ofBytes 0 false (packetBytes (ph 0 0) .nop)
def nopExpected : State := nopAt.modRing 0 false (fun r => { r with expect := (r.expect + 1) % 65536 })
def okInfo (r : Except (Nat × Refuse) (OpInfo × Command)) : OpInfo × Command :=
  match r with
  | .ok x => x
  | .error _ => ({ lane := 9, sender := .any, len := 0, behaviour := .zero }, .nop)
def okWork (r : Except Refuse Work) : Option Work := match r with | .ok w => some w | .error _ => none

theorem okInfo_spec (r : Except (Nat × Refuse) (OpInfo × Command)) (h : (okInfo r).1.lane ≠ 9) : r = .ok (okInfo r) := by
  rcases r with x | x
  · exact absurd rfl h
  · rfl

theorem okWork_spec (r : Except Refuse Work) (h : (okWork r).isSome = true) : ∃ w, r = .ok w := by
  rcases r with x | x
  · cases h
  · exact ⟨x, rfl⟩

def nopInfo : OpInfo := (okInfo (nopAt.screen nopPacket false)).1
def nopChecked : Except Refuse Work := nopExpected.entryChecked { nopPacket.work .nop nopInfo 16 (rings 0).dev.nextOrder with
  audited := audited nopInfo nopPacket, records := 0 }

theorem wit_PacketAccepted : submission (.nop (ph 0 0)) = some (ph 0 0, .nop) ∧ (rings 0).wf = true ∧ (rings 0).ringsEmpty = true
    ∧ (rings 0).checksRings 0 = true ∧ ((rings 0).ring 0 false).enable = true ∧ ((rings 0).ring 0 false).early = 0
    ∧ 6 ≤ ((rings 0).ring 0 false).depthLog2 ∧ ((rings 0).ring 0 false).depthLog2 ≤ 12
    ∧ ((rings 0).ring 0 false).tail < ((rings 0).ring 0 false).depth ∧ nopAt.addressee nopPacket = 16
    ∧ nopAt.screen nopPacket false = .ok (nopInfo, .nop)
    ∧ (if audited nopInfo nopPacket && !holdExempt nopPacket.opcode then
          nopExpected.reserve (nopExpected.recordsFor nopPacket 16) (nopExpected.policyOf 16)
        else (.ok 0, nopExpected)) = (.ok 0, nopExpected)
    ∧ (decide ((16 : Nat) < 16) && (nopExpected.train 16).draining) = false ∧ ∃ w, nopChecked = .ok w := by
  have a : audited nopInfo nopPacket = false := by decide +kernel
  have s := okInfo_spec (nopAt.screen nopPacket false) (by decide +kernel)
  have c : (okInfo (nopAt.screen nopPacket false)).2 = .nop := by decide +kernel
  refine ⟨rfl, ?_, ?_, ?_, ?_, ?_, ?_, ?_, ?_, ?_, ?_, ?_, ?_, okWork_spec nopChecked (by decide +kernel)⟩
  case refine_10 => exact s.trans (congrArg Except.ok ((Prod.eta _).symm.trans (congrArg (Prod.mk nopInfo) c)))
  case refine_11 => simp only [a, Bool.false_and, Bool.false_eq_true, if_false]
  all_goals decide +kernel

theorem wit_AcceptanceEffects : rdy.wf = true
    ∧ [work 16 0 (.shutdown 0), work 15 0 (.shapeSet 15 1 [7]), { work 15 0 (.bellowsDeregister 1 0) with fn := 16 }
      , work 16 0 (.consortForm 1 2 0 3 (zeros 32) 1), work 16 0 .nop].all (fun w => decide (w.train < 17 ∧ w.fn < 17)) = true := by decide +kernel

/-- Four packets: to a frozen ring, of a partition that leads no group, with a bad CRC, and at distances 32,767 and 32,768. -/
def frozenS : State := fnc 1 (fun f => { f with frozen := true })
def pairS : State := (rdy.modPart 14 (fun x => { x with size := 2 })).modPart 15 (fun x => { x with leader := 14, size := 2 })
def aPacket (f seq crc : Nat) : Packet :=
  Packet.ofBytes f false (packetBytes { ph f 0 with seq := seq, crc := if crc = 0 then none else some crc } .nop)

theorem wit_FirstChecksInOrder : (frozenS.fn 1).frozen = true
    ∧ ((pairS.fn 16).frozen = false ∧ ((aPacket 16 0 0).fn ≠ 0
        ∧ (pairS.leaderOf 15 ≠ 15 ∨ (pairS.consort.member = true ∧ pairS.consort.card ≠ 0))))
    ∧ ((rdy.fn 16).frozen = false ∧ ¬((aPacket 16 0 1).fn ≠ 0 ∧ (rdy.leaderOf 15 ≠ 15 ∨ (rdy.consort.member = true ∧ rdy.consort.card ≠ 0)))
        ∧ (aPacket 16 0 1).crcGood = false)
    ∧ ((aPacket 16 32767 0).crcGood = true ∧ ((aPacket 16 32767 0).seq + 65536 - (rdy.ring 16 false).expect) % 65536 = 32767)
    ∧ ((aPacket 16 32768 0).crcGood = true ∧ ((aPacket 16 32768 0).seq + 65536 - (rdy.ring 16 false).expect) % 65536 = 32768) := by
  decide +kernel

/-- The step at which a packet stops, 15 for none. -/
def stepOf (r : Except (Nat × Refuse) (OpInfo × Command)) : Nat := match r with | .ok _ => 15 | .error (k, _) => k

theorem stepOf_below (r : Except (Nat × Refuse) (OpInfo × Command)) : (∃ k x, r = .error (k, x) ∧ k < 5) ↔ stepOf r < 5 := by
  rcases r with ⟨k, x⟩ | x
  · constructor
    · rintro ⟨k', x', h, hk⟩; cases h; exact hk
    · intro h; exact ⟨k, x, rfl, h⟩
  · constructor
    · rintro ⟨_, _, h, _⟩; cases h
    · intro h; exact absurd (show (15 : Nat) < 5 from h) (by decide)

theorem wit_SequenceConsumedOnceInOrder : rdy.wf = true ∧ (aPacket 16 1 0).fn < 17
    ∧ (∃ k x, (rdy.modDev (fun d => { d with nextOrder := d.nextOrder + 1 })).screen (aPacket 16 1 0) false = .error (k, x) ∧ k < 5)
    ∧ ¬(∃ k x, (rdy.modDev (fun d => { d with nextOrder := d.nextOrder + 1 })).screen (aPacket 16 0 0) true = .error (k, x) ∧ k < 5)
    ∧ ¬(∃ k x, (rdy.modDev (fun d => { d with nextOrder := d.nextOrder + 1 })).screen (aPacket 16 0 0) false = .error (k, x) ∧ k < 5) := by
  simp only [stepOf_below]
  decide +kernel

theorem wit_SixtyFifthViolationFreezes : rdy.wf = true ∧ (16 : Nat) < 17 ∧ (frozenS.fn 1).frozen = true
    ∧ ((fnc 16 (fun f => { f with violationTimes := List.replicate 64 0 }) (at_ 100000000)).fn 16).frozen = false := by decide +kernel

theorem wit_SubmissionFrame : ∃ t, submission (.sealClear (ph 0 0)) = some (ph 0 0, .sealClear) ∧ exec (.sealClear (ph 0 0)) rdy = .next t :=
  ⟨_, rfl, rfl⟩

/-! HBM, admission, time and seals. -/

theorem wit_GroupAddressMap : (0 < 16 ∧ 16 * 0x300000000 - 1 < 16 * 0x300000000) ∧ (0 < 1 ∧ 0x300000000 - 1 < 1 * 0x300000000) := by decide

theorem wit_GranulesSpreadOverChannels : (15 : Nat) < 16 := by decide

/-- The decode of one address in Table 13.8. -/
theorem test_address_decode : mapHbm 4 4 0x2456789A0 = (7, 0x915989A0) ∧ channelOf 0x915989A0 = 2 ∧ channelPlace 7 2 = (2, 13, 0)
    ∧ channelAddr 0x915989A0 = 0x091599A0 := by decide

/-- The macros that Breath 64 × 5 + 3 tests (R370): indices 6 and 7, macros 6 and 7 of core 0; Breath 63 ends with core 15. -/
theorem test_tested_macros : (testedIndices 323).map testedMacro = [(0, 6), (0, 7)]
    ∧ (testedIndices 63).map testedMacro = [(15, 6), (15, 7)] := by decide

theorem wit_HbmWriteThenRead : rdy.wf = true ∧ rdy.consort.member = false ∧ (15 : Nat) < 16 ∧ 0 < rdy.groupSize 15 ∧ 15 + rdy.groupSize 15 ≤ 16
    ∧ (0x300000000 - 1) + [(1 : Byte)].length ≤ rdy.groupBytes 15 ∧ 0x300000000 - 1 < rdy.groupBytes 15 := by decide +kernel

theorem wit_FillWritesThePattern : pairS.wf = true ∧ pairS.consort.member = false ∧ (14 : Nat) < 16 ∧ 0 < pairS.groupSize 14
    ∧ 14 + pairS.groupSize 14 ≤ 16 ∧ (2 * 0x300000000 - 64) % 64 = 0 ∧ (2 * 0x300000000 - 64) + 64 * 1 ≤ pairS.groupBytes 14
    ∧ pairS.rangeRetired 14 (2 * 0x300000000 - 64) 64 = false ∧ 2 * 0x300000000 - 65 < pairS.groupBytes 14 := by decide +kernel

theorem wit_AdmissionCeiling : 5 ≤ 5 ∧ 2 ≤ 2 := by decide

/-- An Urgent command that waits for admission. -/
def waitingS : State := withWork (work 0 1 .nop .waiting .zero)

theorem wit_AdmissionFitsAndAnswersUrgent : (waitingS.formSet 0 0).pieces ≠ [] ∧ work 0 1 .nop .waiting .zero ∈ (waitingS.train 0).works
    ∧ (work 0 1 .nop .waiting .zero).bulk = false ∧ (work 0 1 .nop .waiting .zero).live = true ∧ (work 0 1 .nop .waiting .zero).status = 0
    ∧ (work 0 1 .nop .waiting .zero).arrived ≤ 0 ∧ (work 0 1 .nop .waiting .zero).cut = false ∧ (work 0 1 .nop .waiting .zero).stage = .waiting
    ∧ (work 0 1 .nop .waiting .zero).stepsAdmitted < (work 0 1 .nop .waiting .zero).steps := by decide +kernel

theorem wit_TimeSetStepsOrSlews : rdy.wf = true ∧ (work 16 0 .nop).train < 17 ∧ (at_ 1000000).clock.time ≤ 10000000
    ∧ ((9000000 : Nat) < (at_ 1000000).clock.time ∧ (at_ 1000000).clock.time - 9000000 ≤ 1000000)
    ∧ 1000000 < (at_ 1000000).clock.time - 8999999 ∧ rdy.board.good = true := by decide +kernel

theorem wit_FailedSealPostsNothing : rdy.wf = true ∧ (16 : Nat) < 17 ∧ 2 ≤ ((tr 16 (fun x => { x with failures := 2 })).train 16).failures := by
  decide +kernel

/-! Rings, queues and registers. -/

theorem wit_DoorbellMovesTailOrIsDiscarded : (rings 16).wf = true ∧ ringOwner 16 15 = some 16 ∧ ringOwner 0 16 = some 0 ∧ (16 : Nat) < 17
    ∧ (rings 16).registersAnswer = true
    ∧ (let r := (rings 16).ring 16 false
       (r.depth ≤ 64 ∧ ¬(r.depth ≤ 63 ∨ r.depth - 1 < (r.tail + r.depth - r.head) % r.depth + (63 + r.depth - r.tail) % r.depth
          ∨ r.enable = false ∨ (4 : Nat) ≠ 4)) ∧ r.tail = 0) ∧ (rings 16).ringsEmpty = true := by decide +kernel

theorem wit_RingRegisterWrites : rdy.wf = true ∧ ringOwner 16 15 = some 16 ∧ blockOwner 16 15 = some 16 ∧ blockOwner 0 16 = some 0
    ∧ rdy.registersAnswer = true ∧ (6 ≤ 12 ∧ 12 ≤ 12) ∧ (rdy.ring 16 true).enable = false
    ∧ (let s := fnc 16 (fun f => { f with bulk := { f.bulk with enable := true, tail := 1 } })
       s.wf = true ∧ s.registersAnswer = true ∧ (s.ring 16 true).enable = true ∧ (s.ring 16 true).head ≠ (s.ring 16 true).tail)
    ∧ (let s := withWork { work 15 0 .nop with bulk := true } (fnc 16 (fun f => { f with bulk := { f.bulk with enable := true } }))
       s.wf = true ∧ s.registersAnswer = true ∧ (s.ring 16 true).enable = true ∧ s.ringBusy 16 true = true) := by decide +kernel

theorem wit_QueueRegisterWrites : rdy.wf = true ∧ blockOwner 16 15 = some 16 ∧ rdy.registersAnswer = true ∧ (4095 : Nat) < 4096
    ∧ (let q := (rdy.fn 16).reply
       (q.depth ≤ 4095) ∧ ¬(q.depth ≤ 0 ∨ (q.tail + q.depth - q.head) % q.depth < (0 + q.depth - q.head) % q.depth)
        ∧ q.held = [] ∧ (q.tail + 1) % q.depth ≠ 0 ∧ q.enable = false ∧ q.head ≠ 1)
    ∧ (let q := (rdy.fn 16).events
       (q.depth ≤ 4095) ∧ ¬(q.depth ≤ 0 ∨ (q.tail + q.depth - q.head) % q.depth < (0 + q.depth - q.head) % q.depth)
        ∧ q.lostFull = 0 ∧ q.enable = false ∧ q.hold = [] ∧ q.lostRate = 0 ∧ q.raisedDisabled = 0)
    ∧ rdy.ringsEmpty = true ∧ (15 : Nat) < 16 ∧ (6 ≤ 12 ∧ 12 ≤ 12) ∧ 1000 ≤ 1000 := by decide +kernel

theorem wit_CounterSnapshotAndClear : rdy.wf = true ∧ (15 : Nat) < 16 ∧ ((16 : Nat) = 0 ∨ (16 : Nat) = 15 + 1) ∧ rdy.registersAnswer = true
    ∧ (3 : Nat) < 4 := by decide +kernel

/-- FAILED, inside a presence window. -/
def failedS : State := { rdy with
  dev := { rdy.dev with state := .failed }, presence := { rdy.presence with key := .present, window := some 100 } }

theorem wit_ControlRegisterWrites : rdy.wf = true ∧ ((0 : Nat) = 0 ∧ (16 : Nat) = 16 ∨ (0 : Nat) = 16 + 1 ∧ (16 : Nat) < 16)
    ∧ ((16 : Nat) = 0 ∧ (15 : Nat) = 16 ∨ (16 : Nat) = 15 + 1 ∧ (15 : Nat) < 16) ∧ rdy.registersAnswer = true ∧ (15 : Nat) < 16
    ∧ (196607 : Nat) < 196608 ∧ rdy.dev.state = .ready ∧ rdy.dev.restartCause = 0 ∧ rdy.consort.member = false ∧ ((3 : Nat) = 1 ∨ (3 : Nat) = 3)
    ∧ (∃ k ∈ rdy.activeTrains, (rdy.train k).halt = .none)
    ∧ failedS.powered = true ∧ failedS.dev.state = .failed ∧ failedS.presenceProblem false = none ∧ failedS.bankSkipped 0 = true
    ∧ failedS.bankSkipped 1 = true ∧ failedS.dev.recoveryProgress = 0 := by decide +kernel

theorem wit_LatchingReads : rdy.wf = true ∧ blockOwner 16 15 = some 16 ∧ (16 : Nat) < 17 ∧ rdy.registersAnswer = true ∧ (rdy.fn 16).latch = none
    ∧ (rdy.fn 16).lastViolation < 2 ^ 64 ∧ (rdy.fn 0).latch = none
    ∧ ((8 : Nat) < 16 ∧ ((8 : Nat) = 8 ∨ (8 : Nat) = 4) ∧ registerWidth 0x400210 = 16 ∧ 0x400210 % 8 = 0
        ∧ ((16 : Nat) = 8 → halvesLatch 0x400210 = true) ∧ violationAt 0 0x400210 = none ∧ (0x400210 : Nat) ≠ 0x400108)
    ∧ ((4 : Nat) < 8 ∧ registerWidth 0x30 = 8 ∧ 0x30 % 8 = 0 ∧ halvesLatch 0x30 = true ∧ violationAt 0 0x30 = none)
    ∧ (let s := fnc 16 (fun f => { f with latch := some { next := 4, bytes := zeros 4 } })
       s.wf = true ∧ (4 : Nat) % 4 = 0 ∧ (zeros 4).length = 4 ∧ (s.fn 16).latch = some { next := 4, bytes := zeros 4 }) := by decide +kernel

theorem wit_PlainRegisterWrites : rdy.wf = true ∧ rdy.registersAnswer = true ∧ (14 : Nat) < 15 ∧ rdy.board.sensors.length = 15
    ∧ ((125 : Nat) ≤ 125 ∨ 65496 ≤ 125 ∧ 125 < 65536) ∧ ((65496 : Nat) ≤ 125 ∨ 65496 ≤ 65496 ∧ 65496 < 65536) ∧ (15 : Nat) < 16 ∧ 0x1000 % 4096 = 0
    ∧ (rdy.fn (15 + 1)).reply.enable = false ∧ ((2 ≠ 4 ∧ 2 ≠ 8) ∨ 0x280 % 2 ≠ 0) ∧ ((4 ≠ 4 ∧ 4 ≠ 8) ∨ 0x282 % 4 ≠ 0)
    ∧ blockAt 0x282 = none ∧ 0x282 / 8 * 8 ≠ 0x2010 ∧ 0x282 / 8 * 8 ≠ 0x2050 := by decide +kernel

theorem wit_Bar2Accesses : rdy.beforeReady = false ∧ rdy.presence.loop = true ∧ rdy.presence.latch = false
    ∧ (let s : State := { rdy with presence := { rdy.presence with latch := true } }
       s.beforeReady = false ∧ (s.presence.loop = false ∨ s.presence.latch = true))
    ∧ (let s : State := { rdy with presence := { rdy.presence with key := .present, window := some 1 } }
       s.beforeReady = false ∧ s.presenceProblem false = none ∧ (s.fn 16).windowBase + (0x300000000 - 1) + [(1 : Byte)].length ≤ 0x300000000
        ∧ s.dev.retired.contains (15, ((s.fn 16).windowBase + (0x300000000 - 1)) / 65536) = false
        ∧ (s.protectedRanges (s.leaderOf 15)).any (·.meets ⟨unmapHbm (s.leaderOf 15) (s.groupSize (s.leaderOf 15)) 15
            ((s.fn 16).windowBase + (0x300000000 - 1)), [(1 : Byte)].length⟩) = false
        ∧ s.dev.heldWrites.foldl (fun n h => n + h.data.length) 0 + [(1 : Byte)].length ≤ 65536) := by decide +kernel

/-! Resets and start-up. -/

theorem wit_DeviceResetState : rdy.powered = true
    ∧ (let s : State := { rdy with dev := { rdy.dev with keepTraining := true, trained := true } }
       s.dev.keepTraining = true ∧ s.dev.trained = true)
    ∧ (let s : State := { rdy with board := { rdy.board with good := false } }
       s.board.aux = true ∧ s.board.good = false)
    ∧ State.reset.powered = true ∧ State.reset.board.perst = true := by decide +kernel

theorem wit_FunctionLevelResetState : pairS.wf = true ∧ (14 : Nat) < 16 ∧ pairS.leaderOf 14 = 14 ∧ pairS.consort.member = false
    ∧ pairS.powered = true ∧ 14 + (pairS.part 14).size ≤ 16 ∧ 0 < (pairS.part 14).size ∧ (15 : Nat) < 16 ∧ pairS.leaderOf 15 ≠ 15 := by decide +kernel

/-- The device in a state of start-up. -/
def boot (st : DevState) (phase1 : Bool := false) : State := { rdy with dev := { rdy.dev with state := st, phase1 := phase1 } }

theorem wit_StartUpPhases : (let s := boot .booting true
      s.powered = true ∧ s.dev.state = .booting ∧ s.dev.phase1 = true ∧ s.board.perst = false)
    ∧ (let s := boot .booting
       s.powered = true ∧ s.dev.state = .booting ∧ s.dev.phase1 = false)
    ∧ (let s : State := { boot .recovering with ledger := { State.reset.ledger with open_ := [zeros 128] } }
       s.powered = true ∧ s.dev.state = .recovering ∧ s.ledger.open_ ≠ [])
    ∧ ((boot .training).powered = true ∧ (boot .training).dev.state = .training)
    ∧ ((boot .testing).wf = true ∧ (boot .testing).powered = true ∧ (boot .testing).dev.state = .testing ∧ (65535 : Nat) < 65536
        ∧ ∀ x ∈ [((15 : Nat), (15 : Nat))], x.1 < 16 ∧ x.2 < 16)
    ∧ ((boot .initialising).powered = true ∧ (boot .initialising).dev.state = .initialising)
    ∧ ((boot .mounting).powered = true ∧ (boot .mounting).dev.state = .mounting ∧ (boot .mounting).bays.any (fun b => b.state == .mounting) = false
        ∧ (boot .mounting).ringsEmpty = true)
    ∧ (let s := at_ 500000000 (boot .booting)
       s.powered = true ∧ s.beforeReady = true ∧ s.dev.state ≠ .failed ∧ s.dev.phase1 = false
        ∧ s.dev.attemptStart + 500000000 ≤ s.clock.timebase ∧ s.dev.banks.length = 2 ∧ s.dev.selector < 2)
    ∧ (let s : State := { failedS with dev := { failedS.dev with recoveryProgress := 2 } }
       s.powered = true ∧ s.dev.state = .failed ∧ s.dev.recoveryProgress = 2 ∧ s.dev.banks.length = 2) := by decide +kernel

theorem wit_RestartCompletions : (rdy.wf = true ∧ rdy.powered = true ∧ rdy.dev.state = .ready ∧ rdy.consort.member = false
      ∧ 16 ∈ rdy.activeTrains ∧ (((tr 16 (fun x => { x with phase := .sealing })).train 16).phase = .working
        ∨ ((tr 16 (fun x => { x with phase := .sealing })).train 16).phase = .sealing))
    ∧ (let s := tr 15 (fun x => { x with halt := .restart }) (boot .restarting)
       s.wf = true ∧ s.powered = true ∧ s.dev.state = .restarting ∧ s.dev.shutdownWork = none ∧ s.ringsEmpty = true ∧ 15 ∈ s.activeTrains
        ∧ (s.train 15).halt = .restart)
    ∧ (let s := tr 14 (fun x => { x with halt := .reset }) pairS
       s.wf = true ∧ s.powered = true ∧ s.dev.state = .ready ∧ s.dev.restartCause = 0 ∧ (14 : Nat) < 16 ∧ (s.train 14).halt = .reset
        ∧ 14 + (s.part 14).size ≤ 16 ∧ s.ringsEmpty = true ∧ bit 0x8000 15 = true ∧ bit 0x8000 14 = false
        ∧ (s.part 14).channels.any (·.failed) = false) := by decide +kernel

/-! The Breath. -/

/-- A train at work in its Breath, or in its seal window. -/
def busy (k : Nat) (p : Phase) (s : State := rdy) : State := tr k (fun x => { x with phase := p }) s

theorem wit_BreathStartsOnTheGrid : rdy.wf = true ∧ (16 : Nat) < 17 ∧ rdy.consort.member = false
    ∧ (at_ 9999).clock.timebase % (500 * ((at_ 9999).train 16).n5Due) ≠ 0 ∧ (at_ 10000).mayBegin 16 = true := by
  decide +kernel

theorem wit_AdmissionPointOpensSealWindow : (let s := at_ 9800 (busy 16 .working)
      s.wf = true ∧ (16 : Nat) < 17 ∧ s.powered = true ∧ (s.train 16).phase = .working
        ∧ (s.train 16).start + periodUnits (s.train 16).n5 - 200 ≤ s.clock.timebase) := by decide +kernel

/-- A step that is admitted and not done. -/
def piece : Piece := { work := 1, step := 0, cycles := 100, breath := 0 }

theorem wit_WorkCompletesInOrder : (let s := at_ 9800 (tr 16 (fun x => { x with admitted := [piece] })
        (withWork (work 16 1 (.diagRun 0) .running .compute) (busy 16 .working)))
      s.wf = true ∧ (16 : Nat) < 17 ∧ s.powered = true ∧ (s.train 16).phase = .working ∧ (s.train 16).start + 50 ≤ s.clock.timebase
        ∧ s.clock.timebase ≤ (s.train 16).start + periodUnits (s.train 16).n5 - 200
        ∧ (s.train 16).admitted.find? (fun q => !q.done) = some piece) := by
  decide +kernel

theorem wit_SealDecidedByCauses : (let s := at_ 9800 (tr 16 (fun x => { x with causes := 0x8000 }) (busy 16 .sealing))
      s.wf = true ∧ s.powered = true ∧ 16 ∈ s.activeTrains ∧ s.consort.member = false ∧ (s.train 16).phase = .sealing ∧ (s.train 16).closing = false
        ∧ (s.train 16).objects.monitors = [] ∧ s.ringsEmpty = true ∧ (s.train 16).start + periodUnits (s.train 16).n5 - 200 ≤ s.clock.timebase
        ∧ s.clock.timebase ≤ (s.train 16).start + periodUnits (s.train 16).n5 - 50 ∧ (s.train 16).causes ≠ 0)
    ∧ (let s := at_ 9950 (busy 0 .sealing)
      s.wf = true ∧ s.powered = true ∧ 0 ∈ s.activeTrains ∧ s.consort.member = false ∧ (s.train 0).phase = .sealing ∧ (s.train 0).closing = false
        ∧ (s.train 0).objects.monitors = [] ∧ s.ringsEmpty = true ∧ (s.train 0).start + periodUnits (s.train 0).n5 - 200 ≤ s.clock.timebase
        ∧ s.clock.timebase ≤ (s.train 0).start + periodUnits (s.train 0).n5 - 50 ∧ (s.train 0).causes = 0) := by decide +kernel

theorem wit_CheckFailureIsLatched : (let s := tr 15 (fun x => { x with repaired := [(255, 7)] }) (busy 15 .sealing)
      s.wf = true ∧ s.powered = true ∧ 15 ∈ s.activeTrains ∧ (15 : Nat) < 16 ∧ (7 : Nat) < 16
        ∧ ((s.train 15).phase = .working ∨ (s.train 15).phase = .sealing) ∧ (s.train 15).closing = false
        ∧ s.checkFires 15 7 255 7 = true ∧ s.pinning 15 255 = none ∧ s.repinning 15 255 = none)
    ∧ ((busy 15 .working).checkFires 15 8 240 0xFF = true ∧ (8 : Nat) ≠ 7) := by decide +kernel

theorem wit_HbmReadOutcomes : rdy.wf = true ∧ rdy.powered = true ∧ (15 : Nat) < 16
    ∧ rdy.repairHit (rdy.leaderOf 15) (unmapHbm (rdy.leaderOf 15) (rdy.groupSize (rdy.leaderOf 15)) 15 (196607 * 65536)) = none := by decide +kernel

/-- A session with one picture waiting, and its decode running. -/
def session : Session :=
  { handle := 5, fn := 1, codec := 0, width := 16, height := 16, desc := 0, wide := false, format := 0, outW := 16, outH := 16, rate := 0
    bins := 0, perCommand := 1, options := 0, pitch := 64, present := 0, buffers := [], engine := 0 }

theorem wit_ScrubAndEngineTimeout : rdy.wf = true ∧ rdy.powered = true ∧ (255 : Nat) < 256 ∧ rdy.leaderOf (255 / 16) < 16
    ∧ (let w := work 0 1 (.vidDecode 5 {} {}) .running .compute
       let s := tr 0 (fun x => { x with objects := { x.objects with sessions := [session] } }) (withWork w (busy 0 .working))
       s.wf = true ∧ (0 : Nat) < 16 ∧ s.powered = true ∧ (s.train 0).phase = .working
        ∧ (s.train 0).works.find? (fun w => w.stage == .running && (match w.cmd with
          | .vidDecode h _ _ => h == 5
          | _ => false)) = some w
        ∧ (s.train 0).objects.sessions.find? (fun x => x.handle == 5) = some session) := by decide +kernel

/-! Ends of effects, limits and failed accesses. -/

theorem wit_OutsideEffectsEnd : (let w := work 15 1 (.retirePage 0x2FFFFFFFF)
      let s := withWork w
      s.wf = true ∧ s.powered = true ∧ w.train < 17 ∧ s.oldestOutside 0x25 = some w ∧ s.onCard 0x2FFFFFFFF = true ∧ s.dev.retired.length < 4096
        ∧ s.dev.retired.contains ((mapHbm 15 (s.groupSize 15) (s.localAddr 0x2FFFFFFFF)).1, (mapHbm 15 (s.groupSize 15) (s.localAddr 0x2FFFFFFFF)).2 / 65536)
          = false)
    ∧ (let w := { work 16 1 (.fwUpdate {} 1 1) with auxBytes := [1] }
       let s := withWork w
       s.wf = true ∧ w.train < 17 ∧ s.dev.banks.length = 2 ∧ (1 : Nat) < 2 ∧ s.oldestOutside 0xB0 = some w)
    ∧ (let w := { work 16 1 (.ownerKeyInstall {}) with auxBytes := zeros 97 }
       (withWork w).wf = true ∧ w.train < 17 ∧ (withWork w).oldestOutside 0xB1 = some w)
    ∧ (let w := work 16 1 (.attest (zeros 32) {})
       (withWork w).wf = true ∧ w.train < 17 ∧ (withWork w).oldestOutside 0xB4 = some w)
    ∧ (let w := { work 15 1 (.bellowsDeregister 9 1) with aux := [0, 1] }
       (withWork w).wf = true ∧ w.train < 17 ∧ (withWork w).allWorks.find? (fun w => w.fn == 16 && w.stage == .outside && (w.cmd == .bellowsDeregister 9 0
          || (w.cmd == .bellowsDeregister 9 1 && w.aux != []))) = some w)
    ∧ (let w := work 16 1 (.shutdown 0)
       let s := withWork w { boot .shuttingDown with dev := { (boot .shuttingDown).dev with shutdownWork := some 1 } }
       s.wf = true ∧ s.outside (fun c => c.opcode == 0x03) = [w] ∧ s.dev.state = .shuttingDown ∧ s.allIdle = true
        ∧ s.ledger.open_ = [] ∧ s.nothingToCommit = true) := by decide +kernel

theorem wit_LimitsAndStops_drain : (let w := work 16 1 (.partGroup 14 2 2 0 20 0)
    let s := withWork w (tr 15 (fun x => { x with draining := true, works := [work 15 2 (.jobSubmit 0 0 5 {} {}) .running .sliced] }))
    s.wf = true ∧ 15 ∈ s.leaders ∧ s.drainElapsed 15 = true ∧ s.drainElapsed 14 = false ∧ 16 ∉ s.leaders) := by
  decide +kernel

theorem wit_LimitsAndStops_shutdown : rdy.wf = true ∧ rdy.shutdownElapsed = false
    ∧ (let s := withWork { work 16 1 (.shutdown 0) with aux := [0] }
          (withWork (work 15 2 (.jobSubmit 0 0 5 {} {}) .running .sliced) (boot .shuttingDown))
       s.wf = true ∧ s.shutdownElapsed = true ∧ (work 15 2 (.jobSubmit 0 0 5 {} {}) .running .sliced).sliced = true) := by decide +kernel

def regroupWork : Work := work 16 1 (.partGroup 14 2 2 0 20 0)
def regroupS : State := withWork regroupWork (tr 14 (fun x => { x with halt := .regroup }) (tr 15 (fun x => { x with halt := .regroup })))

theorem wit_LimitsAndStops_regroup : regroupS.wf = true ∧ regroupS.powered = true ∧ regroupS.ringsEmpty = true
    ∧ regroupS.regroup? = some (regroupWork, 14, 2, 2, 0, 20) ∧ 14 + 2 ≤ 16
    ∧ ∀ k ∈ regroupS.leaders, 14 ≤ k → k < 14 + 2 → ((regroupS.train k).halt = .regroup ∧ k + (regroupS.part k).size ≤ 14 + 2) := by
  decide +kernel

theorem wit_LimitsAndStops_stop : (let w := work 16 1 (.snapshotStop 3 1 0)
    let s := (List.range 16).foldl (fun s k => tr k (fun x => { x with halt := .snapshot }) s) (withWork w { rdy with dev := { rdy.dev with stopWork := some 1 } })
    s.wf = true ∧ s.dev.stopWork.bind (s.work? adminTrain) = some w ∧ s.allStopped = true) := by decide +kernel

/-- The SHA-256 of no bytes, as FIPS 180-4 gives it. -/
def shaOfNothing : List Byte :=
  [0xe3, 0xb0, 0xc4, 0x42, 0x98, 0xfc, 0x1c, 0x14, 0x9a, 0xfb, 0xf4, 0xc8, 0x99, 0x6f, 0xb9, 0x24,
   0x27, 0xae, 0x41, 0xe4, 0x64, 0x9b, 0x93, 0x4c, 0xa4, 0x95, 0x99, 0x1b, 0x78, 0x52, 0xb8, 0x55]

theorem test_sha256_of_nothing : sha256 [] = shaOfNothing := by decide +kernel

/-- A checkpoint image without pages, objects or jobs: its header page alone, as far
as it is not zero (Table 17.2). -/
def emptyImage : List Byte :=
  splice (splice (splice (splice (splice (splice (splice (splice (zeros 168) 0 [1]) 5 [0x10]) 9 [0x10]) 22 [20]) 24 [1, 0, 1]) 56 [1, 0, 1, 0])
    128 shaOfNothing) 160 (List.replicate 8 255)

theorem firstNonZero_beyond (r : List Byte) (k : Nat) : ∀ o, r.length ≤ o → firstNonZero r o k = none := by
  induction k with
  | zero => intro o _; rfl
  | succ k ih =>
    intro o h
    have z : field r o 1 = 0 := by simp [field, slice, List.drop_eq_nil_of_le h, zeros, leVal]
    simp [firstNonZero, z, ih (o + 1) (by omega)]

/-- A RESTORE that has read an empty stream, and one that has read the image. -/
def restoreBare : Work := work 15 1 (.restore 1 0)
def restoreFull : Work := { restoreBare with held := [{ ref := {}, ordinal := 0, length := 4096, bytes := emptyImage }] }

theorem wit_RestoreCompletes_bad : (withWork restoreBare).wf = true ∧ (15 : Nat) < 16
    ∧ ((withWork restoreBare).train 15).works.find? (fun w => w.cmd.opcode == 0x82 && w.stage == .outside) = some restoreBare ∧ restoreBare.train = 15
    ∧ ∃ r, (withWork restoreBare).headerProblem 15 restoreBare.stream = some r := by
  refine ⟨by decide +kernel, by decide, by decide +kernel, rfl, ((withWork restoreBare).headerProblem 15 []).getD { status := 0 }, ?_⟩
  decide +kernel

theorem wit_RestoreCompletes_good : (withWork restoreFull).wf = true
    ∧ ((withWork restoreFull).train 15).works.find? (fun w => w.cmd.opcode == 0x82 && w.stage == .outside) = some restoreFull
    ∧ (withWork restoreFull).headerProblem 15 restoreFull.stream = none ∧ (withWork restoreFull).imageFault 15 restoreFull.stream = none := by
  have e : restoreFull.stream = emptyImage := by decide +kernel
  refine ⟨by decide +kernel, by decide +kernel, ?_, ?_⟩ <;> rw [e]
  case refine_2 => decide +kernel
  exact (congrArg ((withWork restoreFull).headerProblemGiven 15 emptyImage)
    (firstNonZero_beyond emptyImage 3832 168 (by decide +kernel))).trans (by decide +kernel)

/-- The same image with another digest. -/
def spoiltImage : List Byte := splice emptyImage 128 [0]
def restoreSpoilt : Work := { restoreBare with held := [{ ref := {}, ordinal := 0, length := 4096, bytes := spoiltImage }] }

theorem wit_RestoreCompletes_fault : (withWork restoreSpoilt).wf = true
    ∧ ((withWork restoreSpoilt).train 15).works.find? (fun w => w.cmd.opcode == 0x82 && w.stage == .outside) = some restoreSpoilt
    ∧ (withWork restoreSpoilt).headerProblem 15 restoreSpoilt.stream = none
    ∧ ∃ r, (withWork restoreSpoilt).imageFault 15 restoreSpoilt.stream = some r := by
  have e : restoreSpoilt.stream = spoiltImage := by decide +kernel
  refine ⟨by decide +kernel, by decide +kernel, ?_, badParam 0x1102, ?_⟩ <;> rw [e]
  case refine_2 => decide +kernel
  exact (congrArg ((withWork restoreSpoilt).headerProblemGiven 15 spoiltImage)
    (firstNonZero_beyond spoiltImage 3832 168 (by decide +kernel))).trans (by decide +kernel)

def heldWork : Work := { work 15 1 (.bellowsRead { region := 3, slot := 2 } 0) .running .compute with
  held := [{ ref := { region := 3, slot := 2 }, ordinal := 0, length := 64 }] }

def heldRegion : Region := { handle := 3, train := 15, spill := false, slotLog2 := 12, count := 3, options := 0, headerBase := 0, payloadBase := 4096 }
def heldS : State := withWork heldWork (fnc 16 (fun f => { f with regions := [heldRegion] }))

theorem wit_BellowsAccessFailures : (heldS.wf = true ∧ heldWork.train < 17 ∧ (heldS.fn 16).region? 3 = some heldRegion
      ∧ (heldRegion.spill = false ∨ heldRegion.claim? 2 = none)
      ∧ heldS.allWorks.find? (fun w => w.fn == 16 && w.slots.contains (3, 2)) = some heldWork
      ∧ heldWork ∈ (heldS.train heldWork.train).works ∧ (heldWork.live = true ∨ heldWork.status = 0))
    ∧ (let r : Region := { handle := 65535, train := 15, spill := false, slotLog2 := 12, count := 1, options := 0, headerBase := 0, payloadBase := 4096 }
       let s := fnc 16 (fun f => { f with regions := [r] })
       s.wf = true ∧ (16 : Nat) < 17 ∧ (s.fn 16).region? 65535 = some r) := by decide +kernel

/-! Presence, the ledger and the bays. -/

theorem wit_KeySwitchAndWindow : rdy.powered = true ∧ (2 : Nat) < 3
    ∧ (let s : State := { rdy with presence := { rdy.presence with key := .present } }
       s.powered = true ∧ s.presence.key = .present ∧ s.presence.window = none)
    ∧ (failedS.powered = true ∧ failedS.presence.window = some 100 ∧ (at_ 99 failedS).clock.timebase < 100 ∧ 100 ≤ (at_ 100 failedS).clock.timebase) := by
  decide +kernel

theorem wit_PresentHoldRestartsTheWindow : failedS.powered = true ∧ failedS.presence.key = .present ∧ failedS.presence.loop = true
    ∧ failedS.presence.window = some 100 := by decide +kernel

theorem wit_SealLoopSetsTheLatch : rdy.powered = true ∧ rdy.presence.loop = true ∧ (true || false) = true ∧ (false || true) = true
    ∧ rdy.presence.latch = false
    ∧ (let s : State := { rdy with board := { rdy.board with good := false, aux := false } }
       s.powered = false ∧ s.presence.loop = true ∧ s.presence.latch = false) := by decide +kernel

def folio : Folio :=
  { number := 4, firstSeq := 10, records := [zeros 128], closeTime := 0, closeBreath := 0, closeFlags := 1, identity := [], body := [], previous := [], chain := [] }

/-- Bay 1 with a cartridge in a state. -/
def bay1 (st : BayState) (s : State := rdy) : State := bayS 1 (fun x => { x with state := st, cart := some cart }) s

theorem wit_FoliosMoveThroughTheTiers : (let s := at_ 100000000 { rdy with ledger := { rdy.ledger with open_ := [zeros 128], openTime := 0 } }
      s.commits = true ∧ s.ledger.open_ ≠ [] ∧ s.ledger.openTime + 1000000000 ≤ s.clock.time ∧ s.canTake = true)
    ∧ (let s : State := { rdy with ledger := { rdy.ledger with mram := [folio] } }
       s.commits = true ∧ s.nextForFlash = some folio)
    ∧ (let s := bay1 .active { rdy with ledger := { rdy.ledger with mram := [folio] } }
       s.wf = true ∧ (1 : Nat) < 2 ∧ s.commits = true ∧ s.nextFor 1 = some folio ∧ (s.bay 1).cart = some cart ∧ 2 ≤ 3) := by decide +kernel

theorem wit_BaysMountAndRelease : (rdy.wf = true ∧ (1 : Nat) < 2 ∧ rdy.board.good = true ∧ (rdy.bay 1).state = .empty)
    ∧ (let s := bay1 .mounting
       s.wf = true ∧ s.commits = true ∧ (s.bay 1).state = .mounting ∧ (s.bay 1).cart = some cart ∧ (s.bay 1).ejectAsked = false ∧ cart.genuine = true
        ∧ cart.life = 0 ∧ cart.insertions ≤ 2000 ∧ cart.spare ≠ 0 ∧ cart.openSlot = 0xFFFFFFFF)
    ∧ { cart with genuine := false }.genuine = false
    ∧ ((bay1 .full).wf = true ∧ ((bay1 .full).bay 1).cart = some cart ∧ (bay1 .full).commits = true ∧ ((bay1 .full).bay 1).ejectAsked = false
        ∧ ((bay1 .full).bay 1).state ≠ .empty ∧ ((bay1 .full).bay 1).state ≠ .released ∧ ((bay1 .full).bay 1).state ≠ .mounting)
    ∧ (let s := bayS 1 (fun x => { x with ejectAsked := true }) (bay1 .standby)
       s.wf = true ∧ s.commits = true ∧ (s.bay 1).ejectAsked = true ∧ (s.bay 1).state ≠ .mounting ∧ s.nextFor 1 = none)
    ∧ (let s := at_ 6000000000 (bay1 .released)
       s.wf = true ∧ s.commits = true ∧ (s.bay 1).state = .released ∧ (s.bay 1).cart = some cart
        ∧ (s.bay 1).releasedAt + 6000000000 ≤ s.clock.timebase) := by decide +kernel

/-- A cartridge of another card, whatever the serial number of this one. -/
def foreignCart : CartridgePages := { cart with life := 1, boundCard := (fit 16 Config.serial).map (· + 1) }

theorem wit_BaysForeign : foreignCart.genuine = true ∧ bit foreignCart.life 0 = true ∧ foreignCart.boundCard ≠ fit 16 Config.serial := by
  refine ⟨rfl, by decide +kernel, fun h => ?_⟩
  have l : (fit 16 Config.serial).length = 16 := by simp only [fit, slice, zeros, List.length_append, List.length_take, List.length_drop, List.length_replicate]; omega
  have e : ((fit 16 Config.serial).map (· + 1)).head? = (fit 16 Config.serial).head? := congrArg List.head? h
  cases x : fit 16 Config.serial with
  | nil => rw [x] at l; cases l
  | cons a as =>
    rw [x] at e
    simp only [List.map_cons, List.head?_cons, Option.some.injEq] at e
    bv_omega

/-! The board and the consort. -/

theorem wit_SensorReadings : rdy.board.good = true ∧ rdy.board.sensors[14]? = some { warn := 90 } ∧ (89 : Int) < ({ warn := 90 } : Sensor).warn := by
  decide +kernel

theorem wit_PowerAndLinks : (let s : State := { rdy with board := { rdy.board with sensors := List.replicate 15 { warn := 90, overTrip := 3 } } }
      s.powered = true ∧ s.board.sensors[14]? = some { warn := 90, overTrip := 3 } ∧ 3 ≤ ({ warn := 90, overTrip := 3 } : Sensor).overTrip)
    ∧ rdy.powered = true ∧ ({ rdy with board := { rdy.board with holdUp := true } } : State).board.holdUp = true ∧ rdy.board.perst = false
    ∧ rdy.wf = true ∧ (1 : Nat) < 2 := by decide +kernel

/-- Card 1 of a ring of two, forming, its two ports trained. -/
def forming : State := lnk 5 (fun l => { l with named := true, state := 2, expect := 65535 })
  (lnk 0 (fun l => { l with named := true, state := 2 }) { rdy with
    consort := { forming := some 3, card := 1, members := 2, topology := 0, ports := 33, phaseGood := 16 } })
def member : State := { forming with consort := { forming.consort with forming := none, member := true } }

theorem wit_ConsortFormation : (let s := forming
      s.wf = true ∧ s.powered = true ∧ goodLink.port < 6 ∧ (s.link goodLink.port).state = 2 ∧ goodLink.crcGood = true
        ∧ goodLink.linkSeq = (s.link goodLink.port).expect ∧ s.consort.forming = some 3 ∧ (s.link goodLink.port).named = true
        ∧ s.helloProblem goodLink.port 0 2 0 (s.configBlock 0 2 s.microcode) = none ∧ s.consort.card ≠ 0)
    ∧ (member.wf = true ∧ member.powered = true ∧ (member.link goodLink.port).state = 2 ∧ goodLink.linkSeq = (member.link goodLink.port).expect
        ∧ member.consort.forming = none ∧ member.follows = true ∧ (-200 : Int).natAbs ≤ 200)
    ∧ (let s := (List.range 17).foldl (fun s k => tr k (fun x => { x with halt := .formation }) s) forming
       s.wf = true ∧ s.powered = true ∧ s.consort.forming = some 3 ∧ (∀ k ∈ s.activeTrains, (s.train k).halt = .formation)
        ∧ (∀ p ∈ s.namedPorts, (s.link p).state = 2) ∧ (s.consort.card = 0 ∨ 16 ≤ s.consort.phaseGood) ∧ (s.train 16).next ≤ 0
        ∧ s.clock.timebase ≤ 0)
    ∧ (let s := at_ 100000 (withWork { work 16 3 (.consortForm 1 2 0 33 (zeros 32) 1) with arrived := 0 } forming)
       s.wf = true ∧ s.powered = true ∧ s.consort.forming = some 3 ∧ s.formationOver = true)
    ∧ (let s := lnk 5 (fun l => { l with named := true, state := 1, usable := true })
       s.wf = true ∧ (5 : Nat) < 6 ∧ s.powered = true ∧ (s.link 5).named = true ∧ (s.link 5).state = 1 ∧ (s.link 5).usable = true
        ∧ s.consort.forming = none) := by decide +kernel

/-- The leader of a consort of four. -/
def leader4 : State := { member with consort := { member.consort with card := 0, members := 4 } }

theorem wit_ConsortFrames : (let s := member
      s.wf = true ∧ s.powered = true ∧ goodLink.port < 6 ∧ (s.link goodLink.port).state = 2 ∧ goodLink.crcGood = true
        ∧ goodLink.linkSeq = (s.link goodLink.port).expect ∧ s.follows = true ∧ 15 ∈ s.leaders ∧ s.consort.member = true
        ∧ (1 : Nat) < s.consort.members)
    ∧ (let s := busy 15 .working member
       s.wf = true ∧ (15 : Nat) < 16 ∧ s.leaderOf 15 < 16 ∧ (0x300000000 - 256) + (zeros 256).length ≤ partBytes
        ∧ ((s.train (s.leaderOf 15)).phase = .working ∨ (s.train (s.leaderOf 15)).phase = .sealing))
    ∧ (let s := leader4
       s.wf = true ∧ s.powered = true ∧ (s.link goodLink.port).state = 2 ∧ goodLink.linkSeq = (s.link goodLink.port).expect
        ∧ s.consort.member = true ∧ s.consort.card = 0 ∧ 15 ∈ s.leaders ∧ 3 ∈ s.others ∧ 2 ∈ s.others
        ∧ (∀ v ∈ s.verdictsOf 15, v.card ≠ 3 ∧ v.card ≠ 2) ∧ ((s.train 15).phase ≠ .sealing ∨ s.clock.timebase ≤ s.verdictDue 15))
    ∧ (let s := at_ 10050 (busy 15 .sealing member)
       s.wf = true ∧ 15 ∈ s.leaders ∧ s.consort.member = true ∧ s.consort.card ≠ 0 ∧ s.consort.card < s.consort.members
        ∧ (∀ x ∈ s.consort.gone, x.1 ≠ s.consort.card) ∧ (s.train 15).phase = .sealing
        ∧ (s.train 15).start + periodUnits (s.train 15).n5 + 50 ≤ s.clock.timebase ∧ s.ringsEmpty = true)
    ∧ ((rdy.link 5).state ≠ 2 ∨ true = false ∨ (0 : Nat) ≠ (rdy.link 5).expect) := by decide +kernel

/-! The sideband, the events' timers, and what commands do. -/

theorem wit_SidebandResponses : rdy.sidebandAnswers = true ∧ (0 < 254 ∧ 254 < 255) ∧ rdy.telemetry 37 = some 9 ∧ rdy.telemetry 38 = none ∧ State.reset.sidebandAnswers = false := by
  decide +kernel

theorem wit_EventTimers : rdy.wf = true ∧ (16 : Nat) < 17
    ∧ (let s := fnc 16 (fun f => { f with masked := [], events := { f.events with moderated := some 10, owed := true } }) (at_ 10)
       s.wf = true ∧ (s.fn 16).events.moderated = some 10 ∧ 10 ≤ s.clock.timebase ∧ (s.fn 16).events.owed = true ∧ 1 ∉ (s.fn 16).masked
        ∧ (s.fn 16).functionMask = false)
    ∧ (let s := fnc 16 (fun f => { f with events := { f.events with moderated := some 10 } }) (at_ 9)
       s.wf = true ∧ (s.fn 16).events.moderated = some 10 ∧ s.clock.timebase < 10 ∧ (s.fn 16).events.owed = false)
    ∧ (let s := fnc 16 (fun f => { f with events := { f.events with enable := true, lostFull := 1 } }) (at_ 100000000)
       s.wf = true ∧ s.board.good = true ∧ s.clock.timebase % 100000000 = 0 ∧ (∀ c, c < 256 → (s.counters c).wrapped = 0)
        ∧ (s.fn 16).events.enable = true ∧ (s.fn 16).events.full = false)
    ∧ ({ rdy with clock := { slew := 1 } } : State).clock.slew ≤ 1 := by decide +kernel

theorem wit_ZeroCommandsAtIssue : rdy.wf = true ∧ shareSum (fun p => (rdy.part p).shareSoon) 15 16 ≤ 256
    ∧ 256 < shareSum (fun p => (rdy.part p).shareSoon) 15 17 ∧ (work 15 1 (.breathSet 50000 20)).train < 17 ∧ (work 15 1 (.partQos 1)).part < 16
    ∧ (work 16 1 .sealClear).aux = [] ∧ ({ work 16 1 .sealClear with aux := [7, 0] } : Work).aux = [7, 0] := by decide +kernel

theorem wit_CommitsAtThePassedSeal : rdy.wf = true ∧ (work 15 1 (.modelRelease 1)).train < 17 := by decide +kernel
end Sys2Proof.Tests
end

section
/-! PROOFS. Reading little-endian fields, slot references and lists of equal entries back out of a string of bytes
(R11, R12, R157), and from that the parameters of every packet command. -/

namespace Sys2Proof.Machine

/-! Fields of a concatenation: a read either starts behind the first part or is that part. -/

@[simp] theorem length_leBytes (k n : Nat) : (leBytes k n).length = k := by
  induction k generalizing n with
  | zero => rfl
  | succ k ih => simp [leBytes, ih]

@[simp] theorem length_zeros (k : Nat) : (zeros k).length = k := List.length_replicate

@[simp] theorem SlotRef.length_toBytes (r : SlotRef) : r.toBytes.length = 8 := by simp [SlotRef.toBytes]

theorem slice_append_skip {a b : List Byte} {o k : Nat} (h : a.length ≤ o) : slice (a ++ b) o k = slice b (o - a.length) k := by
  simp [slice, List.drop_append, List.drop_eq_nil_of_le h]

theorem slice_append_head {a b : List Byte} {k : Nat} (h : a.length = k) : slice (a ++ b) 0 k = a := by
  subst h
  simp [slice, zeros]

@[simp] theorem length_fit (k : Nat) (bs : List Byte) : (fit k bs).length = k := by
  simp [fit, slice]

theorem fit_eq_append {bs : List Byte} {k : Nat} (h : bs.length ≤ k) : fit k bs = bs ++ zeros (k - bs.length) := by
  simp [fit, slice, List.take_of_length_le h]

theorem fit_of_length {bs : List Byte} {k : Nat} (h : bs.length = k) : fit k bs = bs := by
  simp [fit_eq_append h.le, h, zeros]

/-! Numbers and slot references. -/

theorem leVal_leBytes_mod (k n : Nat) : leVal (leBytes k n) = n % 256 ^ k := by
  induction k generalizing n with
  | zero => simp [leBytes, leVal, Nat.mod_one]
  | succ k ih => rw [leBytes, leVal, ih, Nat.pow_succ', Nat.mod_mul]; simp [byte]

/-- R12: a field of `k` bytes gives back every value of `8 * k` bits. -/
theorem leVal_leBytes {k n : Nat} (h : fits (8 * k) n = true) : leVal (leBytes k n) = n := by
  have hlt : n < 256 ^ k := by simpa [fits, Nat.pow_mul] using h
  rw [leVal_leBytes_mod, Nat.mod_eq_of_lt hlt]

/-- R157: the 8 bytes of a slot reference give back its fields. -/
theorem SlotRef.ofBytes_toBytes {r : SlotRef} (h : r.wf = true) : SlotRef.ofBytes r.toBytes = r := by
  simp only [SlotRef.wf, Bool.and_eq_true] at h
  obtain ⟨⟨⟨hregion, hslot⟩, hgen⟩, hdir⟩ := h
  simp [SlotRef.ofBytes, SlotRef.toBytes, field, slice_append_skip, slice_append_head, leVal_leBytes, *]

/-! Lists of entries of equal length, filled up to a fixed count. -/

section Entries

variable {α : Type} {enc : α → List Byte} {w : Nat} (hw : ∀ x, (enc x).length = w)
include hw

theorem length_flatMap_entries (xs : List α) : (xs.flatMap enc).length = w * xs.length := by
  induction xs with
  | nil => rfl
  | cons x xs ih => simp [ih, hw, Nat.mul_succ, Nat.add_comm]

theorem slice_entries (xs : List α) (rest : List Byte) (i : Nat) (h : i < xs.length) :
    slice (xs.flatMap enc ++ rest) (w * i) w = enc xs[i] := by
  induction xs generalizing i with
  | nil => simp at h
  | cons x xs ih =>
    cases i with
    | zero => simpa using slice_append_head (hw x)
    | succ i =>
      have hskip : w * (i + 1) - (enc x).length = w * i := by simp [hw, Nat.mul_succ]
      rw [List.flatMap_cons, List.append_assoc, slice_append_skip (by simp [hw, Nat.mul_succ]), hskip]
      exact ih i (by simpa using h)

/-- Cutting to `n` entries adds the entry whose bytes are zero. -/
theorem fit_entries {z : α} (hz : enc z = zeros w) {xs : List α} {n : Nat} (h : xs.length ≤ n) :
    fit (w * n) (xs.flatMap enc) = (xs ++ List.replicate (n - xs.length) z).flatMap enc := by
  have hzeros (m : Nat) : (List.replicate m z).flatMap enc = zeros (w * m) := by
    simp [List.flatMap_replicate, hz, zeros, Nat.mul_comm]
  have hlen := length_flatMap_entries hw xs
  rw [fit_eq_append (by simpa [hlen] using Nat.mul_le_mul_left w h), List.flatMap_append, hzeros, hlen, Nat.mul_sub]

/-- Entries that are read back one by one are read back as a list, with the zero entries that fill it. -/
theorem read_entries {dec : List Byte → α} {ok : α → Bool} {z : α} {xs : List α} {n : Nat}
    (hdec : ∀ x, ok x = true → dec (enc x) = x) (hz : enc z = zeros w) (hokz : ok z = true) (h : xs.length ≤ n)
    (hok : xs.all ok = true) (rest : List Byte) :
    (List.range n).map (fun i => dec (slice (fit (w * n) (xs.flatMap enc) ++ rest) (w * i) w))
      = xs ++ List.replicate (n - xs.length) z := by
  rw [fit_entries hw hz h]
  have hfull : ∀ x ∈ xs ++ List.replicate (n - xs.length) z, ok x = true := by
    intro x hx
    rcases List.mem_append.mp hx with hx | hx
    · exact List.all_eq_true.mp hok x hx
    · rwa [List.eq_of_mem_replicate hx]
  refine List.ext_getElem (by simp; omega) fun i _ hi => ?_
  rw [List.getElem_map, List.getElem_range, slice_entries hw _ rest i hi]
  exact hdec _ (hfull _ (List.getElem_mem hi))

end Entries

/-! The two commands with lists. -/

/-- The twelve shape values follow a header of 4 bytes. -/
theorem ofParams_shapeSet {first count : Nat} {values : List Nat} (hfirst : fits 8 first = true) (hcount : fits 8 count = true)
    (hlen : values.length ≤ 12) (hvalues : values.all (fits 32) = true) :
    Command.ofParams 0x42 (fit 52 (Command.shapeSet first count values).params)
      = some (fullLists (.shapeSet first count values)) := by
  have hread := read_entries (length_leBytes 4) (dec := leVal) (fun x hx => leVal_leBytes hx) (z := 0) (by decide) (by decide) hlen
    hvalues []
  have hskip (header bs : List Byte) (hh : header.length = 4) (i : Nat) :
      slice (header ++ bs) (4 + 4 * i) 4 = slice (bs ++ []) (4 * i) 4 := by
    rw [slice_append_skip (by omega), hh, Nat.add_sub_cancel_left, List.append_nil]
  rw [fit_of_length (by simp [Command.params])]
  simp only [Command.params, fullLists, ← hread, ← hskip (leBytes 1 first ++ leBytes 1 count ++ zeros 2) _ (by simp)]
  simp [Command.ofParams, field, slice_append_skip, slice_append_head, leVal_leBytes, hfirst, hcount]

/-- The four slot references follow the program and the seed. -/
theorem ofParams_progRun {program seed : Nat} {slots : List SlotRef} (hprogram : fits 64 program = true) (hseed : fits 64 seed = true)
    (hlen : slots.length ≤ 4) (hslots : slots.all SlotRef.wf = true) :
    Command.ofParams 0x43 (fit 52 (Command.progRun program seed slots).params)
      = some (fullLists (.progRun program seed slots)) := by
  have hread := read_entries SlotRef.length_toBytes (fun x hx => SlotRef.ofBytes_toBytes hx) (z := {}) (by decide) (by decide) hlen
    hslots (zeros 4)
  rw [fit_eq_append (by simp [Command.params])]
  simp only [fullLists, ← hread]
  simp [Command.ofParams, Command.params, field, slice_append_skip, slice_append_head, leVal_leBytes, hprogram, hseed, List.range_succ]

/-- Settles O9: the two commands with lists turn on `read_entries`, those with single slot references on `SlotRef.ofBytes_toBytes`,
every other one on its numbers and 32-byte strings alone. -/
theorem parametersRoundTrip : Obligations.ParametersRoundTrip := by
  intro i h c hs hwf
  cases i <;> cases hs <;>
    simp only [Instr.wf, Bool.and_eq_true, decide_eq_true_eq, beq_iff_eq, List.all_cons] at hwf
  case nop | devQuery | ledgerFlush | sealClear => rfl
  case shapeSet =>
    obtain ⟨⟨⟨⟨-, hfirst⟩, hcount⟩, hlen⟩, hvalues⟩ := hwf
    exact ofParams_shapeSet hfirst hcount hlen hvalues
  case progRun =>
    obtain ⟨⟨⟨⟨-, hprogram⟩, hseed⟩, hlen⟩, hslots⟩ := hwf
    exact ofParams_progRun hprogram hseed hlen hslots
  case bellowsRead | bellowsWrite | histPrefill | score | jobSubmit | vidDecode | fwUpdate | ownerKeyInstall | attest | droneCfg =>
    simp [Command.opcode, Command.ofParams, Command.params, fullLists, field, fit_eq_append, slice_append_skip, slice_append_head,
      leVal_leBytes, SlotRef.ofBytes_toBytes, hwf]
  all_goals
    simp [Command.opcode, Command.ofParams, Command.params, fullLists, field, fit_eq_append, slice_append_skip, slice_append_head,
      leVal_leBytes, hwf]

end Sys2Proof.Machine
end

section
/-! PROOFS. What every command keeps, but those that may start a reset of the device: the properties of states of `Kept`. That device
time does not run back is one of them (R77). -/

namespace Sys2Proof.Machine

variable {K : Kept} {s : State}

/-- Every state that an outcome leads to has the property. -/
def Kept.after (K : Kept) (o : Host.Outcome State Fault Refusal) : Prop := ∀ t, o = .next t → K.holds t

@[simp] theorem Kept.after_next (t : State) : K.after (.next t) ↔ K.holds t :=
  ⟨fun h => h t rfl, fun h _ e => by cases e; exact h⟩

/-- A change to a function that its three memories outlive. -/
theorem State.modFn_kept_rfl (i : Nat) (g : Function → Function) (h : K.holds s)
    (hg : ∀ f, (g f).urgent.window = f.urgent.window ∧ (g f).bulk.window = f.bulk.window ∧ (g f).msixTable = f.msixTable) :
    K.holds (s.modFn i g) := s.modFn_kept i g h (fun f => (hg f).1) (fun f => (hg f).2.1) (fun f => (hg f).2.2)

/-! Rings, queues and registers. -/

@[simp] theorem submitPacket_kept (p : PacketHeader) (c : Command) (h : K.holds s) : K.after (submitPacket p c s) := by
  have hs := s.hostStores_kept p.fn p.stores h
  unfold submitPacket
  dsimp only
  split
  · simp [hs]
  · exact (Kept.after_next _).2 (State.doorbell_kept _ _ _ _ (State.modRing_kept _ _ _ hs (fun r hr => Memory.wf_write _ _ hr)))

@[simp] theorem execRingCfgWrite_kept (fn blk : Nat) (bulk : Bool) (value : Nat) (h : K.holds s) :
    K.after (execRingCfgWrite fn blk bulk value s) := by
  unfold execRingCfgWrite
  dsimp only
  (repeat' split) <;> simp [h]

@[simp] theorem execDoorbell_kept (fn blk : Nat) (bulk : Bool) (value size : Nat) (stores : List Host.Cell) (h : K.holds s) :
    K.after (execDoorbell fn blk bulk value size stores s) := by
  unfold execDoorbell
  dsimp only
  (repeat' split) <;> simp [h]

/-- A queue's registers written, its held replies posted, the rings checked. -/
theorem State.postReplies_checkRings_kept (f : Nat) (g : Function → Function) (h : K.holds s)
    (hg : ∀ f, (g f).urgent.window = f.urgent.window ∧ (g f).bulk.window = f.bulk.window ∧ (g f).msixTable = f.msixTable) :
    K.holds ((s.modFn f g).postReplies f []).checkRings :=
  State.checkRings_kept (State.postReplies_kept _ _ (s.modFn_kept_rfl f g h hg))

@[simp] theorem execReplyCfgWrite_kept (fn blk value : Nat) (h : K.holds s) : K.after (execReplyCfgWrite fn blk value s) := by
  unfold execReplyCfgWrite
  dsimp only
  (repeat' split) <;> simp [h, State.postReplies_checkRings_kept]

@[simp] theorem execReplyHeadWrite_kept (fn blk value : Nat) (h : K.holds s) : K.after (execReplyHeadWrite fn blk value s) := by
  unfold execReplyHeadWrite
  dsimp only
  (repeat' split) <;> simp [h, State.postReplies_checkRings_kept]

@[simp] theorem execEvqCfgWrite_kept (fn blk value : Nat) (h : K.holds s) : K.after (execEvqCfgWrite fn blk value s) := by
  unfold execEvqCfgWrite
  split
  · simp [h]
  · next f _ =>
    extract_lets q depth on mod bad t u
    have ht : K.holds t := by
      dsimp only [t]
      split <;> simp [h]
    have hu : K.holds u := t.modFn_kept_rfl f _ ht (fun _ => ⟨rfl, rfl, rfl⟩)
    (repeat' split) <;> simp [h, hu]

@[simp] theorem execEvqHeadWrite_kept (fn blk value : Nat) (h : K.holds s) : K.after (execEvqHeadWrite fn blk value s) := by
  unfold execEvqHeadWrite
  split
  · simp [h]
  · next f _ =>
    extract_lets q t
    have ht : K.holds t := s.modFn_kept_rfl f _ h (fun _ => ⟨rfl, rfl, rfl⟩)
    (repeat' split) <;> simp [h, ht]

@[simp] theorem execEventStatusWrite_kept (fn blk value : Nat) (h : K.holds s) : K.after (execEventStatusWrite fn blk value s) := by
  unfold execEventStatusWrite
  (repeat' split) <;> simp [h]

@[simp] theorem execUnfreeze_kept (fn value : Nat) (h : K.holds s) : K.after (execUnfreeze fn value s) := by
  unfold execUnfreeze
  dsimp only
  split <;> simp [h]

@[simp] theorem execGo_kept (fn value : Nat) (image : List Byte) (h : K.holds s) : K.after (execGo fn value image s) := by
  unfold execGo
  dsimp only
  (repeat' split) <;> simp [h]

@[simp] theorem execChanterRestart_kept (fn value : Nat) (h : K.holds s) : K.after (execChanterRestart fn value s) := by
  unfold execChanterRestart
  dsimp only
  (repeat' split) <;> simp [h]

@[simp] theorem State.writeRings_kept (fn blk o size value : Nat) (h : K.holds s) : K.after (s.writeRings fn blk o size value) := by
  unfold State.writeRings
  dsimp only
  (repeat' split) <;> simp [h]

@[simp] theorem State.writeEvq_kept (fn blk o size value : Nat) (h : K.holds s) : K.after (s.writeEvq fn blk o size value) := by
  unfold State.writeEvq
  dsimp only
  (repeat' split) <;> simp [h]

@[simp] theorem State.writeDevice_kept (fn a size value : Nat) (h : K.holds s) : K.after (s.writeDevice fn a size value) := by
  unfold State.writeDevice
  (repeat' split) <;> simp [h]

@[simp] theorem State.writeBlock_kept (fn p o size value : Nat) (h : K.holds s) : K.after (s.writeBlock fn p o size value) := by
  unfold State.writeBlock
  (repeat' split) <;> simp [h]

@[simp] theorem execRegisterWrite_kept (fn bar off size value : Nat) (h : K.holds s) :
    K.after (execRegisterWrite fn bar off size value s) := by
  unfold execRegisterWrite
  extract_lets aligned bell t
  have ht : K.holds t := s.modFn_kept_rfl _ _ h (fun _ => ⟨rfl, rfl, rfl⟩)
  (repeat' split) <;> simp [h, ht]

/-! The tiers, the bays and presence. -/

@[simp] theorem execMountComplete_kept (bay : Nat) (ddr50 protocolError : Bool) (h : K.holds s) :
    K.after (execMountComplete bay ddr50 protocolError s) := by
  unfold execMountComplete
  dsimp only
  split
  · next c _ _ =>
    have hm := State.mountOutcome_kept bay c protocolError
      (s.setBay_kept bay { s.bay bay with ddr50 := ddr50, ejectAsked := false } h)
    split
    · simp [h]
    · exact (Kept.after_next _).2 (State.checkFlush_kept (State.elect_kept (kept_ite _ _ _ (State.eject_kept _ hm) hm)))
  · simp [h]

@[simp] theorem execCardRemoved_kept (bay : Nat) (h : K.holds s) : K.after (execCardRemoved bay s) := by
  unfold execCardRemoved
  dsimp only
  split
  · simp [h]
  · exact (Kept.after_next _).2 (State.checkFlush_kept (State.elect_kept (kept_foldl _ _ (fun u w hu => u.failWork_kept _ _ _ hu)
      (State.failRetire_kept _ (State.bayEventOf_kept _ _ _ (s.setBay_kept _ _ h))))))

@[simp] theorem execBayRelease_kept (bay : Nat) (h : K.holds s) : K.after (execBayRelease bay s) := by
  unfold execBayRelease
  dsimp only
  split
  · exact (Kept.after_next _).2 (State.checkFlush_kept (State.ejected_kept _ (State.bayEvent_kept _ _ (s.setBay_kept _ _ h))))
  · simp [h]

@[simp] theorem execSealLoopInterruption_kept (microsecond staysOpen : Bool) (h : K.holds s) :
    K.after (execSealLoopInterruption microsecond staysOpen s) := by
  unfold execSealLoopInterruption
  extract_lets t set u v
  have ht : K.holds t := s.modPresence_kept _ h
  have hv : K.holds v := by
    have hu : K.holds u := t.noteInterruption_kept _ ht
    dsimp only [v]
    split <;> simp [hu]
  (repeat' split) <;> simp [h, ht, hv]

@[simp] theorem execFwImageWritten_kept (readBackGood : Bool) (h : K.holds s) : K.after (execFwImageWritten readBackGood s) := by
  unfold execFwImageWritten
  split
  · simp [h]
  · split
    · next x w _ _ image target activate _ =>
      have hb := s.modBank_kept target (fun _ => { image := w.auxBytes }) h
      dsimp only
      (repeat' split) <;> simp [h, hb]
    · simp [h]

@[simp] theorem execHoldingFlashCommit_kept (good : Bool) (h : K.holds s) : K.after (execHoldingFlashCommit good s) := by
  unfold execHoldingFlashCommit
  split
  · simp [h]
  · split
    · simp [h]
    · split
      · exact (Kept.after_next _).2 (State.notePressure_kept (State.tryGap_kept (s.modLedger_kept _ h)))
      · simp [h]

/-! The Breath, the consort and memory. -/

@[simp] theorem execDrainLimit_kept (h : K.holds s) : K.after (execDrainLimit s) :=
  (Kept.after_next _).2 (kept_foldl _ _ (fun u _ hu => kept_ite _ _ _ (u.cutTrain_kept _ _ hu) hu) h)

@[simp] theorem execEngineTimeout_kept (train session : Nat) (h : K.holds s) : K.after (execEngineTimeout train session s) := by
  unfold execEngineTimeout
  dsimp only
  split
  · split
    · simp [h]
    · exact (Kept.after_next _).2 (State.endWork_kept _ _ _ (State.raiseL_kept _ _ _ _ _ _ _ (s.setSession_kept _ _ h)))
  · simp [h]

@[simp] theorem execCheckFailure_kept (train cause core unit : Nat) (h : K.holds s) :
    K.after (execCheckFailure train cause core unit s) := by
  have pin (w : Work) := s.macroFails_kept (K := K) w core unit (fun s => s.rewritePin w core unit) (fun s r => s.endPin w core r) h
    (fun u hu => u.rewritePin_kept _ _ _ hu) (fun u r hu => u.endPin_kept _ _ _ hu)
  have repin (w : Work) := s.macroFails_kept (K := K) w core unit id (fun s r => (s.failRestore w w.stream r).modPart (core / 16) (fun p =>
      { p with fault := if p.fault = 0 then 1 else p.fault })) h (fun u hu => hu) (fun u r hu => by simp [hu])
  unfold execCheckFailure
  dsimp only
  (repeat' split) <;> simp [h, pin, repin]

/-- A TIME frame steps the timebase and leaves device time (R563). -/
@[simp] theorem execTime_kept (link : FrameLink) (leaderTimebase delay : Nat) (phaseError : Int) (h : K.holds s) :
    K.after (execTime link leaderTimebase delay phaseError s) := by
  have ht := s.takeFrame_kept link h
  have clock (c : Consort → Consort) (T : Nat) :
      K.holds { (s.takeFrame link).2.modConsort c with clock := { (s.takeFrame link).2.clock with timebase := T } } :=
    K.clock _ { (s.takeFrame link).2.clock with timebase := T } (State.modConsort_kept c ht) le_rfl
  unfold execTime
  dsimp only
  split
  · simp [ht]
  · split
    · split
      · simp [ht]
      · exact (Kept.after_next _).2 (clock _ _)
    · split
      · simp [ht]
      · refine (Kept.after_next _).2 (kept_ite _ _ _ (State.memberGone_kept _ _ _ (State.sendAll_kept _ _ _ ?_)) ?_) <;>
          exact kept_ite _ _ _ (State.sendTo_kept _ _ _ _ (State.phaseEvent_kept _ _ (State.modConsort_kept _ ht)))
            (State.modConsort_kept _ ht)

@[simp] theorem execStopDrainComplete_kept (h : K.holds s) : K.after (execStopDrainComplete s) := by
  unfold execStopDrainComplete
  split
  · simp [h]
  · split
    · next x w _ _ stop region first _ =>
      have hp := State.placeImages_kept (K := K) w region first (s.stopImages (fun _ => stop + 1)) [] h
      have hm := State.modWork_kept adminTrain w.id (fun v => { v with
        held := (State.placeImages w region first (s.stopImages (fun _ => stop + 1)) s []).2.1 }) hp
      dsimp only
      split
      · simp [h]
      · split
        · exact (Kept.after_next _).2 (State.failStop_kept _ _ hm)
        · exact (Kept.after_next _).2 (State.restartStopped_kept (State.modWork_kept _ _ _ hm))
    · simp [h]

@[simp] theorem execFunctionLevelReset_kept (vf : Nat) (h : K.holds s) : K.after (execFunctionLevelReset vf s) := by
  unfold execFunctionLevelReset
  extract_lets p t u
  have ht : K.holds t := s.modFn_kept_wf _ _ h (fun f hf => by
    simp only [Function.wf, Bool.and_eq_true] at hf ⊢
    exact ⟨hf.1, rfl⟩)
  have hu : K.holds u := by
    dsimp only [u]
    split <;> simp [ht]
  (repeat' split) <;> simp [h, ht, hu]

@[simp] theorem execRestoreComplete_kept (train : Nat) (h : K.holds s) : K.after (execRestoreComplete train s) := by
  unfold execRestoreComplete
  dsimp only
  (repeat' split) <;> simp [h]
  exact State.modWork_kept _ _ _ (kept_foldl _ _ (fun u r hu => u.repin_kept _ _ _ hu) (s.loadPages_kept _ _ h))

@[simp] theorem execBellowsUnsupportedRequest_kept (fn region : Nat) (completerAbort : Bool) (h : K.holds s) :
    K.after (execBellowsUnsupportedRequest fn region completerAbort s) := by
  unfold execBellowsUnsupportedRequest
  split
  · simp [h]
  · exact (Kept.after_next _).2 (State.bellowsFault_kept _ _ _ _ _ (State.withdraw_kept _ _ (s.endRegionWorks_kept _ _ _ _ h)))

@[simp] theorem execHello_kept (link : FrameLink) (card members topology port : Nat) (block : List Byte) (h : K.holds s) :
    K.after (execHello link card members topology port block s) := by
  have ht := s.takeFrame_kept link h
  unfold execHello
  dsimp only
  (repeat' split) <;> simp [ht]

@[simp] theorem execData_kept (link : FrameLink) (breath part addr : Nat) (bytes : List Byte) (h : K.holds s) :
    K.after (execData link breath part addr bytes s) := by
  have ht := s.takeFrame_kept link h
  unfold execData
  dsimp only
  (repeat' split) <;> simp [ht]
  exact State.modPart_kept _ _ (State.modTrain_kept _ _ ht) (fun _ => rfl) (fun _ => rfl) (fun _ hp => Memory.wf_write _ _ hp)
    (fun _ hp => hp)

@[simp] theorem execSealFrame_kept (link : FrameLink) (card group breath : Nat) (pass : Bool) (causes : Nat) (digest : List Byte)
    (h : K.holds s) : K.after (execSealFrame link card group breath pass causes digest s) := by
  have ht := s.takeFrame_kept link h
  unfold execSealFrame
  dsimp only
  (repeat' split) <;> simp [ht]

@[simp] theorem execLinkRetrain_kept (port : Nat) (trained : Bool) (h : K.holds s) : K.after (execLinkRetrain port trained s) := by
  have hg := State.greet_kept port (s.modLink_kept port (fun l => { l with state := 2 }) h)
  have hc (payload : List Byte) := State.linkEvent_kept 0x0602 1 port payload (s.countRetrain_kept port h)
  have hf (u : State) (hu : K.holds u) : K.holds (u.activeTrains.foldl (fun s t => s.modTrain t (fun x => { x with
      stopFor := .formation })) u) := kept_foldl _ _ (fun v _ hv => v.modTrain_kept _ _ hv) hu
  unfold execLinkRetrain
  dsimp only
  (repeat' split) <;> simp [h, hg, hc, hf]

@[simp] theorem execHbmReadOutcome_kept (part channel page outcome : Nat) (work : Option Nat) (h : K.holds s) :
    K.after (execHbmReadOutcome part channel page outcome work s) := by
  have ht := State.trackPage_kept part channel page (s.countChannel_kept part channel 0 h)
  have ho := State.once_kept 0x0202 (16 * part + channel) ht
  unfold execHbmReadOutcome
  dsimp only
  (repeat' split) <;> simp [h, ht, ho]

@[simp] theorem execClmScrub_kept (core off : Nat) (corrected : Bool) (strikes : Option Nat) (h : K.holds s) :
    K.after (execClmScrub core off corrected strikes s) := by
  unfold execClmScrub
  dsimp only
  split
  · simp [h]
  · split
    · refine (Kept.after_next _).2 (kept_ite _ _ _ (State.modCore_kept _ _ (State.raiseO_kept _ _ _ _ _ _ _ ?_) (fun _ hx => hx)
        (fun _ hx => hx) (fun _ hx => hx)) ?_) <;>
        exact State.once_kept _ _ (State.saturated_kept _ _ _ _ (s.modCore_kept _ _ h (fun _ hx => hx) (fun _ hx => hx) (fun _ hx => hx)))
    · exact (Kept.after_next _).2 (State.raiseO_kept _ _ _ _ _ _ _ (s.modTrain_kept _ _ h))

/-! Start-up and the board. -/

@[simp] theorem execPerstDeassert_kept (gen width : Nat) (h : K.holds s) : K.after (execPerstDeassert gen width s) := by
  have hb := K.board _ { s.board with perst := false } (K.dev s { s.dev with linkGen := gen, linkWidth := width } h)
  unfold execPerstDeassert
  split <;> simp [h, hb]

@[simp] theorem execStagingRecoveryComplete_kept (flashMapGood : Bool) (h : K.holds s) :
    K.after (execStagingRecoveryComplete flashMapGood s) := by
  unfold execStagingRecoveryComplete
  split
  · simp [h]
  · exact (Kept.after_next _).2 (State.modDev_kept _ (State.modLedger_kept _ (s.closeWith_kept _ _ _ _ _ h)))

@[simp] theorem execSelfTestComplete_kept (parts units : Nat) (channels : List (Nat × Nat)) (h : K.holds s) :
    K.after (execSelfTestComplete parts units channels s) := by
  unfold execSelfTestComplete
  extract_lets units v1 v2 v3 v4 v5 v6 v7
  have h2 : K.holds v2 := kept_foldl _ _ (fun u p hu => State.selfTestFail_kept _ _ _ (u.faultSelfTest_kept _ hu)) (s.modDev_kept _ h)
  have h3 : K.holds v3 := kept_foldl _ _ (fun u p hu => State.selfTestFail_kept _ _ _ (State.faultSelfTest_kept _
    (u.failChannel_kept _ _ hu))) h2
  have h4 : K.holds v4 := kept_foldl _ _ (fun u x hu => u.selfTestFail_kept _ _ _ hu) h3
  have h6 : K.holds v6 := State.modLedger_kept _ (K.enginesOffline _ _ h4)
  have h7 : K.holds v7 := kept_ite _ _ _ (v6.setHold_kept _ h6) (v6.lightAlarm_kept h6)
  split
  · simp [h]
  · exact (Kept.after_next _).2 (v7.modDev_kept _ h7)

/-- Cleared cores are sound. -/
theorem Part.wf_clearAll {p : Part} (hp : p.wf = true) : { p with cores := p.cores.map Core.clearAll }.wf = true := by
  simp only [Part.wf, Bool.and_eq_true, List.length_map] at hp ⊢
  exact ⟨hp.1, List.all_eq_true.2 (fun c hc => by obtain ⟨d, -, rfl⟩ := List.mem_map.1 hc; rfl)⟩

@[simp] theorem execCoreInitialisationComplete_kept (h : K.holds s) : K.after (execCoreInitialisationComplete s) := by
  unfold execCoreInitialisationComplete
  split
  · refine (Kept.after_next _).2 (State.modDev_kept _ (K.parts s _ h (List.length_map ..) (fun hp => ?_)))
    rw [List.all_map]
    exact List.all_eq_true.2 (fun p hm => Part.wf_clearAll (List.all_eq_true.1 hp p hm))
  · simp [h]

@[simp] theorem execLedgerMountComplete_kept (h : K.holds s) : K.after (execLedgerMountComplete s) := by
  unfold execLedgerMountComplete
  extract_lets b img v1 v2 v3 v4 v5 v6
  have h3 : K.holds v3 := State.modBank_kept _ _ (State.modDev_kept _ (State.stageStartup_kept (s.modDev_kept _ h)))
  have h4 : K.holds v4 := v3.stageOwed_kept h3
  have h5 : K.holds v5 := kept_ite _ _ _ (v4.setHold_kept _ h4) h4
  have h6 : K.holds v6 := kept_ite _ _ _ (State.loopBreak_kept (v5.modPresence_kept _ h5)) h5
  split
  · simp [h]
  · exact (Kept.after_next _).2 (v6.checkRings_kept h6)

@[simp] theorem execPartitionSelfTestComplete_kept (leader failing : Nat) (h : K.holds s) :
    K.after (execPartitionSelfTestComplete leader failing s) := by
  unfold execPartitionSelfTestComplete
  extract_lets bad v1
  have h1 : K.holds v1 := kept_foldl _ _ (fun u p hu => kept_ite _ _ _ (State.selfTestFail_kept _ _ _ (u.faultSelfTest_kept _ hu))
    (State.modDev_kept _ (u.modPart_kept _ _ hu (fun _ => rfl) (fun _ => rfl) (fun _ hp => hp) (fun _ hp => hp)))) h
  split
  · simp [h]
  · exact (Kept.after_next _).2 (State.checkRings_kept (State.noteRestart_kept (v1.modTrain_kept _ _ h1)))

@[simp] theorem execChanterWatchdog_kept (h : K.holds s) : K.after (execChanterWatchdog s) := by
  unfold execChanterWatchdog
  extract_lets v1 v2 v3
  have h1 : K.holds v1 := kept_ite _ _ _ (s.memberGone_kept _ _ _ h) h
  have h2 : K.holds v2 := kept_foldl _ _ (fun u _ hu => u.modTrain_kept _ _ hu) h1
  split
  · simp [h]
  · exact (Kept.after_next _).2 (kept_foldl _ _ (fun u _ hu => u.settle_kept _ hu) (v2.restartTrains_kept _ h2))

@[simp] theorem execChanterReloadComplete_kept (h : K.holds s) : K.after (execChanterReloadComplete s) := by
  unfold execChanterReloadComplete
  split
  · simp [h]
  · exact (Kept.after_next _).2 (State.checkRings_kept (kept_foldl _ _ (fun u _ hu => u.modTrain_kept _ _ hu) (s.modDev_kept _ h)))

@[simp] theorem execEventSecondEnd_kept (h : K.holds s) : K.after (execEventSecondEnd s) := by
  unfold execEventSecondEnd
  split
  · simp [h]
  · refine (Kept.after_next _).2 (kept_foldl _ _ (fun u c hu => u.raiseWrap_kept _ hu)
      (kept_foldl _ _ (fun u f hu => State.announce_kept _ _ (State.flushLost_kept _ ?_)) (s.modDev_kept _ h)))
    exact u.modFn_kept_rfl _ _ hu (fun _ => ⟨rfl, rfl, rfl⟩)

@[simp] theorem execSensorReading_kept (sensor : Nat) (value : Int) (h : K.holds s) : K.after (execSensorReading sensor value s) := by
  have ho := s.once_kept 0x0901 sensor h
  unfold execSensorReading
  dsimp only
  (repeat' split) <;> simp [h, ho]

@[simp] theorem execHoldUpEnd_kept (h : K.holds s) : K.after (execHoldUpEnd s) := by
  have hb := K.bays _ (s.bays.map (fun (b : Bay) => { b with latchClosed := false }))
    (s.modBoard_kept (fun b => { b with holdUp := false, good := false, perst := true }) h) (List.length_map ..)
  unfold execHoldUpEnd
  split
  · exact (Kept.after_next _).2 hb
  · simp [h]

/-- The end of a slew leaves device time where it is (R77). -/
@[simp] theorem execTimeSlewComplete_kept (h : K.holds s) : K.after (execTimeSlewComplete s) := by
  have hc := K.clock s { s.clock with slew := 0 } h le_rfl
  unfold execTimeSlewComplete
  split <;> simp [h, hc]

/-! Every command. -/

/-- The commands that may start a reset of the device (R706). -/
def mayReset : Instr → Bool
  | .deviceReset _ | .powerGood | .powerAndRomComplete | .imageCheckComplete | .bootAttemptTimeout | .recoveryComplete _ _ => true
  | _ => false

/-- A command that cannot reset the device keeps what single writes keep. -/
theorem exec_kept (i : Instr) (hi : mayReset i = false) (h : K.holds s) : K.after (exec i s) := by
  cases i
  case deviceReset | powerGood | powerAndRomComplete | imageCheckComplete | bootAttemptTimeout | recoveryComplete => cases hi
  case nop | devQuery | timeSet | shutdown | breathSet | partGroup | partQos | partPower | bellowsRegister | bellowsDeregister
      | bellowsRead | bellowsWrite | memFill | retirePage | modelLoad | stopPin | stopRelease | modelRelease | progRegister
      | progRelease | shapeSet | progRun | histPool | histOpen | histPrefill | histClose | score | jobSubmit | jobCancel | vidOpen
      | vidDecode | setConditioning | vidClose | snapshotShadow | snapshotStop | restore | consortForm | consortLeave | auditPolicy
      | cartRetire | ledgerFlush | ledgerNote | bayEject | fwUpdate | ownerKeyInstall | sealClear | presenceSet | attest | diagRun
      | droneCfg =>
    exact submitPacket_kept _ _ h
  case doorbell | ringCfgWrite | replyCfgWrite | replyHeadWrite | evqCfgWrite | evqHeadWrite | eventStatusWrite | unfreeze | go
      | chanterRestart | registerWrite | mountComplete | cardRemoved | bayRelease | sealLoopInterruption | fwImageWritten | engineTimeout
      | checkFailure | time | stopDrainComplete | functionLevelReset | restoreComplete | bellowsUnsupportedRequest | hello | data
      | sealFrame | linkRetrain | hbmReadOutcome | clmScrub | perstDeassert | stagingRecoveryComplete | selfTestComplete
      | coreInitialisationComplete | ledgerMountComplete | partitionSelfTestComplete | chanterWatchdog | chanterReloadComplete
      | drainLimit | holdingFlashCommit | eventSecondEnd | sensorReading | holdUpEnd | timeSlewComplete =>
    simp [exec, h]
  case ringSlotWrite | snap | clear | bar2WinWrite | lastViolationRead | ledgerNextRead | wideRegisterRead | halfRegisterRead | bar2Read
      | bar2Write =>
    dsimp only [exec, execRingSlotWrite, execSnap, execClear, execBar2WinWrite, execLastViolationRead, execLedgerNextRead,
      execWideRegisterRead, execHalfRegisterRead, execBar2Read, execBar2Write]
    (repeat' split) <;> simp +contextual [h]
  case folioCloseTimeout | folioCommitComplete | cardDetect | ejectButton | releaseTimeout | keySwitch | presentHold
      | presenceWindowEnd | sealLoopRestored | backupCellLow | ownerKeyStored | attestQuoteSigned | retireFlashWriteDone =>
    dsimp only [exec, execFolioCloseTimeout, execFolioCommitComplete, execCardDetect, execEjectButton,
      execReleaseTimeout, execKeySwitch, execPresentHold, execPresenceWindowEnd, execSealLoopRestored, execBackupCellLow,
      execOwnerKeyStored, execAttestQuoteSigned, execRetireFlashWriteDone]
    (repeat' split) <;> simp [h]
  case breathStart | admissionPoint | sealDecision | workComplete | regroupApply | shutdownDrainLimit | shutdownCommitDone
      | deregisterAccessesDone | bellowsPoisonedCompletion | bellowsCompletionTimeout | admitFrame | control | formationComplete
      | formationTimeout | verdictDeadline =>
    dsimp only [exec, execBreathStart, execAdmissionPoint, execSealDecision, execWorkComplete, execRegroupApply,
      execShutdownDrainLimit, execShutdownCommitDone, execDeregisterAccessesDone, execBellowsPoisonedCompletion,
      execBellowsCompletionTimeout, execAdmitFrame, execControl, execFormationComplete, execFormationTimeout, execVerdictDeadline]
    (repeat' split) <;> simp +contextual [h]
  case hbmTrainingComplete | powerFailWarning | thermalTrip | auxPowerLoss | auxPowerReturn | pcieLinkRetrain | moduleInserted
      | msixVectorUnmask | msixModerationExpiry =>
    dsimp only [exec, execHbmTrainingComplete, execPowerFailWarning, execThermalTrip, execAuxPowerLoss, execAuxPowerReturn,
      execPcieLinkRetrain, execModuleInserted, execMsixVectorUnmask, execMsixModerationExpiry]
    (repeat' split) <;> simp [h]
  all_goals
    dsimp only [exec, execSetEndpointId, execGetEndpointId, execGetEndpointUuid, execGetMctpVersionSupport, execGetMessageTypeSupport,
      execGetTid, execGetPldmVersion, execGetPldmTypes, execGetPldmCommands, execGetPdrRepositoryInfo, execGetPdr, execGetSensorReading,
      execReadLastGasp, execUnsupportedSidebandMessage]
    (repeat' split) <;> simp [h]

/-- Settles O7: time reached is a property that every command keeps, but those that may start a reset. -/
theorem deviceTimeNeverBack : Obligations.DeviceTimeNeverBack := by
  intro s t hstep hreset
  cases hq : s.pending with
  | nil =>
    rw [step, hq] at hstep
    cases hstep
    exact tick_kept (K := Kept.timeFrom s.clock.time) le_rfl
  | cons i rest =>
    rw [step, hq] at hstep
    have hi : mayReset i = false := by
      rw [hq] at hreset
      cases i
      case deviceReset | powerGood | powerAndRomComplete | imageCheckComplete | bootAttemptTimeout | recoveryComplete => exact hreset.elim
      all_goals rfl
    exact exec_kept (K := Kept.timeFrom s.clock.time) (s := { s with pending := rest }) i hi le_rfl t hstep

end Sys2Proof.Machine
end

section
/-! PROOFS. The clock, the values after reset, the admission ceiling, and what the commands do that end with the unit of work that
issues them: TIME_SET and the commands of the Zero behaviour. -/

namespace Sys2Proof.Machine

variable (s : State)

/-! One unit of the timebase. -/

/-- The part of a tick that is not CYC_SNAP: the clock counts one unit. -/
def Clock.advance (c : Clock) : Clock :=
  { c with
    timebase := c.timebase + 1
    time := c.time + (if 0 < c.slew ∧ c.timebase % 100 = 0 then 9 else 10)
    slew := if c.timebase % 100 = 0 then c.slew - 1 else c.slew }

variable {s} in
theorem tick_clock (h : s.board.good = true) : (tick s).clock = s.clock.advance := by simp [tick, h, Clock.advance]

variable {s} in
theorem tick_rest (h : s.board.good = true) : tick s = { s with clock := (tick s).clock, parts := (tick s).parts } := by
  simp [tick, h]

variable {s} in
theorem tick_parts (h : s.board.good = true) :
    (tick s).parts.map (fun p => { p with cycSnap := 0 }) = s.parts.map (fun p => { p with cycSnap := 0 }) := by
  simp [tick, h, Function.comp_def]

/-- Settles O2: an empty queue ticks, and the tick's clock is read off `Clock.advance` on each kind of unit. -/
theorem emptyQueueTicks : Obligations.EmptyQueueTicks := by
  intro s hq hg
  have hc := tick_clock hg
  refine ⟨tick s, by simp [step, hq], tick_rest hg, ?_, ?_, fun h0 => ?_, fun hp hu => ?_, fun hp hu => ?_, tick_parts hg⟩
  · rw [hc]; rfl
  · rw [hc]; rfl
  · simp [hc, Clock.advance, h0]
  · simpa [hc, Clock.advance, hp, hu] using Nat.sub_add_cancel hp
  · simp [hc, Clock.advance, hu]

/-- Settles O3: the reset state is a closed term, so every clause is read off by evaluation. -/
theorem resetValues : Obligations.ResetValues := by
  refine ⟨rfl, rfl, rfl, rfl, ?_, ?_, ?_, rfl, rfl, rfl⟩ <;> decide

/-! The ceiling (R58). -/

/-- Settles O21: the ceiling is a quotient by 100, of which both bounds are those of division; Table 2.2 is evaluated. -/
theorem admissionCeiling : Obligations.AdmissionCeiling := by
  refine ⟨fun n5 step _ _ => ?_, by decide⟩
  have hc : ceiling n5 step = 9 * (500 * n5 - 250) * clockOf step / 100 := rfl
  have hm : 9 * (500 * n5 - 250) * (100 * clockOf step) = 100 * (9 * (500 * n5 - 250) * clockOf step) := by
    rw [Nat.mul_left_comm]
  rw [hc, hm]
  generalize 9 * (500 * n5 - 250) * clockOf step = cycles
  omega

/-! Works of a train: what the end of one does (R144). -/

variable {s} in
theorem State.wf_trains (h : s.wf = true) : s.trains.length = 17 := by
  simp only [State.wf, Bool.and_eq_true, decide_eq_true_eq] at h
  exact h.1.1.1.1.1.2

variable {s} in
theorem State.wf_parts (h : s.wf = true) : s.parts.length = 16 := by
  simp only [State.wf, Bool.and_eq_true, decide_eq_true_eq] at h
  exact h.1.1.1.1.1.1.2

@[simp] theorem State.length_modTrain (t : Nat) (g : Train → Train) : (s.modTrain t g).trains.length = s.trains.length := by
  simp [State.modTrain, State.setTrain]

theorem State.train_modWork (t id : Nat) (g : Work → Work) (h : t < s.trains.length) :
    (s.modWork t id g).train t = (s.train t).modWork id g := s.train_modTrain t _ h

/-- A work of that id found after a change of the works of that id is a changed one. -/
theorem Train.of_mem_modWork {x : Train} {id : Nat} {g : Work → Work} {v : Work} (h : v ∈ (x.modWork id g).works)
    (hv : v.id = id) : ∃ u, v = g u := by
  obtain ⟨u, _, rfl⟩ := List.mem_map.1 h
  by_cases hu : u.id = id
  · exact ⟨u, by simp [hu]⟩
  · exact absurd hv (by simp [hu])

theorem State.works_modWork {t id : Nat} {g : Work → Work} {v : Work} (h : t < s.trains.length)
    (hm : v ∈ ((s.modWork t id g).train t).works) (hv : v.id = id) : ∃ u, v = g u :=
  Train.of_mem_modWork (s.train_modWork t id g h ▸ hm) hv

/-- A finished work carries the status and the detail of its end. -/
theorem State.works_finishWork {t id st : Nat} {d : List Byte} (h : t < s.trains.length) :
    ∀ v ∈ ((s.finishWork t id st d).train t).works, v.id = id → v.stage = .finished ∧ v.status = st ∧ v.detail = d := by
  intro v hm hv
  obtain ⟨u, rfl⟩ := s.works_modWork h hm hv
  exact ⟨rfl, rfl, rfl⟩

@[simp] theorem State.finishWork_part_at (t id st : Nat) (d : List Byte) (p : Nat) : (s.finishWork t id st d).part p = s.part p := rfl

theorem State.train_modTrain_finishWork {t id st : Nat} {d : List Byte} {g : Train → Train} (h : t < s.trains.length) :
    ((s.modTrain t g).finishWork t id st d).train t = (g (s.train t)).modWork id (fun w => w.finish st d) := by
  rw [State.finishWork, State.train_modWork _ _ _ _ (by simpa using h), s.train_modTrain _ _ h]

/-- A refusal that counts no host violation ends its work. -/
theorem State.failIssue_of_not_violation {r : Refuse} (hr : r.violation = false) (w : Work) :
    s.failIssue w r = s.endWork w.train w.id r := by simp [State.failIssue, hr]

theorem State.works_endWork {t id : Nat} {r : Refuse} (h : t < s.trains.length) :
    ∀ v ∈ ((s.endWork t id r).train t).works, v.id = id → v.stage = .finished ∧ v.status = r.status := by
  intro v hm hv
  obtain ⟨u, rfl⟩ := State.works_modWork _ (by simpa [State.dropPieces] using h) hm hv
  exact ⟨rfl, rfl⟩

/-! TIME_SET (R77). -/

theorem State.applyTime_step {w : Work} {target : Nat} (h : s.clock.time ≤ target) :
    (s.applyTime w target).clock = { s.clock with time := target, isSet := true, slew := 0 } := by
  simp [State.applyTime, h, State.modWork]

theorem State.applyTime_slew {w : Work} {target : Nat} (h : target < s.clock.time) (hd : s.clock.time - target ≤ 1000000) :
    (s.applyTime w target).clock = { s.clock with isSet := true, slew := s.clock.time - target } := by
  simp [State.applyTime, Nat.not_le.2 h, hd, State.modWork]

theorem State.applyTime_refused {w : Work} {target : Nat} (hd : 1000000 < s.clock.time - target) :
    s.applyTime w target = s.endWork w.train w.id (badParam 0x0608) := by
  have h : ¬ s.clock.time ≤ target := by omega
  simp only [State.applyTime, h, Nat.not_le.2 hd, if_false]
  exact s.failIssue_of_not_violation (by decide) w

/-- Settles O23: each of TIME_SET's three answers by its equation, the rate of a slew by the tick's clock. -/
theorem timeSetStepsOrSlews : Obligations.TimeSetStepsOrSlews := by
  refine ⟨fun s w target hwf hw => ⟨fun h => ?_, fun h hd => ?_, fun hd => ?_⟩, fun s hg => ?_⟩
  · simp [s.applyTime_step h]
  · simp [s.applyTime_slew h hd]
  · rw [s.applyTime_refused hd]
    exact ⟨rfl, s.works_endWork (by rw [s.wf_trains hwf]; exact hw)⟩
  · rw [tick_clock hg]
    dsimp only [Clock.advance]
    split_ifs <;> omega

/-! Commands of the Zero behaviour (R97, R101, R106, R267, R281). -/

theorem State.startZero_breathSet {w : Work} {n floor : Nat} (hc : w.cmd = .breathSet n floor) :
    let next := if n = 0 then (s.train w.train).n5Next.getD (s.train w.train).n5 else n
    s.startZero w = (s.modTrain w.train (fun x => { x with n5Next := some next, floorNext := some floor })).finishWork w.train w.id 0
      (leBytes 2 next) := by simp only [State.startZero, State.execZero, hc]

theorem State.startZero_partQos {w : Work} {share : Nat} (hc : w.cmd = .partQos share)
    (hs : shareSum (fun p => (s.part p).shareSoon) w.part share ≤ 256) :
    s.startZero w = (s.modPart w.part (fun p => { p with shareNext := some share })).finishWork w.train w.id 0
      (byte share :: leBytes 2 (shareSum (fun p => (s.part p).shareSoon) w.part share)) := by
  simp only [State.startZero, State.execZero, hc, if_neg (Nat.not_lt.2 hs)]

theorem State.startZero_partQos_refused {w : Work} {share : Nat} (hc : w.cmd = .partQos share)
    (hs : 256 < shareSum (fun p => (s.part p).shareSoon) w.part share) :
    s.startZero w = s.endWork w.train w.id (badParam 0x0606) := by
  simp only [State.startZero, State.execZero, hc, if_pos hs]
  exact s.failIssue_of_not_violation (by decide) w

theorem State.startZero_partPower {w : Work} {step : Nat} (hc : w.cmd = .partPower step) :
    s.startZero w = (s.modTrain w.train (fun x => { x with stepNext := some step })).finishWork w.train w.id 0 [byte step] := by
  simp only [State.startZero, State.execZero, hc]

theorem State.startZero_auditPolicy {w : Work} {policy : Nat} (hc : w.cmd = .auditPolicy policy) :
    s.startZero w = s.startPolicy w policy := by simp only [State.startZero, hc]

theorem State.startZero_sealClear {w : Work} (hc : w.cmd = .sealClear) : s.startZero w = s.startSealClear w := by
  simp only [State.startZero, hc]

/-- A report of LOOP_BREAK touches neither the trains nor the presence state. -/
theorem State.loopBreak_onlyEvents : OnlyEvents s s.loopBreak := s.raiseD_onlyEvents ..

/-- A latch seen broken since the check: SEAL_CLEAR records the break, which reports it where it has not been, and answers 1. -/
theorem State.startSealClear_broken {w : Work} {at_ raised : Nat} (h : w.aux = [at_, raised]) :
    ∃ u : State, s.startSealClear w = u.finishWork w.train w.id 0 [1] ∧ u.trains = s.trains
      ∧ u.presence = { s.presence with latch := true, unpowered := false, latchTime := at_, breakOwed := false } := by
  simp only [State.startSealClear, h]
  refine ⟨_, rfl, ?_, ?_⟩
  · split
    · exact (State.loopBreak_onlyEvents _).trains
    · rfl
  · split
    · exact (State.loopBreak_onlyEvents _).presence
    · rfl

/-- Settles O59: each command by its equation at issue, its answer by `works_finishWork`. -/
theorem zeroCommandsAtIssue : Obligations.ZeroCommandsAtIssue := by
  refine ⟨fun s w n floor hwf hw hc => ?_, fun s w share hwf hw hp hc => ⟨fun hs => ?_, fun hs => ?_⟩, fun s w step hwf hw hc => ?_,
    fun s w policy hwf hw hc => ?_, fun s w hwf hw hc ha => ?_, fun s w at_ raised hwf hw hc ha => ?_⟩
  all_goals have hl : w.train < s.trains.length := by rw [s.wf_trains hwf]; exact hw
  · rw [s.startZero_breathSet hc]
    refine ⟨State.works_finishWork _ (by simpa using hl), ?_⟩
    rw [s.train_modTrain_finishWork hl]
    exact ⟨rfl, rfl, rfl, rfl, rfl⟩
  · rw [s.startZero_partQos hc hs]
    have hp' : w.part < s.parts.length := by rw [s.wf_parts hwf]; exact hp
    refine ⟨State.works_finishWork _ hl, ?_, fun q hq => ?_, rfl⟩
    · rw [State.finishWork_part_at, s.part_modPart _ _ hp']
    · rw [State.finishWork_part_at, s.part_modPart_other _ _ _ hq]
  · rw [s.startZero_partQos_refused hc hs]
    exact ⟨rfl, s.works_endWork hl⟩
  · rw [s.startZero_partPower hc]
    refine ⟨State.works_finishWork _ (by simpa using hl), ?_⟩
    rw [s.train_modTrain_finishWork hl]
    exact ⟨rfl, rfl, rfl⟩
  · rw [s.startZero_auditPolicy hc]
    exact ⟨State.works_finishWork _ hl, rfl, rfl⟩
  · rw [s.startZero_sealClear hc, State.startSealClear, ha]
    exact ⟨State.works_finishWork _ hl, rfl, rfl⟩
  · rw [s.startZero_sealClear hc]
    obtain ⟨u, hu, ht, hp⟩ := s.startSealClear_broken ha
    rw [hu]
    exact ⟨State.works_finishWork _ (ht ▸ hl), hp⟩

end Sys2Proof.Machine
end

section
/-! PROOFS. The failed seal (R53, R544, R547): what it does to its train, and that nothing else of trains, clock and replies
changes. -/

namespace Sys2Proof.Machine

/-- `t` has the trains, the clock, the consort and the reply queues of `s`. -/
structure SameReplies (s t : State) : Prop where
  trains : t.trains = s.trains
  clock : t.clock = s.clock
  consort : t.consort = s.consort
  reply : ∀ f, (t.fn f).reply = (s.fn f).reply

theorem SameReplies.refl (s : State) : SameReplies s s := ⟨rfl, rfl, rfl, fun _ => rfl⟩

theorem SameReplies.trans {s t u : State} (h : SameReplies s t) (k : SameReplies t u) : SameReplies s u :=
  ⟨k.trains.trans h.trains, k.clock.trans h.clock, k.consort.trans h.consort, fun f => (k.reply f).trans (h.reply f)⟩

theorem OnlyRecords.sameReplies {s t : State} (h : OnlyRecords s t) : SameReplies s t :=
  ⟨h.trains, h.clock, h.consort, fun f => by rw [h.fn f]⟩

theorem SameReplies.foldl {α : Type} {g : State → α → State} (hg : ∀ s a, SameReplies s (g s a)) (as : List α) (s : State) :
    SameReplies s (as.foldl g s) := by
  induction as generalizing s with
  | nil => exact .refl s
  | cons a as ih => exact (hg s a).trans (ih (g s a))

theorem State.modFn_sameReplies (s : State) (i : Nat) (g : Function → Function) (hg : ∀ f, (g f).reply = f.reply) :
    SameReplies s (s.modFn i g) := by
  refine ⟨rfl, rfl, rfl, fun f => ?_⟩
  rcases s.fn_modFn_any i g f with h | h
  · rw [h]
  · rw [h, hg]

theorem State.modPart_sameReplies (s : State) (i : Nat) (g : Part → Part) : SameReplies s (s.modPart i g) :=
  ⟨rfl, rfl, rfl, fun _ => rfl⟩

theorem State.saturated_onlyEvents (s : State) (p off before after : Nat) : OnlyEvents s (s.saturated p off before after) := by
  unfold State.saturated
  split
  · exact s.raise_onlyEvents _ _
  · exact .refl s

variable (s : State)

/-! SEAL_STATUS (R535). -/

/-- SEAL_STATUS of a train whose seal has been decided. -/
def Train.sealed (x : Train) (consort failed : Bool) : Train :=
  { x with sealStatus := {
      breath := x.breath, consort := consort, failed := failed, causes := x.causes
      failures := x.failures, core := x.core, unit := x.unit } }

theorem State.train_noteSeal {t : Nat} (failed : Bool) (h : t < s.trains.length) :
    (s.noteSeal t failed).train t = (s.train t).sealed (s.consort.member && decide (t < 16)) failed := s.train_modTrain t _ h

theorem State.train_noteSeal_other {t k : Nat} (failed : Bool) (h : k ≠ t) : (s.noteSeal t failed).train k = s.train k :=
  s.train_modTrain_other t k _ h

/-- The policy taken back at a failed seal is no business of the trains. -/
theorem State.revertPolicy_noteSeal (t : Nat) (failed : Bool) :
    SameReplies (s.noteSeal t failed) (s.revertPolicy.noteSeal t failed) := by
  unfold State.revertPolicy
  split
  · exact .refl _
  · exact ⟨rfl, rfl, rfl, fun _ => rfl⟩

/-! The train of a failed seal. -/

/-- What a failed seal leaves of its train but SEAL_STATUS: its next Breath is a re-run. -/
def Train.failedSeal (x : Train) : Train :=
  { x with
    failures := x.failures + 1, firstFailed := if x.failures = 0 then x.breath else x.firstFailed, lastCauses := x.causes, rerun := true
    closeNext := x.closeNext || decide (3 ≤ x.failures + 1), phase := .decided, forming := [], resultEvents := []
    marks := [], unmarks := [], works := x.works.map (fun w =>
      if w.stage = .waiting ∧ w.status ≠ 0 then { w with status := 0, detail := [], unexecuted := false } else w) }

/-- After its train, a failed seal only counts, reports and records. -/
theorem State.failSeal_sameReplies (t : Nat) :
    SameReplies ((s.setTrain t (s.train t).failedSeal).noteSeal t true) (s.failSeal t) := by
  unfold State.failSeal
  extract_lets x n failed reverted noted counted flagged raised
  have hnoted : SameReplies ((s.setTrain t (s.train t).failedSeal).noteSeal t true) noted := by
    unfold noted reverted
    split
    · exact State.revertPolicy_noteSeal _ t true
    · exact .refl _
  have hcounted : SameReplies noted counted := by
    refine SameReplies.foldl (fun u p => ?_) _ _
    exact (u.modPart_sameReplies p _).trans (State.saturated_onlyEvents _ _ _ _ _).records.sameReplies
  have hflagged : SameReplies counted flagged := by
    unfold flagged
    split
    · refine SameReplies.foldl (fun u p => ?_) _ _
      exact u.modFn_sameReplies _ _ (fun _ => rfl)
    · exact .refl _
  have hraised : SameReplies flagged raised := (flagged.raiseL_onlyEvents ..).records.sameReplies
  exact (((hnoted.trans hcounted).trans hflagged).trans hraised).trans (raised.stageEvent_onlyRecords _ _ _ _).sameReplies

theorem State.train_failSeal {t : Nat} (h : t < s.trains.length) :
    (s.failSeal t).train t = (s.train t).failedSeal.sealed (s.consort.member && decide (t < 16)) true := by
  have e := (s.failSeal_sameReplies t).trains
  rw [State.train, e]
  refine (State.train_noteSeal _ true ?_).trans ?_
  · simpa [State.setTrain] using h
  · rw [s.train_setTrain _ _ h]; rfl

theorem State.train_failSeal_other {t k : Nat} (h : k ≠ t) : (s.failSeal t).train k = s.train k := by
  rw [State.train, (s.failSeal_sameReplies t).trains]
  exact (State.train_noteSeal_other _ true h).trans (s.train_setTrain_other _ _ _ h)

/-- Settles O24: the train by `train_failSeal`, the rest by `failSeal_sameReplies`. -/
theorem failedSealPostsNothing : Obligations.FailedSealPostsNothing := by
  intro s t hwf ht
  have hl : t < s.trains.length := by rw [s.wf_trains hwf]; exact ht
  have same := s.failSeal_sameReplies t
  refine ⟨fun f => same.reply f, fun k => ?_, ?_, ?_, fun hn => ?_, ?_, same.clock⟩
  · by_cases hk : k = t
    · subst hk; rw [s.train_failSeal hl]; rfl
    · rw [s.train_failSeal_other hk]
  · rw [s.train_failSeal hl]; rfl
  · rw [s.train_failSeal hl]; rfl
  · rw [s.train_failSeal hl]
    simp [Train.sealed, Train.failedSeal, hn]
  · rw [s.train_failSeal hl]; rfl

end Sys2Proof.Machine
end

section
/-! PROOFS. The set formed at an admission point (R59 to R65): it fits its ceiling, and every Urgent candidate is answered. -/

namespace Sys2Proof.Machine

variable {l : Limits} {f g : Forming} {w : Work}

/-! The ceiling. -/

/-- A set that holds any candidate does not exceed the ceiling (R60). -/
def Forming.Fits (l : Limits) (f : Forming) : Prop := f.pieces ≠ [] → l.paced f.total ≤ l.ceiling

theorem Forming.urgentOne_fits (w : Work) (e : Estimate) (h : f.Fits l) : (f.urgentOne l w e).Fits l := by
  unfold Forming.urgentOne
  extract_lets own left no
  split_ifs with hquiet hcount hceiling hurgent
  · exact h
  · exact h
  · exact h
  · exact h
  · exact fun _ => Nat.not_lt.1 hceiling

theorem Forming.bulkSteps_fits (w : Work) (e : Nat → Estimate) (n k : Nat) (h : f.Fits l) : (bulkSteps l w e n k f).Fits l := by
  induction n generalizing k f with
  | zero => exact h
  | succ n ih =>
    unfold Forming.bulkSteps
    split_ifs with hstop
    · exact h
    · exact ih _ fun _ => Nat.not_lt.1 (not_or.1 hstop).2

/-! The answers. -/

/-- The next step of a command stands in the set, or the command is refused. -/
def Forming.Answers (f : Forming) (w : Work) : Prop :=
  (∃ p ∈ f.pieces, p.work = w.id ∧ p.step = w.stepsAdmitted) ∨ ∃ d, (w.id, d) ∈ f.refused

/-- What stands in a set stays in the set that grows out of it. -/
def Forming.Within (f g : Forming) : Prop := f.pieces ⊆ g.pieces ∧ f.refused ⊆ g.refused

theorem Forming.Within.refl (f : Forming) : f.Within f := ⟨List.Subset.refl _, List.Subset.refl _⟩

theorem Forming.Answers.mono (h : f.Answers w) (hg : f.Within g) : g.Answers w :=
  h.imp (fun ⟨p, hp, e⟩ => ⟨p, hg.1 hp, e⟩) (fun ⟨d, hd⟩ => ⟨d, hg.2 hd⟩)

theorem Forming.within_urgentOne (f : Forming) (l : Limits) (w : Work) (e : Estimate) : f.Within (f.urgentOne l w e) := by
  unfold Forming.urgentOne
  extract_lets own left no
  have hno (cause : Nat) : f.Within (no cause) := ⟨List.Subset.refl _, List.subset_append_left _ _⟩
  split_ifs
  · exact hno 4
  · exact hno 2
  · exact hno 1
  · exact hno 3
  · exact ⟨List.subset_append_left _ _, List.Subset.refl _⟩

theorem Forming.urgentOne_answers (f : Forming) (l : Limits) (w : Work) (e : Estimate) : (f.urgentOne l w e).Answers w := by
  unfold Forming.urgentOne
  extract_lets own left no
  have hno (cause : Nat) : (no cause).Answers w := .inr ⟨_, List.mem_append_right _ (List.mem_singleton_self _)⟩
  split_ifs
  · exact hno 4
  · exact hno 2
  · exact hno 1
  · exact hno 3
  · exact .inl ⟨_, List.mem_append_right _ (List.mem_singleton_self _), rfl, rfl⟩

theorem Forming.within_bulkSteps (l : Limits) (w : Work) (e : Nat → Estimate) (n k : Nat) (f : Forming) :
    f.Within (bulkSteps l w e n k f) := by
  induction n generalizing k f with
  | zero => exact .refl f
  | succ n ih =>
    unfold Forming.bulkSteps
    split_ifs
    · exact .refl f
    · obtain ⟨hpieces, hrefused⟩ := ih (k + 1) { f with
        total := f.total.add (e k)
        pieces := f.pieces ++ [{ work := w.id, step := k, cycles := (e k).cycles, energy := (e k).energy, breath := l.breath }] }
      exact ⟨fun p hp => hpieces (List.mem_append_left _ hp), hrefused⟩

/-- Every command of a list that is taken in order is answered. -/
theorem Forming.answers_foldl {ws : List Work} (e : Work → Estimate) (hw : w ∈ ws) :
    (ws.foldl (fun f w => f.urgentOne l w (e w)) f).Answers w := by
  obtain ⟨before, after, rfl⟩ := List.append_of_mem hw
  rw [List.foldl_append, List.foldl_cons]
  exact List.foldlRecOn (motive := (Forming.Answers · w)) after _ (Forming.urgentOne_answers _ _ _ _)
    fun _ hf v _ => hf.mono (Forming.within_urgentOne _ l v (e v))

/-! The formed set. -/

theorem State.formSet_fits (s : State) (t limit : Nat) :
    let x := s.train t
    let step := x.stepNext.getD x.step
    (s.formSet t limit).pieces ≠ [] →
      pacedAt (s.formSet t limit).total (s.groupShare t) step ≤ ceiling (x.n5Next.getD x.n5) step := by
  unfold State.formSet
  extract_lets x step quiet ready urgents bulks A l carried cost isUrgent empty urgent
  have hurgent : urgent.Fits l := List.foldlRecOn urgents _ (fun h => absurd rfl h) fun f hf w _ => f.urgentOne_fits w _ hf
  refine List.foldlRecOn (motive := Forming.Fits l) bulks _ hurgent fun f hf w _ => ?_
  split_ifs
  · exact hf
  · exact f.bulkSteps_fits w _ _ _ hf

/-- An Urgent candidate is taken before any Bulk command, and what is settled for it stands. -/
theorem State.formSet_answers (s : State) (t limit : Nat) (hw : w ∈ (s.train t).works) (hbulk : w.bulk = false)
    (hready : w.live = true ∧ w.status = 0 ∧ w.cut = false ∧ w.stage = .waiting ∧ w.arrived ≤ limit ∧ w.stepsAdmitted < w.steps) :
    (s.formSet t limit).Answers w := by
  unfold State.formSet
  extract_lets x step quiet ready urgents bulks A l carried cost isUrgent empty urgent
  obtain ⟨hlive, hstatus, hcut, hstage, harrived, hsteps⟩ := hready
  have hmem : w ∈ urgents := by simp [urgents, ready, x, hw, hbulk, hlive, hstatus, hcut, hstage, harrived, hsteps]
  refine List.foldlRecOn (motive := (Forming.Answers · w)) bulks _ (Forming.answers_foldl _ hmem) fun f hf v _ => ?_
  split_ifs
  · exact hf
  · exact hf.mono (f.within_bulkSteps l v _ _ _)

/-- Settles O22: the fit is kept by every candidate taken, and an Urgent candidate's answer outlives all that come after. -/
theorem admissionFitsAndAnswersUrgent : Obligations.AdmissionFitsAndAnswersUrgent :=
  ⟨fun s t limit => s.formSet_fits t limit, fun s t limit _ hw hbulk hlive hstatus hcut hstage harrived hsteps =>
    s.formSet_answers t limit hw hbulk ⟨hlive, hstatus, hcut, hstage, harrived, hsteps⟩⟩

end Sys2Proof.Machine
end

section
/-! PROOFS. The spine of a state: what a Breath is reckoned by. Its counters, places, phases, seals and admitted sets by train, the
clock, the window's presence state, the firmware banks and whether the card is a member of a consort. Most operations leave the
spine as it is, each by an equation. -/

namespace Sys2Proof.Machine

/-- What a Breath of a train is reckoned by. -/
structure Beat where
  breath : Nat
  next : Nat
  start : Nat
  startTime : Nat
  phase : Phase
  sealStatus : SealStatus
  failures : Nat
  rerun : Bool
  admitted : List Piece

def Train.beat (x : Train) : Beat := ⟨x.breath, x.next, x.start, x.startTime, x.phase, x.sealStatus, x.failures, x.rerun, x.admitted⟩

@[simp] theorem Train.beat_eq_iff (x y : Train) : x.beat = y.beat ↔ x.breath = y.breath ∧ x.next = y.next ∧ x.start = y.start
    ∧ x.startTime = y.startTime ∧ x.phase = y.phase ∧ x.sealStatus = y.sealStatus ∧ x.failures = y.failures ∧ x.rerun = y.rerun
    ∧ x.admitted = y.admitted := by simp [Train.beat]

/-- The beats of all trains, and what else of a state this part speaks of. -/
structure Spine where
  beats : List Beat
  clock : Clock
  presence : Presence
  banks : List Bank
  member : Bool

def State.spine (s : State) : Spine := ⟨s.trains.map Train.beat, s.clock, s.presence, s.dev.banks, s.consort.member⟩

/-- A state with the same trains, clock, presence state, banks and membership. -/
theorem State.spine_congr {s t : State} (trains : t.trains = s.trains) (clock : t.clock = s.clock) (presence : t.presence = s.presence)
    (banks : t.dev.banks = s.dev.banks) (member : t.consort.member = s.consort.member) : t.spine = s.spine := by
  rw [State.spine, trains, clock, presence, banks, member, State.spine]

/-- The beat of train `k`. -/
def Spine.beat (x : Spine) (k : Nat) : Beat := x.beats.getD k (Train.beat {})

variable (s : State)

theorem State.spine_beat (k : Nat) : s.spine.beat k = (s.train k).beat := by
  simp only [Spine.beat, State.spine, State.train, List.getD_eq_getElem?_getD, List.getElem?_map]
  cases s.trains[k]? <;> rfl

/-- A train of another beat. -/
def Spine.setBeat (x : Spine) (k : Nat) (b : Beat) : Spine := { x with beats := x.beats.set k b }

theorem State.spine_setTrain (k : Nat) (x : Train) : (s.setTrain k x).spine = s.spine.setBeat k x.beat := by
  simp [State.spine, State.setTrain, Spine.setBeat, List.map_set]

theorem Spine.setBeat_self (x : Spine) (k : Nat) : x.setBeat k (x.beat k) = x := by
  have h : x.beats.set k (x.beat k) = x.beats := by
    refine List.ext_getElem (by simp) fun i hi hj => ?_
    by_cases e : k = i
    · subst e; simp [Spine.beat, hj]
    · simp [List.getElem_set_ne e]
  rw [Spine.setBeat, h]

/-! Single updates. -/

theorem State.setTrain_spine (k : Nat) (x : Train) (h : x.beat = (s.train k).beat) : (s.setTrain k x).spine = s.spine := by
  rw [s.spine_setTrain, h, ← s.spine_beat, Spine.setBeat_self]

@[simp] theorem State.modTrain_spine (k : Nat) (g : Train → Train) (h : ∀ x, (g x).beat = x.beat) : (s.modTrain k g).spine = s.spine :=
  s.setTrain_spine k _ (h _)

@[simp] theorem State.modWork_spine (k id : Nat) (g : Work → Work) : (s.modWork k id g).spine = s.spine := s.modTrain_spine k _ fun _ => rfl
@[simp] theorem State.failWork_spine (k id : Nat) (r : Refuse) : (s.failWork k id r).spine = s.spine := s.modWork_spine ..
@[simp] theorem State.finishWork_spine (k id st : Nat) (d : List Byte) : (s.finishWork k id st d).spine = s.spine := s.modWork_spine ..
@[simp] theorem State.setSession_spine (k : Nat) (x : Session) : (s.setSession k x).spine = s.spine := s.modTrain_spine k _ fun _ => rfl
@[simp] theorem State.modObjects_spine (k : Nat) (g : Objects → Objects) : (s.modObjects k g).spine = s.spine := s.modTrain_spine k _ fun _ => rfl
@[simp] theorem State.addDue_spine (k : Nat) (d : DueReply) : (s.addDue k d).spine = s.spine := s.modTrain_spine k _ fun _ => rfl
@[simp] theorem State.addJournal_spine (k : Nat) (rs : List Range) : (s.addJournal k rs).spine = s.spine := s.modTrain_spine k _ fun _ => rfl
@[simp] theorem State.addResultEvent_spine (k : Nat) (e : Event) : (s.addResultEvent k e).spine = s.spine := s.modTrain_spine k _ fun _ => rfl

@[simp] theorem State.setFn_spine (i : Nat) (x : Function) : (s.setFn i x).spine = s.spine :=
  State.spine_congr rfl rfl rfl rfl rfl
@[simp] theorem State.modFn_spine (i : Nat) (g : Function → Function) : (s.modFn i g).spine = s.spine :=
  State.spine_congr rfl rfl rfl rfl rfl
@[simp] theorem State.modRing_spine (f : Nat) (b : Bool) (g : Ring → Ring) : (s.modRing f b g).spine = s.spine :=
  State.spine_congr rfl rfl rfl rfl rfl
@[simp] theorem State.modPart_spine (i : Nat) (g : Part → Part) : (s.modPart i g).spine = s.spine :=
  State.spine_congr rfl rfl rfl rfl rfl
@[simp] theorem State.modCore_spine (c : Nat) (g : Core → Core) : (s.modCore c g).spine = s.spine :=
  State.spine_congr rfl rfl rfl rfl rfl
@[simp] theorem State.modCounters_spine (c : Nat) (g : CoreCounters → CoreCounters) : (s.modCounters c g).spine = s.spine :=
  State.spine_congr rfl rfl rfl rfl rfl
@[simp] theorem State.modBay_spine (i : Nat) (g : Bay → Bay) : (s.modBay i g).spine = s.spine :=
  State.spine_congr rfl rfl rfl rfl rfl
@[simp] theorem State.modDev_spine (g : Device → Device) (h : ∀ d, (g d).banks = d.banks) : (s.modDev g).spine = s.spine := by
  simp [State.spine, State.modDev, h]
@[simp] theorem State.fresh_spine : s.fresh.2.spine = s.spine :=
  State.spine_congr rfl rfl rfl rfl rfl
@[simp] theorem State.noteAccess_spine (f : Nat) (r : Region) (a n : Nat) (w p : Bool) : (s.noteAccess f r a n w p).spine = s.spine :=
  State.spine_congr rfl rfl rfl rfl rfl

theorem OnlyRecords.spine {s t : State} (h : OnlyRecords s t) : t.spine = s.spine := by
  rw [State.spine, h.trains, h.clock, h.presence, h.dev, h.consort, State.spine]

theorem OnlyEvents.spine {s t : State} (h : OnlyEvents s t) : t.spine = s.spine := h.records.spine

/-! Branches and folds. -/

@[simp] theorem State.ite_spine (c : Prop) [Decidable c] (a b : State) : (if c then a else b).spine = if c then a.spine else b.spine :=
  apply_ite State.spine c a b

@[simp] theorem State.foldl_spine {α : Type} (f : State → α → State) (xs : List α) (hf : ∀ u a, (f u a).spine = u.spine) :
    (xs.foldl f s).spine = s.spine :=
  List.foldlRecOn (motive := fun u => u.spine = s.spine) xs f rfl fun u hu a _ => (hf u a).trans hu

/-- A fold that carries a value beside the state. -/
@[simp] theorem State.foldl_fst_spine {α β : Type} (f : State × β → α → State × β) (xs : List α) (b : β)
    (hf : ∀ u a, (f u a).1.spine = u.1.spine) : (xs.foldl f (s, b)).1.spine = s.spine :=
  List.foldlRecOn (motive := fun u => u.1.spine = s.spine) xs f rfl fun u hu a _ => (hf u a).trans hu

/-! Events and records. -/

@[simp] theorem State.hostWrite_spine (f a : Nat) (bs : List Byte) : (s.hostWrite f a bs).spine = s.spine :=
  State.spine_congr rfl rfl rfl rfl rfl
@[simp] theorem State.signal_spine (f v : Nat) : (s.signal f v).spine = s.spine := (s.signal_onlyEvents f v).spine
@[simp] theorem State.raise_spine (f : Nat) (e : Event) : (s.raise f e).spine = s.spine := (s.raise_onlyEvents f e).spine
@[simp] theorem State.raiseD_spine (c v u f : Nat) (p : List Byte) : (s.raiseD c v u f p).spine = s.spine := (s.raiseD_onlyEvents ..).spine
@[simp] theorem State.raiseF_spine (n c v f : Nat) (p : List Byte) : (s.raiseF n c v f p).spine = s.spine := (s.raiseF_onlyEvents ..).spine
@[simp] theorem State.raiseO_spine (c v n k u f : Nat) (p : List Byte) : (s.raiseO c v n k u f p).spine = s.spine := (s.raiseO_onlyEvents ..).spine
@[simp] theorem State.raiseL_spine (t c v k u f : Nat) (p : List Byte) : (s.raiseL t c v k u f p).spine = s.spine := (s.raiseL_onlyEvents ..).spine
@[simp] theorem State.saturated_spine (p o a b : Nat) : (s.saturated p o a b).spine = s.spine := (s.saturated_onlyEvents p o a b).spine
@[simp] theorem State.modLedger_spine (g : Ledger → Ledger) : (s.modLedger g).spine = s.spine :=
  State.spine_congr rfl rfl rfl rfl rfl
@[simp] theorem State.closeFolio_spine (f : Nat) (b : Option Nat) : (s.closeFolio f b).spine = s.spine := (s.closeFolio_onlyRecords f b).spine
@[simp] theorem State.tryGap_spine : s.tryGap.spine = s.spine := s.tryGap_onlyRecords.spine
@[simp] theorem State.setHold_spine (r : Nat) : (s.setHold r).spine = s.spine := (s.setHold_onlyRecords r).spine
@[simp] theorem State.notePressure_spine : s.notePressure.spine = s.spine := s.notePressure_onlyRecords.spine
@[simp] theorem State.appendOpen_spine (o : Bool) (rs : List (List Byte)) : (s.appendOpen o rs).spine = s.spine := (s.appendOpen_onlyRecords o rs).spine
@[simp] theorem State.stage_spine (o : Bool) (n : Nat) (rs : List (List Byte)) (p b : Nat) : (s.stage o n rs p b).2.spine = s.spine :=
  (s.stage_onlyRecords o n rs p b).spine
@[simp] theorem State.stageOne_spine (r : List Byte) (p b : Nat) : (s.stageOne r p b).spine = s.spine := (s.stageOne_onlyRecords r p b).spine
@[simp] theorem State.stageEvent_spine (y t p : Nat) (b : List Byte) : (s.stageEvent y t p b).spine = s.spine := (s.stageEvent_onlyRecords y t p b).spine
@[simp] theorem State.bayEvent_spine (b c : Nat) : (s.bayEvent b c).spine = s.spine := (s.bayEvent_onlyRecords b c).spine
@[simp] theorem State.loseEntry_spine (n p b : Nat) : (s.loseEntry n p b).spine = s.spine :=
  State.spine_congr rfl rfl rfl rfl rfl
@[simp] theorem State.toGasp_spine (rs : List (List Byte)) (p b : Nat) : (s.toGasp rs p b).2.spine = s.spine := by
  unfold State.toGasp
  dsimp only
  split <;> rfl

@[simp] theorem State.once_spine (c u : Nat) : (s.once c u).2.spine = s.spine := by
  unfold State.once
  split <;> rfl

@[simp] theorem State.freezeRecord_spine (f : Nat) (b : Bool) : (s.freezeRecord f b).spine = s.spine := s.stageEvent_spine ..
@[simp] theorem State.stageAbort_spine (t r b : Nat) : (s.stageAbort t r b).spine = s.spine := s.stageEvent_spine ..

@[simp] theorem State.violate_spine (f : Nat) (v : Violation) : (s.violate f v).1.spine = s.spine := by
  unfold State.violate
  dsimp only
  split
  · rfl
  · simp

@[simp] theorem State.violation_spine (f : Nat) (b : Bool) (v : Violation) : (s.violation f b v).spine = s.spine := by
  unfold State.violation
  simp

@[simp] theorem State.unreserve_spine (n : Nat) : (s.unreserve n).spine = s.spine := by simp [State.unreserve]

@[simp] theorem State.reserve_spine (n : Nat) (o : Bool) : (s.reserve n o).2.spine = s.spine := by
  unfold State.reserve
  dsimp only
  (repeat' split) <;> simp

@[simp] theorem State.applyPolicy_spine (t : Nat) : (s.applyPolicy t).spine = s.spine := by
  unfold State.applyPolicy
  dsimp only
  (repeat' split) <;> simp

@[simp] theorem State.shutdownIdle_spine : s.shutdownIdle.spine = s.spine := by simp [State.shutdownIdle]

@[simp] theorem State.noteRestart_spine : s.noteRestart.spine = s.spine := by
  unfold State.noteRestart
  split <;> simp

@[simp] theorem State.elect_spine : s.elect.spine = s.spine := by
  unfold State.elect
  (repeat' split) <;> simp

@[simp] theorem State.raiseWrap_spine (c : Nat) : (s.raiseWrap c).spine = s.spine := by
  unfold State.raiseWrap
  simp

end Sys2Proof.Machine
end

section
/-! PROOFS. The spine is no business of memory, slots, history and the runs of programs. -/

namespace Sys2Proof.Machine

variable (s : State)

/-! Memory and slots. -/

@[simp] theorem State.slotWrite_spine (f : Nat) (r : Region) (a : Nat) (bs : List Byte) (p : Bool) : (s.slotWrite f r a bs p).spine = s.spine := by
  simp [State.slotWrite]

@[simp] theorem State.spillPutUnit_spine (f h u : Nat) (bs : List Byte) : (s.spillPutUnit f h u bs).spine = s.spine := by
  unfold State.spillPutUnit
  split <;> simp

@[simp] theorem State.spillWrite_spine (f h o : Nat) (bs : List Byte) : (s.spillWrite f h o bs).spine = s.spine := by
  simp [State.spillWrite]

@[simp] theorem State.hbmPut_spine (t a : Nat) (b : Byte) : (s.hbmPut t a b).spine = s.spine := by
  unfold State.hbmPut
  split
  · dsimp only
    split
    · rfl
    · exact State.modTrain_spine _ t _ fun _ => rfl
  · rfl

@[simp] theorem State.hbmWrite_spine (t a : Nat) (bs : List Byte) : (s.hbmWrite t a bs).spine = s.spine := by
  induction bs generalizing s a with
  | nil => rfl
  | cons b bs ih => exact (ih _ _).trans (s.hbmPut_spine t a b)

@[simp] theorem State.scramble_spine (t : Nat) (r : Range) : (s.scramble t r).spine = s.spine := by
  unfold State.scramble
  split
  · split
    · rfl
    · refine s.foldl_spine _ _ fun u c => ?_
      simp [State.freeBytes]
  · refine s.foldl_spine _ _ fun u x => ?_
    simp [State.freeBytes]

@[simp] theorem State.releaseSlot_spine (f h k : Nat) : (s.releaseSlot f h k).spine = s.spine := by
  unfold State.releaseSlot
  (repeat' split) <;> simp

@[simp] theorem State.unclaim_spine (w : Work) : (s.unclaim w).spine = s.spine := by simp [State.unclaim]

@[simp] theorem State.spoil_spine (w : Work) (k : Nat) (rs : List Range) (r : Refuse) : (s.spoil w k rs r).spine = s.spine := by
  simp [State.spoil]

@[simp] theorem RunEnd.spoiled_spine (e : RunEnd) (w : Work) (k : Nat) (r : Refuse) : (e.spoiled w k r).spine = e.s.spine :=
  e.s.spoil_spine ..

@[simp] theorem State.useAsMemory_spine (f h : Nat) : (s.useAsMemory f h).spine = s.spine :=
  State.spine_congr rfl rfl rfl rfl rfl
@[simp] theorem State.badSlot_spine (f h k : Nat) : (s.badSlot f h k).spine = s.spine :=
  State.spine_congr rfl rfl rfl rfl rfl
@[simp] theorem State.withdraw_spine (f h : Nat) : (s.withdraw f h).spine = s.spine :=
  State.spine_congr rfl rfl rfl rfl rfl

@[simp] theorem State.noteHeaders_spine (w : Work) (rs : List (Nat × SlotRef)) : (s.noteHeaders w rs).spine = s.spine := by
  refine s.foldl_spine _ _ fun u x => ?_
  split <;> simp

@[simp] theorem State.notePayloads_spine (w : Work) (hs : List HeldSlot) : (s.notePayloads w hs).spine = s.spine := by
  refine s.foldl_spine _ _ fun u x => ?_
  split <;> simp

@[simp] theorem State.rereadInputs_spine (w : Work) : (s.rereadInputs w).spine = s.spine := by simp [State.rereadInputs]

@[simp] theorem State.putOutput_spine (w : Work) (i o : Nat) (bs : List Byte) : (s.putOutput w i o bs).spine = s.spine := by
  unfold State.putOutput
  split
  · rfl
  · dsimp only
    split <;> simp

@[simp] theorem State.returnSlot_spine (f g p st b : Nat) (h : HeldSlot) : (s.returnSlot f g p st b h).spine = s.spine := by
  unfold State.returnSlot
  split <;> simp

@[simp] theorem State.returnSlots_spine (b : Nat) (w : Work) : (s.returnSlots b w).spine = s.spine := by simp [State.returnSlots]

@[simp] theorem State.returnImageSlot_spine (w : Work) (b k : Nat) (i : List Byte) : (s.returnImageSlot w b k i).spine = s.spine := by
  unfold State.returnImageSlot
  (repeat' split) <;> simp

@[simp] theorem State.returnImage_spine (w : Work) (b : Nat) (i : List Byte) (ks : List Nat) : (s.returnImage w b i ks).spine = s.spine := by
  simp [State.returnImage]

@[simp] theorem State.imageSlots_spine (w : Work) (r f k n : Nat) : (s.imageSlots w r f k n).1.spine = s.spine := by
  unfold State.imageSlots
  split
  · rfl
  · dsimp only
    split <;> simp

variable {s} in
theorem State.claimSlot_spine {f h k : Nat} {t : State} (e : s.claimSlot f h k = some t) : t.spine = s.spine := by
  unfold State.claimSlot at e
  split at e
  · cases e
  · split at e
    · cases e; rfl
    · split at e
      · cases e
      · cases e
        simp

/-- A chain of steps each of which may end it. -/
theorem State.foldl_bind_spine {α : Type} {f : State → α → Option State} (hf : ∀ {u a v}, f u a = some v → v.spine = u.spine)
    (xs : List α) {o : Option State} (ho : ∀ u, o = some u → u.spine = s.spine) {t : State}
    (h : xs.foldl (fun o a => o.bind (fun u => f u a)) o = some t) : t.spine = s.spine := by
  refine List.foldlRecOn (motive := fun o => ∀ u, o = some u → u.spine = s.spine) xs _ ho (fun o ho a _ v hv => ?_) t h
  obtain ⟨u, rfl, hu⟩ := Option.bind_eq_some_iff.1 hv
  exact (hf hu).trans (ho u rfl)

variable {s} in
theorem State.claimRange_spine {f h o n : Nat} {t : State} (e : s.claimRange f h o n = some t) : t.spine = s.spine := by
  unfold State.claimRange at e
  split at e
  · cases e
  · split at e
    · cases e; rfl
    · exact s.foldl_bind_spine State.claimSlot_spine _ (fun u hu => by cases hu; rfl) e

variable {s} in
theorem State.claimOutput_spine {x : RunCtx} {d : Desc} {h : Shape} {t : State} (e : s.claimOutput x d h = some t) : t.spine = s.spine := by
  unfold State.claimOutput at e
  split at e
  · split at e
    · exact s.foldl_bind_spine State.claimRange_spine _ (fun u hu => by cases hu; rfl) e
    · cases e; rfl
  · cases e; rfl

/-! History. -/

@[simp] theorem State.seqWrite_spine (t : Nat) (p : Pool) (j : Nat) (q : Sequence) : (s.seqWrite t p j q).spine = s.spine := s.hbmWrite_spine ..
@[simp] theorem State.setEntry_spine (t : Nat) (p : Pool) (i : Nat) (e : PageEntry) : (s.setEntry t p i e).spine = s.spine := s.hbmWrite_spine ..

@[simp] theorem State.retireInPool_spine (t : Nat) (p : Pool) (a : Nat) : (s.retireInPool t p a).spine = s.spine := by
  unfold State.retireInPool
  split
  · rfl
  · split
    · exact s.modTrain_spine t _ fun _ => rfl
    · simp

@[simp] theorem State.retirePages_spine (t : Nat) : (s.retirePages t).spine = s.spine := by simp [State.retirePages]

@[simp] theorem State.linkPage_spine (t : Nat) (p : Pool) (j r k : Nat) : (s.linkPage t p j r k).spine = s.spine := by
  simp [State.linkPage]

/-- Pages obtained leave the spine of `s`. -/
def State.Supplies (s : State) (e : Except Refuse Appended) : Prop := ∀ a, e = .ok a → a.s.spine = s.spine

@[simp] theorem State.supplies_error (r : Refuse) : s.Supplies (.error r) := fun _ h => by cases h
@[simp] theorem State.supplies_ok (a : Appended) : s.Supplies (.ok a) ↔ a.s.spine = s.spine :=
  ⟨fun h => h a rfl, fun h _ e => by cases e; exact h⟩

@[simp] theorem State.obtainPage_supplies (t : Nat) (p : Pool) (j : Nat) : s.Supplies (s.obtainPage t p j) := by
  unfold State.obtainPage
  dsimp only
  (repeat' split) <;> simp
  next h => exact State.claimSlot_spine h

@[simp] theorem State.rowWrite_spine (t : Nat) (p : Pool) (q : Sequence) (h l m : Nat) (bs : List Byte) :
    (s.rowWrite t p q h l m bs).spine = s.spine := by
  unfold State.rowWrite
  split <;> simp

@[simp] theorem State.appendOne_supplies (t : Nat) (p : Pool) (j : Nat) : s.Supplies (s.appendOne t p j) := by
  rw [State.appendOne]
  dsimp only
  split
  · exact s.supplies_error _
  next a ha =>
    have hgot : a.s.spine = s.spine := by
      split at ha
      · exact s.obtainPage_supplies t p j a ha
      · rw [← Except.ok.inj ha]
    split
    · exact s.supplies_error _
    · rw [s.supplies_ok, State.seqWrite_spine]
      refine (State.foldl_spine _ _ _ fun u h => ?_).trans hgot
      simp

theorem State.appendMany_supplies (t : Nat) (p : Pool) (j n : Nat) (u : State) (f : Nat) : u.Supplies (State.appendMany t p j n u f) := by
  induction n generalizing u f with
  | zero => simp [State.appendMany]
  | succ n ih =>
    unfold State.appendMany
    split
    · simp
    next a ha => exact fun b hb => (ih _ _ b hb).trans (u.appendOne_supplies t p j a ha)

@[simp] theorem State.restoreHbm_spine (t : Nat) (o : List Memory) (rs : List Range) : (s.restoreHbm t o rs).spine = s.spine :=
  s.foldl_spine _ _ fun _ _ => rfl

@[simp] theorem State.undoSequence_spine (t : Nat) (o : List Memory) (p : Pool) (j : Nat) : (s.undoSequence t o p j).spine = s.spine := by
  simp [State.undoSequence]

@[simp] theorem State.dropPoisoned_spine (f h : Nat) (r : Refuse) : (s.dropPoisoned f h r).spine = s.spine := by
  unfold State.dropPoisoned
  split <;> simp

@[simp] theorem State.closeSequence_spine (t : Nat) (p : Pool) (j : Nat) : (s.closeSequence t p j).spine = s.spine := by
  simp [State.closeSequence]

@[simp] theorem State.closePool_spine (t : Nat) (p : Pool) : (s.closePool t p).spine = s.spine := by simp [State.closePool]

@[simp] theorem State.openSequence_spine (t : Nat) (p : Pool) (j c r k h : Nat) : (s.openSequence t p j c r k h).spine = s.spine := by
  simp [State.openSequence]

@[simp] theorem State.notePositions_spine (w : Work) (h : Nat) : (s.notePositions w h).spine = s.spine := by
  unfold State.notePositions
  split <;> simp

end Sys2Proof.Machine
end

section
/-! PROOFS. The spine is no business of the runs of programs, of pictures, of tests of macros, of replies and of saved images. -/

namespace Sys2Proof.Machine

variable (s : State)

/-! Checks and counters. -/

@[simp] theorem State.latchFailure_spine (t c k u : Nat) (v : Option Nat) : (s.latchFailure t c k u v).spine = s.spine := by
  simp [State.latchFailure, State.fresh]

@[simp] theorem State.testMacro_spine (t c m : Nat) : (s.testMacro t c m).spine = s.spine := by
  unfold State.testMacro
  (repeat' split) <;> simp

@[simp] theorem State.droneTests_spine (t : Nat) : (s.droneTests t).spine = s.spine := by simp [State.droneTests]
@[simp] theorem State.droneSlot_spine (t : Nat) : (s.droneSlot t).spine = s.spine := by simp [State.droneSlot]

@[simp] theorem State.rewriteFrom_spine (t : Nat) (m : Model) (c b k : Nat) : (s.rewriteFrom t m c b k).1.spine = s.spine :=
  State.spine_congr rfl rfl rfl rfl rfl

@[simp] theorem State.rewriteMacro_spine (t c m : Nat) : (s.rewriteMacro t c m).1.spine = s.spine := by
  unfold State.rewriteMacro
  (repeat' split) <;> simp

@[simp] theorem State.repairMacro_spine (t c m : Nat) : (s.repairMacro t c m).spine = s.spine := by
  unfold State.repairMacro
  have h := s.rewriteMacro_spine t c m
  split <;> simp_all

@[simp] theorem State.countRows_spine (c n : Nat) : (s.countRows c n).spine = s.spine := by simp [State.countRows]
@[simp] theorem State.countGatherAccesses_spine (c n : Nat) : (s.countGatherAccesses c n).spine = s.spine := by
  simp [State.countGatherAccesses]
@[simp] theorem State.countCores_spine (t n : Nat) : (s.countCores t n).spine = s.spine := by simp [State.countCores]
@[simp] theorem State.countEvent_spine (x : RunCtx) (c n : Nat) : (s.countEvent x c n).spine = s.spine := by simp [State.countEvent]
@[simp] theorem State.countGather_spine (x : RunCtx) (d : Desc) (h : Shape) : (s.countGather x d h).spine = s.spine := by
  simp [State.countGather]
@[simp] theorem State.loadUnits_spine (x : RunCtx) (d : Desc) : (s.loadUnits x d).spine = s.spine := by simp [State.loadUnits]

@[simp] theorem State.checkStopmm_spine (x : RunCtx) (d : Desc) (h : Shape) : (s.checkStopmm x d h).spine = s.spine := by
  unfold State.checkStopmm
  (repeat' split) <;> simp

/-! Runs. -/

@[simp] theorem State.operandWrite_spine (x : RunCtx) (d : Desc) (l : Layout) (o : Nat) (bs : List Byte) :
    (s.operandWrite x d l o bs).spine = s.spine := by
  unfold State.operandWrite
  dsimp only
  (repeat' split) <;> simp

@[simp] theorem State.sequenceWrite_spine (x : RunCtx) (m : Nat) (bs : List Byte) : (s.sequenceWrite x m bs).spine = s.spine := by
  unfold State.sequenceWrite
  split <;> simp

@[simp] theorem State.writeRows_spine (x : RunCtx) (d : Desc) (l : Layout) (rows : List (List Byte)) :
    (s.writeRows x d l rows).spine = s.spine := by simp [State.writeRows]

@[simp] theorem State.writeMatrices_spine (x : RunCtx) (d : Desc) (l : Layout) (ms : List (List (List Elt))) :
    (s.writeMatrices x d l ms).spine = s.spine := s.writeRows_spine ..

@[simp] theorem State.runDesc_spine (x : RunCtx) (d : Desc) (h : Shape) : (s.runDesc x d h).s.spine = s.spine := by
  unfold State.runDesc
  split
  · rfl
  · dsimp only
    split <;> simp

@[simp] theorem State.fetchFailure_spine (x : RunCtx) (a p : Nat) : (s.fetchFailure x a p).s.spine = s.spine := by
  unfold State.fetchFailure
  dsimp only
  (repeat' split) <;> simp

@[simp] theorem State.descFailure_spine (x : RunCtx) (a p : Nat) (d : Desc) (h : Shape) : (s.descFailure x a p d h).s.spine = s.spine := by
  unfold State.descFailure
  dsimp only
  (repeat' split) <;> simp

@[simp] theorem State.runDescs_spine (x : RunCtx) (b : Bool) (a p : Nat) (ds : List (Desc × Shape)) (i : Nat) :
    (State.runDescs x b a p ds s i).s.spine = s.spine := by
  induction ds generalizing s x i with
  | nil => rfl
  | cons d ds ih =>
    rw [State.runDescs]
    dsimp only
    split
    · simp
    · split
      · simp [ih]
      · split
        · simp
        next u hu => simp [ih, State.claimOutput_spine hu]

@[simp] theorem State.openRun_spine (w : Work) (b : Bool) : (s.openRun w b).spine = s.spine := by simp [State.openRun]
@[simp] theorem State.runProgram_spine (w : Work) (x : RunCtx) (b : Bool) : (s.runProgram w x b).s.spine = s.spine := by
  simp [State.runProgram]

@[simp] theorem State.scoreRuns_spine (w : Work) (e : Nat) (q : Pool × Nat) (n k : Nat) :
    (State.scoreRuns w e q n k s).s.spine = s.spine := by
  induction n generalizing s k with
  | zero => rfl
  | succ n ih =>
    rw [State.scoreRuns]
    dsimp only
    split <;> simp [ih]

/-! Steps of other commands. -/

@[simp] theorem State.present_spine (t : Nat) (x : Session) (b : Nat) (o : Option (Nat × Bool × Nat × List Byte)) :
    (s.present t x b o).1.spine = s.spine := by
  unfold State.present
  dsimp only
  (repeat' split) <;> simp

@[simp] theorem State.endDecode_spine (w : Work) (x : Session) (b : Nat) (c : Conditioning) (r : DecodeResult) (ps : List DecodedPicture) :
    (s.endDecode w x b c r ps).spine = s.spine := by
  unfold State.endDecode
  dsimp only
  (repeat' split) <;> simp

@[simp] theorem State.writePicture_spine (t : Nat) (x : Session) (p : DecodedPicture) : (s.writePicture t x p).spine = s.spine := by
  simp [State.writePicture]

@[simp] theorem State.decodeStream_spine (w : Work) (x : Session) (b : Nat) (c : Conditioning) : (s.decodeStream w x b c).spine = s.spine := by
  simp [State.decodeStream]

@[simp] theorem State.diagStep_spine (w : Work) (b : Bool) : (s.diagStep w b).spine = s.spine := by
  simp [State.diagStep]

@[simp] theorem State.fillHbm_spine (t p a n : Nat) : (s.fillHbm t p a n).1.spine = s.spine := by
  refine s.foldl_fst_spine _ _ _ fun u i => ?_
  dsimp only
  split <;> simp

end Sys2Proof.Machine
end

section
/-! PROOFS. The spine is no business of replies, of saved images, of what a command commits but PRESENCE_SET, of the bays and of the
frames of a consort. -/

namespace Sys2Proof.Machine

variable (s : State)

/-! Replies. -/

@[simp] theorem State.noteFull_spine (f : Nat) : (s.noteFull f).spine = s.spine := by
  unfold State.noteFull
  dsimp only
  (repeat' split) <;> simp

@[simp] theorem State.writeReply_spine (f : Nat) (r : Reply) : (s.writeReply f r).spine = s.spine := by simp [State.writeReply]

@[simp] theorem State.postHeld_spine (n f : Nat) : (State.postHeld n s f).spine = s.spine := by
  induction n generalizing s with
  | zero => rfl
  | succ n ih =>
    unfold State.postHeld
    dsimp only
    (repeat' split) <;> simp [ih]

@[simp] theorem State.postReplies_spine (f : Nat) (rs : List Reply) : (s.postReplies f rs).spine = s.spine := by
  simp [State.postReplies]

@[simp] theorem State.stageDue_spine (d : DueReply) (b : Nat) : (s.stageDue d b).2.2.spine = s.spine := by
  unfold State.stageDue
  split
  · rfl
  · split
    · rfl
    · simp [apply_ite, State.fresh]

@[simp] theorem State.countReply_spine (t : Nat) (d : DueReply) (b : Bool) : (s.countReply t d b).spine = s.spine := by
  simp [State.countReply]

@[simp] theorem State.stageAll_spine (t b : Nat) (ds : List DueReply) (acc : List (Nat × Reply)) :
    (s.stageAll t b ds acc).2.spine = s.spine := by
  induction ds generalizing s acc with
  | nil => rfl
  | cons d ds ih => simp [State.stageAll, ih]

@[simp] theorem State.release_spine (t b : Nat) (ds : List DueReply) : (s.release t b ds).spine = s.spine := by simp [State.release]

@[simp] theorem State.postDue_spine (t : Nat) (d : DueReply) : (s.postDue t d).spine = s.spine := by simp [State.postDue]

@[simp] theorem State.refusePacket_spine (p : Packet) (t o k : Nat) (r : Refuse) (c : Option Nat) (n : Nat) :
    (s.refusePacket p t o k r c n).spine = s.spine := by simp [State.refusePacket]

@[simp] theorem State.countDrained_spine (t : Nat) (ws : List Work) : (s.countDrained t ws).spine = s.spine := by
  unfold State.countDrained
  split <;> simp

@[simp] theorem State.faultDiag_spine (w : Work) : (s.faultDiag w).spine = s.spine := by simp [State.faultDiag]

@[simp] theorem State.releaseFinished_spine (t : Nat) : (s.releaseFinished t).spine = s.spine := by simp [State.releaseFinished]

@[simp] theorem State.raiseResults_spine (t : Nat) : (s.raiseResults t).spine = s.spine := by simp [State.raiseResults]

/-! The seal's commits. -/

@[simp] theorem State.applyMarks_spine (t : Nat) : (s.applyMarks t).spine = s.spine := by simp [State.applyMarks]
@[simp] theorem State.applyHeld_spine (t : Nat) : (s.applyHeld t).spine = s.spine := by simp [State.applyHeld]

@[simp] theorem State.openSession_spine (w : Work) (h : Nat) : (s.openSession w h).spine = s.spine := by
  unfold State.openSession
  split <;> simp

@[simp] theorem State.commitQuote_spine (w : Work) (n : List Byte) : (s.commitQuote w n).spine = s.spine := by simp [State.commitQuote]

@[simp] theorem State.commitRestore_spine (w : Work) : (s.commitRestore w).spine = s.spine := by
  simp only [State.commitRestore, State.modWork_spine]
  refine (State.foldl_fst_spine _ _ _ _ fun u r => ?_).trans (s.modObjects_spine _ _)
  split <;> simp

@[simp] theorem State.sealDrain_spine (t b : Nat) : (s.sealDrain t b).spine = s.spine := by
  unfold State.sealDrain
  dsimp only
  (repeat' split) <;> simp

@[simp] theorem State.drainNow_spine (t : Nat) : (s.drainNow t).spine = s.spine := by
  unfold State.drainNow
  (repeat' split) <;> simp

@[simp] theorem State.noteOwn_spine (w : Work) : (s.noteOwn w).spine = s.spine := by
  unfold State.noteOwn
  (repeat' split) <;> simp

@[simp] theorem State.restartStopped_spine : s.restartStopped.spine = s.spine := by
  simp [State.restartStopped, apply_ite]

@[simp] theorem State.undoAppends_spine (t : Nat) (w : Work) : (s.undoAppends t w).spine = s.spine := by
  unfold State.undoAppends
  dsimp only
  (repeat' split) <;> simp

@[simp] theorem State.undoFinished_spine (t : Nat) (w : Work) : (s.undoFinished t w).spine = s.spine := by simp [State.undoFinished]

/-! Issue. -/

@[simp] theorem State.checkFlush_spine : s.checkFlush.spine = s.spine := by simp [State.checkFlush]

@[simp] theorem State.eject_spine (b : Nat) : (s.eject b).spine = s.spine := by
  unfold State.eject
  dsimp only
  (repeat' split) <;> simp

@[simp] theorem State.ejected_spine (b : Nat) : (s.ejected b).spine = s.spine := by
  refine s.foldl_spine _ _ fun u w => ?_
  split <;> simp [State.fresh]

@[simp] theorem State.startFlush_spine (w : Work) : (s.startFlush w).spine = s.spine := by simp [State.startFlush]
@[simp] theorem State.startDeregister_spine (w : Work) : (s.startDeregister w).spine = s.spine := s.modWork_spine ..
@[simp] theorem State.startPolicy_spine (w : Work) (p : Nat) : (s.startPolicy w p).spine = s.spine := by simp [State.startPolicy]
@[simp] theorem State.loopBreak_spine : s.loopBreak.spine = s.spine := s.raiseD_spine ..

@[simp] theorem State.writeShadow_spine (w : Work) : (s.writeShadow w).spine = s.spine := by
  unfold State.writeShadow
  dsimp only
  (repeat' split) <;> simp

@[simp] theorem State.rereadRunning_spine (t : Nat) : (s.rereadRunning t).spine = s.spine := by
  refine s.foldl_spine _ _ fun u id => ?_
  (repeat' split) <;> simp

@[simp] theorem State.rerunAdmin_spine : s.rerunAdmin.spine = s.spine := by
  refine (State.foldl_spine _ _ _ fun u w => ?_).trans (s.modTrain_spine _ _ fun _ => rfl)
  (repeat' split) <;> simp

/-! The admission point, and the frames that follow it. -/

@[simp] theorem State.endWaiting_spine (t : Nat) (r : Refuse) : (s.endWaiting t r).spine = s.spine := by simp [State.endWaiting]

@[simp] theorem State.applyAtAdmission_spine (t : Nat) : (s.applyAtAdmission t).spine = s.spine := by simp [State.applyAtAdmission]

@[simp] theorem State.sendPort_spine (p k : Nat) (fs : List Nat) (bs : List Byte) : (s.sendPort p k fs bs).spine = s.spine :=
  State.spine_congr rfl rfl rfl rfl rfl

@[simp] theorem State.sendTo_spine (d k : Nat) (fs : List Nat) (bs : List Byte) : (s.sendTo d k fs bs).spine = s.spine := by
  unfold State.sendTo
  split <;> simp

@[simp] theorem State.sendAll_spine (k : Nat) (fs : List Nat) (bs : List Byte) : (s.sendAll k fs bs).spine = s.spine := by
  simp [State.sendAll]

@[simp] theorem State.sendAdmitted_spine (t : Nat) : (s.sendAdmitted t).spine = s.spine := by simp [State.sendAdmitted]

end Sys2Proof.Machine
end

section
/-! PROOFS. What holds of the spine while works end: an end takes pieces out of an admitted set, or leaves them done, and nothing else.
The admission point is such a passage, after its train has turned to the seal and carried what was open (R59, R66 to R68). -/

namespace Sys2Proof.Machine

/-- A beat with another admitted set. -/
def Beat.admits (b : Beat) (ps : List Piece) : Beat := { b with admitted := ps }

/-- A property of spines that outlives the end of works, and the end of membership. -/
structure Steady where
  holds : Spine → Prop
  sheds : ∀ x k ps, (∀ p ∈ ps, p ∈ (x.beat k).admitted ∨ p.done = true) → holds x → holds (x.setBeat k ((x.beat k).admits ps))
  leaves : ∀ x, holds x → holds { x with member := false }

/-- The property says nothing of the presence state and the banks. -/
def Steady.Loose (K : Steady) : Prop := ∀ x p b, K.holds x → K.holds { x with presence := p, banks := b }

variable {K : Steady} {s : State}

/-! Ends of works. -/

theorem Steady.modTrain (k : Nat) {g : Train → Train} (hg : ∀ x, (g x).beat = x.beat.admits (g x).admitted)
    (hp : ∀ x, ∀ p ∈ (g x).admitted, p ∈ x.admitted ∨ p.done = true) (h : K.holds s.spine) : K.holds (s.modTrain k g).spine := by
  rw [State.modTrain, s.spine_setTrain, hg, ← s.spine_beat]
  exact K.sheds _ k _ (s.spine_beat k ▸ hp (s.train k)) h

theorem Steady.foldl {α : Type} {f : State → α → State} (hf : ∀ u a, K.holds u.spine → K.holds (f u a).spine) (xs : List α)
    (h : K.holds s.spine) : K.holds (xs.foldl f s).spine :=
  List.foldlRecOn (motive := fun u => K.holds u.spine) xs f h fun u hu a _ => hf u a hu

@[simp] theorem State.dropPieces_steady (t id : Nat) (h : K.holds s.spine) : K.holds (s.dropPieces t id).spine :=
  Steady.modTrain t (fun _ => rfl) (fun _ _ hp => .inl (List.mem_of_mem_filter hp)) h

@[simp] theorem State.endWork_steady (t id : Nat) (r : Refuse) (h : K.holds s.spine) : K.holds (s.endWork t id r).spine := by
  simp [State.endWork, h]

@[simp] theorem State.failIssue_steady (w : Work) (r : Refuse) (h : K.holds s.spine) : K.holds (s.failIssue w r).spine := by
  unfold State.failIssue
  dsimp only
  split <;> simp [h]

@[simp] theorem State.failSequence_steady (w : Work) (q : Nat) (r : Refuse) (h : K.holds s.spine) : K.holds (s.failSequence w q r).spine := by
  simp [State.failSequence, h]

@[simp] theorem State.cutWork_steady (t id r : Nat) (h : K.holds s.spine) : K.holds (s.cutWork t id r).spine := by
  unfold State.cutWork
  (repeat' split) <;> simp [h]

@[simp] theorem State.cutTrain_steady (t r : Nat) (h : K.holds s.spine) : K.holds (s.cutTrain t r).spine :=
  Steady.foldl (fun _ _ hu => State.cutWork_steady _ _ _ hu) _ h

/-! The admission point. -/

@[simp] theorem State.admitAt_steady (t n : Nat) (h : K.holds s.spine) : K.holds (s.admitAt t n).spine := by
  unfold State.admitAt
  extract_lets applied drained waited cut formed quiet refused
  have hwaited : waited.spine = s.spine := by
    unfold waited drained applied
    (repeat' split) <;> simp
  have hcut : K.holds cut.spine := by
    unfold cut
    (repeat' split) <;> simp [hwaited, h]
  split
  · exact hcut
  · have hrefused : refused.spine = cut.spine := cut.foldl_spine _ _ fun u a => u.modWork_spine ..
    simpa [hrefused] using hcut

@[simp] theorem State.stopCarried_steady (t : Nat) (h : K.holds s.spine) : K.holds (s.stopCarried t).spine := by
  unfold State.stopCarried
  extract_lets x late drained stopped
  split
  · exact h
  · refine Steady.foldl (fun u p hu => ?_) _ (by simpa [stopped] using h)
    (repeat' split) <;> simp [hu]

/-- Every open piece of the set is carried. -/
def AllCarried (ps : List Piece) : Prop := ∀ p ∈ ps, p.done = false → p.carried = true

/-- One piece carried: its remaining cycles and energy are free values. -/
def carryPiece (a : State × List Piece) (p : Piece) : State × List Piece :=
  (a.1.fresh.2.fresh.2, a.2 ++ [{ p with
    carried := true, cycles := a.1.fresh.1 % (p.cycles + 1), energy := a.1.fresh.2.fresh.1 % (p.energy + 1) }])

theorem State.carryOn_eq (s : State) (t : Nat) : s.carryOn t =
    let open_ := (s.train t).admitted.filter (fun p => !p.done)
    if open_ = [] then s
    else
      let a := open_.foldl carryPiece (s, [])
      let s := a.1.modTrain t (fun x => { x with admitted := x.admitted.filter (·.done) ++ a.2 })
      let s := if t < 16 then s.modPart t (fun p => { p with perf := { p.perf with overrunBreaths := p.perf.overrunBreaths + 1 } }) else s
      s.addResultEvent t (s.event 0x0101 1 t 0xFFFF 0xFF 0 (leBytes 4 (a.2.foldl (fun n p => n + p.cycles) 0))) := rfl

theorem foldl_carryPiece_carried (ps : List Piece) (a : State × List Piece) (h : AllCarried a.2) :
    AllCarried (ps.foldl carryPiece a).2 := by
  refine List.foldlRecOn (motive := fun (a : State × List Piece) => AllCarried a.2) ps _ h fun a ha p _ q hq hd => ?_
  rcases List.mem_append.1 hq with hq | hq
  · exact ha q hq hd
  · rw [List.mem_singleton.1 hq]

/-- After the end of the work window the set is one whose open pieces are all carried. -/
theorem State.carryOn_spine (s : State) (t : Nat) :
    ∃ ps, AllCarried ps ∧ (s.carryOn t).spine = s.spine.setBeat t ((s.spine.beat t).admits ps) := by
  rw [State.carryOn_eq]
  extract_lets open_ a carried counted
  split
  next h =>
    refine ⟨(s.train t).admitted, fun p hp hd => ?_, ?_⟩
    · simpa [hd] using List.filter_eq_nil_iff.1 h p hp
    · rw [s.spine_beat]
      exact (s.spine_beat t ▸ Spine.setBeat_self s.spine t).symm
  next h =>
    have hs : a.1.spine = s.spine := s.foldl_fst_spine _ _ _ fun u p => by simp [carryPiece]
    refine ⟨(a.1.train t).admitted.filter (·.done) ++ a.2, fun p hp hd => ?_, ?_⟩
    · rcases List.mem_append.1 hp with hp | hp
      · simp [hd] at hp
      · exact foldl_carryPiece_carried open_ (s, []) (by simp [AllCarried]) p hp hd
    · have hcounted : counted.spine = carried.spine := by
        unfold counted
        split <;> simp
      rw [State.addResultEvent_spine, hcounted, ← hs, a.1.spine_beat]
      exact a.1.spine_setTrain t _

/-! What holds of one train. -/

theorem Spine.beat_setBeat (x : Spine) (k : Nat) (b : Beat) (h : k < x.beats.length) : (x.setBeat k b).beat k = b := getD_set_self _ _ _ _ h

theorem Spine.beat_setBeat_other (x : Spine) {k j : Nat} (b : Beat) (h : k ≠ j) : (x.setBeat j b).beat k = x.beat k := getD_set_other _ _ _ _ _ h

/-- What holds of the beat of one train, and of the clock, the presence state, the banks and the membership. -/
def Steady.atTrain (k : Nat) (P : Beat → Prop) (Q : Clock → Presence → List Bank → Bool → Prop)
    (hP : ∀ b ps, (∀ p ∈ ps, p ∈ b.admitted ∨ p.done = true) → P b → P (b.admits ps))
    (hQ : ∀ c p b m, Q c p b m → Q c p b false) : Steady where
  holds x := k < x.beats.length ∧ P (x.beat k) ∧ Q x.clock x.presence x.banks x.member
  sheds x j ps hps := by
    rintro ⟨hlen, hbeat, hrest⟩
    refine ⟨by simpa [Spine.setBeat] using hlen, ?_, hrest⟩
    by_cases hj : k = j
    · subst hj
      rw [x.beat_setBeat k _ hlen]
      exact hP _ _ hps hbeat
    · rw [x.beat_setBeat_other _ hj]
      exact hbeat
  leaves x h := ⟨h.1, h.2.1, hQ _ _ _ _ h.2.2⟩

/-! `admissionPoint`. -/

theorem AllCarried.shed {qs ps : List Piece} (h : AllCarried qs) (hps : ∀ p ∈ ps, p ∈ qs ∨ p.done = true) : AllCarried ps := by
  intro p hp hd
  rcases hps p hp with hq | hq
  · exact h p hq hd
  · simp [hd] at hq

/-- Train `k` seals Breath `b`, with the clock, the presence state and the banks of `s`. -/
def sealingAt (s : State) (k b : Nat) : Steady :=
  Steady.atTrain k (fun y => y.phase = .sealing ∧ y.breath = b) (fun c p bs _ => c = s.clock ∧ p = s.presence ∧ bs = s.dev.banks)
    (fun _ _ _ h => h) (fun _ _ _ _ h => h)

/-- The same, with all open work carried. -/
def carriedAt (s : State) (k b : Nat) : Steady :=
  Steady.atTrain k (fun y => y.phase = .sealing ∧ y.breath = b ∧ AllCarried y.admitted)
    (fun c p bs _ => c = s.clock ∧ p = s.presence ∧ bs = s.dev.banks)
    (fun _ _ hps h => ⟨h.1, h.2.1, h.2.2.shed hps⟩) (fun _ _ _ _ h => h)

theorem State.admitNext_carried (s : State) {k : Nat} (hk : k < s.trains.length) :
    (carriedAt s k (s.train k).breath).holds (s.admitNext k).spine := by
  unfold State.admitNext
  extract_lets sealing carried
  have hsealing : (sealingAt s k (s.train k).breath).holds sealing.spine := by
    have hlen : k < s.spine.beats.length := by simpa [State.spine] using hk
    have e : sealing.spine = s.spine.setBeat k { (s.train k).beat with phase := .sealing } := s.spine_setTrain k _
    rw [e]
    exact ⟨by simpa [Spine.setBeat] using hlen, by rw [s.spine.beat_setBeat k _ hlen]; exact ⟨rfl, rfl⟩, rfl, rfl, rfl⟩
  have hcarried : (carriedAt s k (s.train k).breath).holds carried.spine := by
    obtain ⟨ps, hps, e⟩ := (sealing.stopCarried k).carryOn_spine k
    obtain ⟨hlen, ⟨hphase, hbreath⟩, hrest⟩ := State.stopCarried_steady k hsealing
    rw [show carried.spine = _ from e]
    refine ⟨by simpa [Spine.setBeat] using hlen, ?_, hrest⟩
    rw [Spine.beat_setBeat _ k _ hlen]
    exact ⟨hphase, hbreath, hps⟩
  split
  · exact hcarried
  · exact State.admitAt_steady _ _ hcarried

theorem execAdmissionPoint_working {s : State} {k : Nat} (hp : s.powered = true) (hphase : (s.train k).phase = .working)
    (hpoint : (s.train k).admissionPoint ≤ s.clock.timebase) :
    exec (.admissionPoint k) s = .next ((s.admitNext k).sendAdmitted k) := by
  change execAdmissionPoint k s = _
  unfold execAdmissionPoint
  dsimp only
  rw [if_neg (by simp [hp]), if_pos ⟨hphase, hpoint⟩]

/-- Settles O38: the train stands in its seal window with all open work carried, and the frames sent to other members are no part of
that. -/
theorem admissionPointOpensSealWindow : Obligations.AdmissionPointOpensSealWindow := by
  intro s k hwf hk hp hphase hpoint
  have hpass : (carriedAt s k (s.train k).breath).holds ((s.admitNext k).sendAdmitted k).spine := by
    rw [State.sendAdmitted_spine]
    exact s.admitNext_carried (by rw [s.wf_trains hwf]; exact hk)
  obtain ⟨_, hbeat, hclock, hpresence, hbanks⟩ := hpass
  rw [State.spine_beat] at hbeat
  obtain ⟨hsealing, hbreath, hcarried⟩ := hbeat
  exact ⟨_, execAdmissionPoint_working hp hphase hpoint, hsealing, hbreath, hcarried, hclock, hpresence, hbanks⟩

end Sys2Proof.Machine
end

section
/-! PROOFS. One step of an admitted command: it may end its work and changes nothing else of the spine (R52, R66). The piece that
completes is done. -/

namespace Sys2Proof.Machine

section
variable (s : State)

/-! MEM_FILL and STOP_PIN. -/

/-- The state that a fill ends in, done or stopped by a failure, has the spine of `s`. -/
def State.Fills (s : State) : Except (State × Refuse) (State × Nat) → Prop
  | .error e => e.1.spine = s.spine
  | .ok e => e.1.spine = s.spine

theorem State.fillSlot_fills (f p : Nat) (r : Region) (g : Range) (a b i : Nat) : s.Fills (s.fillSlot f p r g a b i) := by
  unfold State.fillSlot
  dsimp only
  split
  · simp [State.Fills]
  · split
    · exact rfl
    next u hu =>
      have h := State.claimRange_spine hu
      split <;> simp [State.Fills, h]

variable {s} in
/-- A fill that goes on where another has ended. -/
theorem State.Fills.after {u : State} {e : Except (State × Refuse) (State × Nat)} (h : u.Fills e) (hu : u.spine = s.spine) (n : Nat) :
    s.Fills (e.map (fun (v, m) => (v, n + m))) := by
  cases e with
  | error _ => exact Eq.trans h hu
  | ok _ => exact Eq.trans h hu

theorem State.fillSpill_fills (f p a n : Nat) (g : Range) : s.Fills (s.fillSpill f p a n g) := by
  unfold State.fillSpill
  split
  · exact rfl
  · refine List.foldlRecOn (motive := s.Fills) _ _ rfl fun e he i _ => ?_
    match e, he with
    | .error _, he => exact he
    | .ok (u, m), he => exact (u.fillSlot_fills ..).after he m

@[simp] theorem State.writeSlab_spine (t : Nat) (m : Model) (c i : Nat) : (s.writeSlab t m c i).spine = s.spine := by
  unfold State.writeSlab
  split <;> simp

@[simp] theorem State.releasePin_spine (t f n c : Nat) : (s.releasePin t f n c).spine = s.spine := by
  rw [State.releasePin, State.modPart_spine]
  refine s.foldl_spine _ _ fun u i => ?_
  split <;> simp

@[simp] theorem State.testPinned_spine (t : Nat) (m : Model) (c b k : Nat) : (s.testPinned t m c b k).1.spine = s.spine := by
  unfold State.testPinned
  split
  · rfl
  next v _ =>
    extract_lets event
    have hevent (u : State) (v : Nat) : (event u v).spine = u.spine := u.raiseO_spine ..
    have hrewritten := ((event s v).rewriteFrom_spine t m c b k).trans (hevent s v)
    split
    next e => simpa [e] using hrewritten
    next e => simpa [e, hevent] using hrewritten

@[simp] theorem State.testPins_spine (t : Nat) (m : Model) (f n : Nat) : (s.testPins t m f n).1.spine = s.spine := by
  refine s.foldl_fst_spine _ _ _ fun u i => ?_
  split
  · rfl
  · refine List.foldlRecOn (motive := fun (a : State × Option (Nat × Nat)) => a.1.spine = u.1.spine) _ _ rfl fun a ha k _ => ?_
    split <;> simp [ha]

end

variable {K : Steady} {s : State}

/-! The steps. -/

@[simp] theorem State.readStep_steady (w : Work) (k d : Nat) (b : Bool) (h : K.holds s.spine) : K.holds (s.readStep w k d b).spine := by
  unfold State.readStep
  dsimp only
  (repeat' split) <;> simp [h]

@[simp] theorem State.writeStep_steady (w : Work) (k a n : Nat) (b : Bool) (h : K.holds s.spine) : K.holds (s.writeStep w k a n b).spine := by
  unfold State.writeStep
  dsimp only
  (repeat' split) <;> simp [h]

@[simp] theorem State.modelStep_steady (w : Work) (k : Nat) (d : List Byte) (a n : Nat) (b : Bool) (h : K.holds s.spine) :
    K.holds (s.modelStep w k d a n b).spine := by
  unfold State.modelStep
  (repeat' split) <;> simp [h]

@[simp] theorem State.fillStepRun_steady (w : Work) (k a n p : Nat) (b : Bool) (h : K.holds s.spine) :
    K.holds (s.fillStepRun w k a n p b).spine := by
  unfold State.fillStepRun
  extract_lets step r done
  have hdone (u : State) (m : Nat) (hu : u.spine = s.spine) : K.holds (done u m).spine := by
    unfold done
    dsimp only
    split <;> simp [hu, h]
  have hspill := s.fillSpill_fills (w.train + 1) p r.start r.len ⟨a, n⟩
  split
  · split
    next u m e => exact hdone u m (by simpa [e, State.Fills] using hspill)
    next u r e =>
      have hu : u.spine = s.spine := by simpa [e, State.Fills] using hspill
      simp [hu, h]
  · exact hdone _ _ (s.fillHbm_spine ..)

@[simp] theorem State.pinStep_steady (w : Work) (k m f n : Nat) (b : Bool) (h : K.holds s.spine) :
    K.holds (s.pinStep w k m f n b).spine := by
  unfold State.pinStep
  dsimp only
  split
  · simp [h]
  next x _ =>
    split
    · simp [h]
    · split
      · simp [h]
      · split
        next u e =>
          have hu : s.spine = u.spine := by simpa using congrArg (·.1.spine) e
          simp [← hu, h]
        next u core mac e =>
          have hu : s.spine = u.spine := by simpa using congrArg (·.1.spine) e
          simp [← hu, h]

@[simp] theorem State.poolStep_steady (w : Work) (k a n z : Nat) (b : Bool) (h : K.holds s.spine) :
    K.holds (s.poolStep w k a n z b).spine := by
  unfold State.poolStep
  dsimp only
  (repeat' split) <;> simp [h]

@[simp] theorem State.runStep_steady (w : Work) (e : Nat) (h : K.holds s.spine) : K.holds (s.runStep w e).spine := by
  unfold State.runStep
  dsimp only
  split <;> simp [h]

@[simp] theorem State.jobStep_steady (w : Work) (k e : Nat) (b : Bool) (h : K.holds s.spine) : K.holds (s.jobStep w k e b).spine := by
  unfold State.jobStep
  dsimp only
  (repeat' split) <;> simp [h]

@[simp] theorem State.prefillStep_steady (w : Work) (k q : Nat) (b : Bool) (h : K.holds s.spine) :
    K.holds (s.prefillStep w k q b).spine := by
  unfold State.prefillStep
  dsimp only
  split
  · simp [h]
  next p j q _ =>
    split
    · simp [h]
    next a ha =>
      have hs : a.s.spine = s.spine := (State.appendMany_supplies _ _ _ _ _ _ a ha).trans (s.addJournal_spine _ _)
      split
      · simp [hs, h]
      · split <;> simp [hs, h]

@[simp] theorem State.scoreStep_steady (w : Work) (k q e n : Nat) (h : K.holds s.spine) : K.holds (s.scoreStep w k q e n).spine := by
  unfold State.scoreStep
  dsimp only
  split
  · simp [h]
  next p j q _ =>
    split
    · simp [h]
    next a ha =>
      have hs : a.s.spine = s.spine := by simpa using State.appendOne_supplies _ _ _ _ a ha
      split <;> simp [hs, h]

@[simp] theorem State.decodeStep_steady (w : Work) (k q : Nat) (b : Bool) (h : K.holds s.spine) : K.holds (s.decodeStep w k q b).spine := by
  unfold State.decodeStep
  dsimp only
  (repeat' split) <;> simp [h]

@[simp] theorem State.execStep_steady (w : Work) (k : Nat) (b c : Bool) (h : K.holds s.spine) : K.holds (s.execStep w k b c).spine := by
  unfold State.execStep
  split <;> simp [h]

/-! `workComplete`. -/

/-- The piece has that work and step and is done. -/
def StepDone (p : Piece) (ps : List Piece) : Prop := ∀ q ∈ ps, q.work = p.work → q.step = p.step → q.done = true

theorem StepDone.shed {p : Piece} {qs ps : List Piece} (h : StepDone p qs) (hps : ∀ q ∈ ps, q ∈ qs ∨ q.done = true) : StepDone p ps :=
  fun q hq hw hs => (hps q hq).elim (fun hq => h q hq hw hs) id

/-- The set in which a step has been marked done. -/
theorem stepDone_map (p : Piece) (ps : List Piece) :
    StepDone p (ps.map (fun q => if q.work == p.work && q.step == p.step then { q with done := true } else q)) := by
  intro q hq hw hs
  obtain ⟨r, _, rfl⟩ := List.mem_map.1 hq
  by_cases hr : r.work == p.work && r.step == p.step
  · simp [hr]
  · simp only [hr] at hw hs
    simp_all

/-- Train `k` works, a step of its set is done, the clock is that of `s`. -/
def stepDoneAt (s : State) (k : Nat) (p : Piece) : Steady :=
  Steady.atTrain k (fun b => b.phase = .working ∧ StepDone p b.admitted) (fun c _ _ _ => c = s.clock)
    (fun _ _ hps h => ⟨h.1, h.2.shed hps⟩) (fun _ _ _ _ h => h)

theorem State.completePiece_stepDone {s : State} {k : Nat} {p : Piece} (cycles : Nat) (hk : k < s.trains.length)
    (hphase : (s.train k).phase = .working) (hp : (s.train k).admitted.find? (fun q => !q.done) = some p) :
    (stepDoneAt s k p).holds (s.completePiece k cycles).spine := by
  have hlen : k < s.spine.beats.length := by simpa [State.spine] using hk
  unfold State.completePiece
  extract_lets x
  split
  next h => simp [x, hp] at h
  next q h =>
    obtain rfl : p = q := Option.some.inj (hp.symm.trans h)
    extract_lets marked counted used
    have hmarked : (stepDoneAt s k p).holds marked.spine := by
      have e : marked.spine = s.spine.setBeat k ((s.train k).beat.admits _) := s.spine_setTrain k _
      rw [e]
      refine ⟨by simpa [Spine.setBeat] using hlen, ?_, rfl⟩
      rw [s.spine.beat_setBeat k _ hlen]
      exact ⟨hphase, stepDone_map p _⟩
    have hused : (stepDoneAt s k p).holds used.spine := by
      unfold used counted
      split <;> simpa using hmarked
    split
    · exact hused
    · split
      · exact hused
      · dsimp only
        (repeat' split) <;> simp [hused]

theorem execWorkComplete_inWindow {s : State} {k : Nat} (cycles : Nat) (h : (s.train k).phase = .working ∧ s.powered = true
    ∧ (s.train k).start + 50 ≤ s.clock.timebase ∧ s.clock.timebase ≤ (s.train k).admissionPoint) :
    exec (.workComplete k cycles) s = .next (s.completePiece k cycles) := by
  change execWorkComplete k cycles s = _
  unfold execWorkComplete
  dsimp only
  rw [if_pos h]

/-- Settles O39: the step is marked done first, and what its execution does to works afterwards takes no such mark back. -/
theorem workCompletesInOrder : Obligations.WorkCompletesInOrder := by
  intro s k cycles p hwf hk hp hphase hstart hend hfind
  obtain ⟨_, hbeat, hclock⟩ := s.completePiece_stepDone cycles (by rw [s.wf_trains hwf]; exact hk) hphase hfind
  rw [State.spine_beat] at hbeat
  exact ⟨_, execWorkComplete_inWindow cycles ⟨hphase, hp, hstart, hend⟩, hclock, hbeat.1, hbeat.2⟩

end Sys2Proof.Machine
end

section
/-! PROOFS. Issue and the start of a Breath: what the commands of an admitted set do at issue leaves number, place and phase of the
Breath that has begun (R45, R49, R52, R158, R161). -/

namespace Sys2Proof.Machine

variable {K : Steady} {s : State}

/-! Commands of the Waits behaviour. -/

@[simp] theorem State.startEject_steady (w : Work) (b : Nat) (h : K.holds s.spine) : K.holds (s.startEject w b).spine := by
  unfold State.startEject
  split <;> simp [h]

theorem Steady.Loose.modBank (hl : K.Loose) (i : Nat) (g : Bank → Bank) (h : K.holds s.spine) : K.holds (s.modBank i g).spine :=
  hl s.spine s.presence _ h

theorem Steady.Loose.modPresence (hl : K.Loose) (g : Presence → Presence) (h : K.holds s.spine) : K.holds (s.modPresence g).spine :=
  hl s.spine _ s.dev.banks h

theorem State.startFirmware_steady (hl : K.Loose) (w : Work) (b : Nat) (h : K.holds s.spine) : K.holds (s.startFirmware w b).spine := by
  unfold State.startFirmware
  dsimp only
  split
  · simp [h]
  · simpa using hl.modBank b _ h

@[simp] theorem State.startOwnerKey_steady (w : Work) (h : K.holds s.spine) : K.holds (s.startOwnerKey w).spine := by
  unfold State.startOwnerKey
  dsimp only
  split <;> simp [h]

@[simp] theorem State.startRestore_steady (w : Work) (r f : Nat) (h : K.holds s.spine) : K.holds (s.startRestore w r f).spine := by
  unfold State.startRestore
  dsimp only
  split <;> simp [h]

@[simp] theorem State.startRetire_steady (w : Work) (b : Nat) (h : K.holds s.spine) : K.holds (s.startRetire w b).spine := by
  unfold State.startRetire
  split
  · simp [h]
  · extract_lets gap d rs keep room
    have hgap : gap.spine = s.spine := by simp [gap]
    split
    next v u e =>
      have hu : u.spine = s.spine := by
        (repeat' split at e) <;> (cases e; simp [hgap])
      dsimp only
      split <;> simp [hu, h]

@[simp] theorem State.startShadow_steady (w : Work) (f r : Nat) (h : K.holds s.spine) : K.holds (s.startShadow w f r).spine := by
  unfold State.startShadow
  dsimp only
  split <;> simp [h]

@[simp] theorem State.startStop_steady (w : Work) (b : Nat) (h : K.holds s.spine) : K.holds (s.startStop w b).spine := by
  unfold State.startStop
  dsimp only
  (repeat' split) <;> simp [h]

theorem State.startWaits_steady (hl : K.Loose) (w : Work) (h : K.holds s.spine) : K.holds (s.startWaits w).spine := by
  unfold State.startWaits
  extract_lets outside
  have hout (u : State) : (outside u).spine = u.spine := u.modWork_spine ..
  split
  case h_8 => exact State.startFirmware_steady hl _ _ h
  case h_11 =>
    split
    · simp [h]
    · have e : K.holds (outside s).spine := by rwa [hout]
      refine (congrArg K.holds ?_).mpr e
      exact State.spine_congr rfl rfl rfl rfl rfl
  all_goals simp [h, hout]

/-! Commands of the Zero behaviour. -/

@[simp] theorem State.execZero_steady (w : Work) (h : K.holds s.spine) : K.holds (s.execZero w).spine := by
  unfold State.execZero
  dsimp only
  (repeat' split) <;> simp [h]

theorem State.startSealClear_steady (hl : K.Loose) (w : Work) (h : K.holds s.spine) : K.holds (s.startSealClear w).spine := by
  unfold State.startSealClear
  split
  · simpa using hl.modPresence _ h
  · dsimp only
    split <;> simpa using hl.modPresence _ h

theorem State.startZero_steady (hl : K.Loose) (w : Work) (h : K.holds s.spine) : K.holds (s.startZero w).spine := by
  unfold State.startZero
  split
  · simpa using h
  · exact s.startSealClear_steady hl w h
  · exact s.execZero_steady w h

/-! Issue. -/

@[simp] theorem State.takeSlots_steady (w : Work) (h : K.holds s.spine) : K.holds (s.takeSlots w).spine := by
  unfold State.takeSlots
  dsimp only
  (repeat' split) <;> simp [h]

@[simp] theorem State.fixSteps_steady (w : Work) (h : K.holds s.spine) : K.holds (s.fixSteps w).spine := by
  unfold State.fixSteps
  extract_lets set
  have hset (u : State) (n : Nat) (hu : K.holds u.spine) : K.holds (set u n).spine := by
    rw [show (set u n).spine = _ from State.modWork_spine ..]
    exact Steady.modTrain _ (fun _ => rfl) (fun _ _ hp => .inl (List.mem_of_mem_filter hp)) hu
  (repeat' split) <;> simp [h, hset]

theorem State.issueWork_steady (hl : K.Loose) (t id : Nat) (h : K.holds s.spine) : K.holds (s.issueWork t id).spine := by
  unfold State.issueWork
  split
  · exact h
  · split
    · exact h
    · extract_lets failed taken
      have htaken : K.holds taken.spine := by
        unfold taken failed
        (repeat' split) <;> simp [h]
      split
      · exact htaken
      next v _ =>
        split
        · exact htaken
        · split
          · exact taken.startZero_steady hl v htaken
          · exact taken.startWaits_steady hl v htaken
          · dsimp only
            (repeat' split) <;> simp [htaken]

@[simp] theorem State.markIssued_steady (t : Nat) (h : K.holds s.spine) : K.holds (s.markIssued t).spine := by
  refine Steady.modTrain t (fun _ => rfl) (fun x p hp => ?_) h
  obtain ⟨q, hq, rfl⟩ := List.mem_map.1 hp
  split
  · split
    · exact .inr rfl
    · exact .inl hq
  · exact .inr rfl

theorem State.issueAll_steady (hl : K.Loose) (t : Nat) (h : K.holds s.spine) : K.holds (s.issueAll t).spine :=
  State.markIssued_steady t (Steady.foldl (fun u id hu => u.issueWork_steady hl t id hu) _ h)

/-! The start of a Breath. -/

/-- Number, next number, place and phase of a Breath. -/
structure Header where
  breath : Nat
  next : Nat
  phase : Phase
  start : Nat
  startTime : Nat

def Beat.header (b : Beat) : Header := ⟨b.breath, b.next, b.phase, b.start, b.startTime⟩

/-- Train `k` of a standalone card has that header. -/
def startedAt (k : Nat) (y : Header) : Steady :=
  Steady.atTrain k (fun b => b.header = y) (fun _ _ _ m => m = false) (fun _ _ _ h => h) (fun _ _ _ _ _ => rfl)

theorem startedAt_loose (k : Nat) (y : Header) : (startedAt k y).Loose := fun _ _ _ h => h

/-- A train changed in anything but its header. -/
theorem startedAt_modTrain {k : Nat} {y : Header} {g : Train → Train} (hg : ∀ x, (g x).beat.header = x.beat.header)
    (h : (startedAt k y).holds s.spine) : (startedAt k y).holds (s.modTrain k g).spine := by
  obtain ⟨hlen, hbeat, hmember⟩ := h
  rw [State.modTrain, s.spine_setTrain]
  refine ⟨by simpa [Spine.setBeat] using hlen, ?_, hmember⟩
  rw [s.spine.beat_setBeat k _ hlen]
  exact (hg _).trans (s.spine_beat k ▸ hbeat)

theorem State.rollback_started {k : Nat} {y : Header} (h : (startedAt k y).holds s.spine) : (startedAt k y).holds (s.rollback k).spine := by
  unfold State.rollback
  extract_lets x v memory hist ranges host own admin inSet back objects restored shares
  have hadmin : (startedAt k y).holds admin.spine := by
    have e : admin.spine = s.spine := (State.spine_congr rfl rfl rfl rfl rfl : admin.spine = memory.spine).trans (s.restoreHbm_spine ..)
    rwa [e]
  have hshares : (startedAt k y).holds shares.spine := by
    rw [show shares.spine = restored.spine from restored.foldl_spine _ _ fun u a => by simp]
    exact startedAt_modTrain (fun _ => rfl) hadmin
  simpa using hshares

theorem State.begin_started {k : Nat} (hk : k < s.trains.length) (hm : s.consort.member = false) :
    (startedAt k ⟨(s.train k).next, ((s.train k).next + 1) % 2 ^ 48, .working,
      s.clock.timebase - s.clock.timebase % periodUnits (s.train k).n5Due, s.clock.time⟩).holds (s.begin k).spine := by
  generalize hy : Header.mk _ _ _ _ _ = y
  unfold State.begin
  extract_lets x x' n5 begun closed rolled repairs repaired admits now saves counts notes
  have hbegun : (startedAt k y).holds begun.spine := by
    have hlen : k < s.spine.beats.length := by simpa [State.spine] using hk
    rw [show begun.spine = _ from s.spine_setTrain k _]
    refine ⟨by simpa [Spine.setBeat] using hlen, ?_, hm⟩
    rw [s.spine.beat_setBeat k _ hlen]
    exact hy
  split_ifs
  · refine startedAt_modTrain (fun _ => rfl) ?_
    unfold closed
    split
    · exact State.rollback_started hbegun
    · exact hbegun
  · refine State.issueAll_steady (startedAt_loose k y) k ?_
    have hrolled : (startedAt k y).holds rolled.spine := by
      unfold rolled
      split
      · simpa using hbegun
      · exact State.rollback_started hbegun
    have hrepaired : (startedAt k y).holds repaired.spine := by
      rw [show repaired.spine = _ from State.foldl_spine _ _ _ fun u a => by simp]
      exact startedAt_modTrain (fun _ => rfl) hrolled
    simpa using hrepaired
  · refine State.issueAll_steady (startedAt_loose k y) k ?_
    have hsaves : (startedAt k y).holds saves.spine := startedAt_modTrain (fun _ => rfl) (startedAt_modTrain (fun _ => rfl) hbegun)
    have hnotes : notes.spine = saves.spine := by
      unfold notes counts
      (repeat' split) <;> simp
    simpa [hnotes] using hsaves

/-! The start of the administrative Breath. -/

theorem State.applyTime_started {k : Nat} {y : Header} (w : Work) (n : Nat) (h : (startedAt k y).holds s.spine) :
    (startedAt k y).holds (s.applyTime w n).spine := by
  unfold State.applyTime
  dsimp only
  split_ifs
  · rw [State.modWork_spine]; exact h
  · rw [State.modWork_spine]; exact h
  · simp [h]

theorem State.applyTimes_started {k : Nat} {y : Header} (n : Nat) (h : (startedAt k y).holds s.spine) :
    (startedAt k y).holds (s.applyTimes n).spine := by
  refine Steady.foldl (fun u w hu => ?_) _ h
  split
  · split
    · exact State.applyTime_started _ _ hu
    · exact hu
  · exact hu

theorem State.beginAdmin_started {y : Header} (h : (startedAt adminTrain y).holds (s.begin adminTrain).spine) :
    (startedAt adminTrain y).holds s.beginAdmin.spine := by
  unfold State.beginAdmin
  extract_lets leave stop n begun x notice
  have hbegun : (startedAt adminTrain y).holds begun.spine := State.applyTimes_started _ h
  have hnotice : (startedAt adminTrain y).holds notice.spine := by
    unfold notice
    dsimp only
    (repeat' split) <;> simp [hbegun]
  have hm : notice.consort.member = false := hnotice.2.2
  rw [if_neg (by simp [hm])]
  exact hnotice

/-! `breathStart`. -/

theorem State.timebase_onGrid_of_mayBegin {k : Nat} (hm : s.consort.member = false) (h : s.mayBegin k = true) :
    s.clock.timebase % (500 * (s.train k).n5Due) = 0 := by
  simp only [State.mayBegin, hm, Bool.and_eq_true, Bool.or_eq_true, Bool.false_and, or_false, Bool.false_eq_true, onGrid, periodUnits,
    beq_iff_eq] at h
  obtain ⟨⟨⟨_, hgrid⟩, _⟩, _⟩ := h
  exact hgrid

theorem State.execBreathStart_started {k : Nat} {y : Header} (hmay : s.mayBegin k = true) (h : (startedAt k y).holds (s.begin k).spine) :
    ∃ t, exec (.breathStart k) s = .next t ∧ (startedAt k y).holds t.spine := by
  by_cases hk : k = adminTrain
  · subst hk
    exact ⟨s.beginAdmin, by simp [exec, execBreathStart, hmay], State.beginAdmin_started h⟩
  · exact ⟨s.begin k, by simp [exec, execBreathStart, hmay, hk], h⟩

/-- Settles O37: off the grid nothing may begin; a Breath that begins takes its header first, and the issue of its set keeps that. -/
theorem breathStartsOnTheGrid : Obligations.BreathStartsOnTheGrid := by
  intro s k hwf hk hm
  have hl : k < s.trains.length := by rw [s.wf_trains hwf]; exact hk
  refine ⟨fun hgrid => ?_, fun hmay => ?_⟩
  · have hno : s.mayBegin k = false := Bool.eq_false_iff.2 fun h => hgrid (State.timebase_onGrid_of_mayBegin hm h)
    simp [exec, execBreathStart, hno]
  · have hgrid : s.clock.timebase % periodUnits (s.train k).n5Due = 0 := State.timebase_onGrid_of_mayBegin hm hmay
    have hbegun := State.begin_started hl hm
    rw [hgrid, Nat.sub_zero] at hbegun
    obtain ⟨u, hexec, _, hheader, _⟩ := State.execBreathStart_started hmay hbegun
    rw [State.spine_beat] at hheader
    obtain ⟨hbreath, hnext, hphase, hstart, htime⟩ := Header.mk.inj hheader
    exact ⟨u, hexec, hbreath, hnext, hphase, hstart, htime⟩

end Sys2Proof.Machine
end

section
/-! PROOFS. The seal decision (R53, R535, R544, R547): what the verdict writes into its train stands through everything that follows it,
the commits, the stops and the packets that are checked then. -/

namespace Sys2Proof.Machine

variable {K : Steady} {s : State}

/-! Commits and ends at a passed seal. -/

theorem State.commitWork_steady (hl : K.Loose) (w : Work) (h : K.holds s.spine) : K.holds (s.commitWork w).spine := by
  unfold State.commitWork
  extract_lets t take detail
  have htake (u : State) (n : Nat) (g : Objects → Objects) : (take u n g).spine = u.spine := u.modObjects_spine ..
  have hdetail (u : State) (d : List Byte) : (detail u d).spine = u.spine := u.modWork_spine ..
  split
  case h_14 =>
    rw [hdetail]
    exact hl s.spine _ s.dev.banks h
  all_goals (repeat' split) <;> simp [htake, hdetail, h]

theorem State.commitAny_steady (hl : K.Loose) (w : Work) (h : K.holds s.spine) : K.holds (s.commitAny w).spine := by
  unfold State.commitAny
  split
  · simpa using h
  · unfold State.commit
    split
    · simpa using h
    · simpa using s.commitWork_steady hl w h
    · simpa using h
    · exact s.commitWork_steady hl w h

@[simp] theorem State.endWorks_steady (t : Nat) (ws : List Work) (r : Refuse) (h : K.holds s.spine) : K.holds (s.endWorks t ws r).spine := by
  unfold State.endWorks
  refine Steady.foldl (fun u w hu => ?_) ws ?_
  case refine_2 => rwa [State.foldl_spine _ _ _ fun u w => u.undoFinished_spine t w]
  extract_lets dropped restarted
  have hdropped : dropped.spine = u.spine := by
    unfold dropped
    split <;> simp
  have hrestarted : restarted.spine = u.spine := by
    unfold restarted
    split <;> simp [hdropped]
  simp [hrestarted, hu]

theorem State.endRegionWorks_steady (f q r k : Nat) (h : K.holds s.spine) : K.holds (s.endRegionWorks f q r k).1.spine :=
  List.foldlRecOn (motive := fun (a : State × Nat) => K.holds a.1.spine) _ _ h fun _ ha _ _ => State.endWorks_steady _ _ _ ha

@[simp] theorem State.forceDeregister_steady (t : Nat) (h : K.holds s.spine) : K.holds (s.forceDeregister t).spine := by
  refine Steady.foldl (fun u w hu => ?_) _ h
  split
  · split
    · simp [hu]
    · simpa using u.endRegionWorks_steady _ _ _ _ hu
  · exact hu

@[simp] theorem State.freezeAt_steady (t b : Nat) (h : K.holds s.spine) : K.holds (s.freezeAt t b).spine := by
  unfold State.freezeAt
  dsimp only
  (repeat' split) <;> simp [h]

/-! Packets checked. -/

@[simp] theorem State.accepted_steady (w : Work) (h : K.holds s.spine) : K.holds (s.accepted w).spine := by
  unfold State.accepted
  split
  · simpa using h
  · simpa using h
  · simpa using h
  · exact K.leaves _ h
  · exact h

@[simp] theorem State.acceptPacket_steady (p : Packet) (i : OpInfo) (c : Command) (t o : Nat) (h : K.holds s.spine) :
    K.holds (s.acceptPacket p i c t o).spine := by
  unfold State.acceptPacket
  extract_lets aud record
  split
  next res u e =>
    have hu : u.spine = s.spine := by
      split at e
      · simpa using congrArg (·.2.spine) e.symm
      · cases e; rfl
    dsimp only
    (repeat' split) <;> simp [hu, h]

theorem State.presenceRecord_steady (hl : K.Loose) (k : Nat) (r : List Byte) (h : K.holds s.spine) : K.holds (s.presenceRecord k r).spine := by
  unfold State.presenceRecord
  have ho := s.once_spine 0xB5 k
  split
  next first u e =>
    rw [e] at ho
    have hu : K.holds u.spine := by rwa [show u.spine = s.spine from ho]
    dsimp only
    split
    · simpa using hu
    · rw [State.saturated_spine]
      exact hl u.spine _ u.dev.banks hu

theorem State.checkPacket_steady (hl : K.Loose) (p : Packet) (e : Bool) (h : K.holds s.spine) : K.holds (s.checkPacket p e).spine := by
  unfold State.checkPacket
  extract_lets o t counted consume
  have hcounted : counted.spine = s.spine := by simp [counted]
  have hconsume (u : State) : (consume u).spine = u.spine := u.modRing_spine ..
  split
  · extract_lets consumed recorded
    have hconsumed : K.holds consumed.spine := by
      unfold consumed
      split <;> simp [hconsume, hcounted, h]
    have hrecorded : K.holds recorded.spine := by
      unfold recorded
      split
      · exact State.presenceRecord_steady hl _ _ hconsumed
      · exact hconsumed
    simpa using hrecorded
  · simp [hconsume, hcounted, h]

theorem State.drainRing_steady (hl : K.Loose) (n f : Nat) (b : Bool) (h : K.holds s.spine) : K.holds (State.drainRing n s f b).spine := by
  induction n generalizing s with
  | zero => exact h
  | succ n ih =>
    unfold State.drainRing
    dsimp only
    split
    · exact ih (State.checkPacket_steady hl _ _ (by simpa using h))
    · exact h

theorem State.checkRings_steady (hl : K.Loose) (h : K.holds s.spine) : K.holds s.checkRings.spine :=
  Steady.foldl (fun _ f hu => State.drainRing_steady hl _ f true (State.drainRing_steady hl _ f false hu)) _ h

/-! The decided train. -/

/-- The seal of train `x` has been decided by its causes alone: what SEAL_STATUS shows, the count of failures, the re-run. -/
def DecidedBy (x : Train) (b : Beat) : Prop :=
  b.sealStatus.breath = x.breath ∧ b.sealStatus.failed = decide (x.causes ≠ 0) ∧ b.sealStatus.causes = x.causes
    ∧ b.failures = (if x.causes = 0 then 0 else x.failures + 1) ∧ (x.causes ≠ 0 → b.rerun = true)

/-- The seal of train `k`, as it was in `s`, has been decided on a standalone card, at the clock of `s`. -/
def decidedAt (s : State) (k : Nat) : Steady :=
  Steady.atTrain k (DecidedBy (s.train k)) (fun c _ _ m => c = s.clock ∧ m = false) (fun _ _ _ h => h) (fun _ _ _ _ h => ⟨h.1, rfl⟩)

theorem decidedAt_loose (s : State) (k : Nat) : (decidedAt s k).Loose := fun _ _ _ h => h

/-- What a decision writes. -/
def Beat.decision (b : Beat) : SealStatus × Nat × Bool := (b.sealStatus, b.failures, b.rerun)

theorem DecidedBy.congr {x : Train} {a b : Beat} (h : DecidedBy x a) (e : b.decision = a.decision) : DecidedBy x b := by
  obtain ⟨hstatus, hfailures, hrerun⟩ : b.sealStatus = a.sealStatus ∧ b.failures = a.failures ∧ b.rerun = a.rerun := by
    simpa [Beat.decision] using e
  rwa [DecidedBy, hstatus, hfailures, hrerun]

/-- A train changed in anything but its decision. -/
theorem decidedAt_modTrain {u : State} {k j : Nat} {g : Train → Train} (hg : ∀ x, (g x).beat.decision = x.beat.decision)
    (h : (decidedAt s k).holds u.spine) : (decidedAt s k).holds (u.modTrain j g).spine := by
  obtain ⟨hlen, hbeat, hrest⟩ := h
  rw [State.modTrain, u.spine_setTrain]
  refine ⟨by simpa [Spine.setBeat] using hlen, ?_, hrest⟩
  by_cases hj : k = j
  · subst hj
    rw [u.spine.beat_setBeat k _ hlen]
    exact (u.spine_beat k ▸ hbeat).congr (hg _)
  · rw [u.spine.beat_setBeat_other _ hj]
    exact hbeat

/-- A beat set to one that is decided. -/
theorem decidedAt_setBeat {k : Nat} {b : Beat} (hk : k < s.trains.length) (hm : s.consort.member = false) (hb : DecidedBy (s.train k) b) :
    (decidedAt s k).holds (s.spine.setBeat k b) := by
  have hlen : k < s.spine.beats.length := by simpa [State.spine] using hk
  exact ⟨by simpa [Spine.setBeat] using hlen, by rwa [s.spine.beat_setBeat k _ hlen], rfl, hm⟩

theorem SameReplies.decided {u v : State} {k : Nat} (h : SameReplies u v) (hu : (decidedAt s k).holds u.spine) :
    (decidedAt s k).holds v.spine := by
  have e : v.spine = { u.spine with presence := v.presence, banks := v.dev.banks } := by
    simp only [State.spine, h.trains, h.clock, h.consort]
  rw [e]
  exact hu

/-! A passed and a failed seal. -/

/-- A train set and then shown in SEAL_STATUS. -/
theorem State.setTrain_noteSeal_spine {k : Nat} (hk : k < s.trains.length) (x : Train) (f : Bool) :
    ((s.setTrain k x).noteSeal k f).spine = s.spine.setBeat k (x.sealed (s.consort.member && decide (k < 16)) f).beat := by
  rw [show ((s.setTrain k x).noteSeal k f).spine = _ from State.spine_setTrain _ k _, s.train_setTrain k x hk, s.spine_setTrain]
  simp only [Spine.setBeat, List.set_set]
  rfl

theorem State.passSeal_decided {k : Nat} (hk : k < s.trains.length) (hm : s.consort.member = false) (hc : (s.train k).causes = 0) :
    (decidedAt s k).holds (s.passSeal k).spine := by
  unfold State.passSeal
  extract_lets passed worked ended finished committed frozen struck decided aborted
  have hpassed : (decidedAt s k).holds passed.spine := by
    rw [show passed.spine = _ from s.setTrain_noteSeal_spine hk _ false]
    refine decidedAt_setBeat hk hm ⟨rfl, ?_, rfl, ?_, fun h => absurd hc h⟩
    · simp [Train.sealed, Train.beat, hc]
    · rw [if_pos hc]; rfl
  have hfinished : (decidedAt s k).holds finished.spine := by simp [finished, ended, worked, hpassed]
  have hcommitted : (decidedAt s k).holds committed.spine :=
    Steady.foldl (fun u w hu => u.commitAny_steady (decidedAt_loose s k) w hu) _ hfinished
  have hdecided : (decidedAt s k).holds decided.spine := by
    rw [show decided.spine = _ from State.releaseFinished_spine ..]
    exact decidedAt_modTrain (fun _ => rfl) (by simp [frozen, hcommitted])
  have haborted : aborted.spine = decided.spine := by
    unfold aborted
    split <;> simp
  simpa [haborted] using hdecided

theorem State.failSeal_decided {k : Nat} (hk : k < s.trains.length) (hm : s.consort.member = false) (hc : (s.train k).causes ≠ 0) :
    (decidedAt s k).holds (s.failSeal k).spine := by
  refine (s.failSeal_sameReplies k).decided ?_
  rw [s.setTrain_noteSeal_spine hk]
  refine decidedAt_setBeat hk hm ⟨rfl, ?_, rfl, ?_, fun _ => rfl⟩
  · simp [Train.sealed, Train.beat, hc]
  · rw [if_neg hc]; rfl

/-! What follows the decision. -/

theorem State.settle_decided {u : State} {k : Nat} (j : Nat) (h : (decidedAt s k).holds u.spine) :
    (decidedAt s k).holds (u.settle j).spine := by
  unfold State.settle
  extract_lets x stop
  have hstop (y : Halt) : (decidedAt s k).holds (stop y).spine := by
    rw [show (stop y).spine = _ from State.noteRestart_spine _]
    exact decidedAt_modTrain (fun _ => rfl) h
  (repeat' split) <;> simp [h, hstop]

theorem State.enterHalted_decided {u : State} {k : Nat} (h : (decidedAt s k).holds u.spine) :
    (decidedAt s k).holds u.enterHalted.spine := by
  unfold State.enterHalted
  dsimp only
  split
  · refine Steady.foldl (fun v j hv => ?_) _ (by simpa using h)
    exact decidedAt_modTrain (fun _ => rfl) hv
  · exact h

/-- A card that is no member does not leave. -/
theorem State.tryLeave_standalone {u : State} (h : u.consort.member = false) : u.tryLeave = u := by
  unfold State.tryLeave
  exact if_neg (by simp [h])

theorem State.actSeal_decided {k : Nat} (hk : k < s.trains.length) (hm : s.consort.member = false) (hclosing : (s.train k).closing = false) :
    (decidedAt s k).holds (s.actSeal k (decide ((s.train k).causes = 0)) 0).spine := by
  unfold State.actSeal
  extract_lets latched cleared decided
  have hlatched : latched.train k = s.train k := by
    rw [s.train_modTrain k _ hk, show Nat.lor (s.train k).causes 0 = (s.train k).causes from Nat.or_zero _]
  have hcleared : cleared.train k = s.train k := hlatched
  have hlen : k < cleared.trains.length := by simpa [cleared, latched, State.modConsort] using hk
  have hsame : decidedAt cleared k = decidedAt s k := by rw [decidedAt, hcleared]; rfl
  have hdecided : (decidedAt s k).holds decided.spine := by
    unfold decided
    rw [if_neg (by simp [hcleared, hclosing]), ← hsame]
    split
    next h => exact State.passSeal_decided hlen hm (by simpa [hcleared] using h)
    next h => exact State.failSeal_decided hlen hm (by simpa [hcleared] using h)
  have hhalted : (decidedAt s k).holds (decided.settle k).enterHalted.spine := State.enterHalted_decided (State.settle_decided k hdecided)
  rw [State.tryLeave_standalone hhalted.2.2.2]
  exact State.checkRings_steady (decidedAt_loose s k) hhalted

/-! `sealDecision`. -/

theorem State.evalMonitors_of_none {k : Nat} (h : (s.train k).objects.monitors = []) :
    s.evalMonitors k = s.setTrain k { s.train k with objects := { (s.train k).objects with monitors := [] } } := by
  simp only [State.evalMonitors, h, List.filter_nil, List.foldl_nil, State.modObjects, State.modTrain, List.map_nil]

theorem State.lt_of_mem_activeTrains {k : Nat} (h : k ∈ s.activeTrains) : k < 17 := by
  rcases List.mem_append.1 h with h | h
  · have hrange := List.mem_range.1 (List.mem_of_mem_filter h)
    omega
  · rw [List.mem_singleton.1 h]
    decide

theorem execSealDecision_standalone {k : Nat} (hp : s.powered = true) (hk : k ∈ s.activeTrains) (hm : (s.evalMonitors k).consort.member = false)
    (hphase : (s.train k).phase = .sealing) (hclosing : (s.train k).closing = false)
    (hfrom : (s.train k).start + periodUnits (s.train k).n5 - 200 ≤ s.clock.timebase)
    (hto : s.clock.timebase ≤ (s.train k).start + periodUnits (s.train k).n5 - 50) :
    exec (.sealDecision k) s = .next ((s.evalMonitors k).actSeal k (decide (((s.evalMonitors k).train k).causes = 0)) 0) := by
  change execSealDecision k s = _
  unfold execSealDecision
  dsimp only
  have hwindow : ¬((s.train k).phase ≠ .sealing ∨ s.clock.timebase < (s.train k).start + periodUnits (s.train k).n5 - 200
      ∨ (s.train k).start + periodUnits (s.train k).n5 - 50 < s.clock.timebase) := by
    rintro (h | h | h)
    · exact h hphase
    · omega
    · omega
  rw [if_neg (by simp [hp, hk]), if_neg (by simp [hphase]), if_neg hwindow]
  simp only [hclosing, Bool.false_eq_true, if_false]
  rw [if_pos (by simp [hm])]

/-- Settles O40: with no monitor to evaluate, the latched causes decide, and what they write outlives all that the seal sets off. -/
theorem sealDecidedByCauses : Obligations.SealDecidedByCauses := by
  intro s k hwf hp hk hm hphase hclosing hmonitors _ hfrom hto
  have hl : k < s.trains.length := by rw [s.wf_trains hwf]; exact State.lt_of_mem_activeTrains hk
  have he := State.evalMonitors_of_none hmonitors
  have htrain : (s.evalMonitors k).train k = { s.train k with objects := { (s.train k).objects with monitors := [] } } := by
    rw [he, s.train_setTrain k _ hl]
  have hlen : k < (s.evalMonitors k).trains.length := by rw [he]; simpa [State.setTrain] using hl
  have hmember : (s.evalMonitors k).consort.member = false := by rw [he]; exact hm
  have hsame : decidedAt (s.evalMonitors k) k = decidedAt s k := by
    rw [decidedAt, htrain, he]
    rfl
  have hdecided := State.actSeal_decided hlen hmember (by rw [htrain]; exact hclosing)
  rw [hsame] at hdecided
  have hexec := execSealDecision_standalone hp hk hmember hphase hclosing hfrom hto
  generalize State.actSeal _ _ _ _ = u at hexec hdecided
  obtain ⟨_, hbeat, hclock, _⟩ := hdecided
  rw [State.spine_beat] at hbeat
  obtain ⟨hbreath, hfailed, hcauses, hfailures, hrerun⟩ := hbeat
  exact ⟨u, hexec, hbreath, hfailed, hfailures, fun h => ⟨hrerun h, hcauses⟩, hclock⟩

end Sys2Proof.Machine
end

section
/-! PROOFS. The reset of a function (R91, R113, R357, R709, Table 21.5): a fold over the members of a group changes each member's own
partition and function once. -/

namespace Sys2Proof.Machine

/-! Folds over numbered parts of the state. -/

/-- A fold of steps that each change the part of their own number alone: what the parts hold afterwards. -/
theorem foldl_read {α : Type} {f : State → Nat → State} {read : State → Nat → α} {g : Nat → α → α} {ok : State → Prop}
    {xs : List Nat} (hn : xs.Nodup) (hok : ∀ u, ∀ p ∈ xs, ok u → ok (f u p))
    (hself : ∀ u, ∀ p ∈ xs, ok u → read (f u p) p = g p (read u p)) (hother : ∀ u p q, q ≠ p → read (f u p) q = read u q)
    {s : State} (h : ok s) (q : Nat) : read (xs.foldl f s) q = if q ∈ xs then g q (read s q) else read s q := by
  induction xs generalizing s with
  | nil => simp
  | cons p xs ih =>
    obtain ⟨hp, hn⟩ := List.nodup_cons.1 hn
    rw [List.foldl_cons, ih hn (fun u x hx => hok u x (List.mem_cons_of_mem p hx)) (fun u x hx => hself u x (List.mem_cons_of_mem p hx))
      (hok s p List.mem_cons_self h)]
    by_cases hq : q = p
    · subst hq
      simp [hp, hself s q List.mem_cons_self h]
    · simp [hq, hother s p q hq]

variable (s : State)

theorem State.mem_members {t q : Nat} (h : t < 16) : q ∈ s.members t ↔ t ≤ q ∧ q < t + (s.part t).size := by
  simp only [State.members, h, if_true, List.mem_map, List.mem_range]
  constructor
  · rintro ⟨a, ha, rfl⟩; omega
  · exact fun ⟨hle, hlt⟩ => ⟨q - t, by omega, by omega⟩

theorem State.nodup_members (t : Nat) : (s.members t).Nodup := by
  unfold State.members
  split
  · exact List.nodup_range.map fun a b h => Nat.add_right_cancel h
  · exact List.nodup_nil

variable {s} in
theorem State.wf_fns (h : s.wf = true) : s.fns.length = 17 := by
  simp only [State.wf, Bool.and_eq_true, decide_eq_true_eq] at h
  exact h.1.1.1.1.1.1.1

/-- Two changes of one function are one. -/
theorem State.modFn_modFn {i : Nat} (h : i < s.fns.length) (f g : Function → Function) :
    (s.modFn i f).modFn i g = s.modFn i (fun x => g (f x)) := by
  rw [State.modFn, s.fn_modFn i f h]
  simp [State.modFn, State.setFn]

/-! The Stop banks that a STOP_PIN was changing (R357). -/

/-- `u` is `s` but for what cores hold. -/
structure OnlyCores (s u : State) : Prop where
  rest : u = { s with parts := u.parts }
  length : u.parts.length = s.parts.length
  part : ∀ p, u.part p = { s.part p with cores := (u.part p).cores }

theorem OnlyCores.refl : OnlyCores s s := ⟨rfl, rfl, fun _ => rfl⟩

variable {s} in
theorem OnlyCores.trans {u v : State} (h : OnlyCores s u) (k : OnlyCores u v) : OnlyCores s v :=
  ⟨by rw [k.rest, h.rest], k.length.trans h.length, fun p => by rw [k.part p, h.part p]⟩

section
variable {s} {u : State} (h : OnlyCores s u) (p : Nat)
include h
theorem OnlyCores.size : (u.part p).size = (s.part p).size := by rw [h.part p]
theorem OnlyCores.share : (u.part p).share = (s.part p).share := by rw [h.part p]
theorem OnlyCores.hbm : (u.part p).hbm = (s.part p).hbm := by rw [h.part p]
theorem OnlyCores.sealFails : (u.part p).sealFails = (s.part p).sealFails := by rw [h.part p]
end

theorem State.part_modPart_any (i : Nat) (g : Part → Part) (p : Nat) :
    (s.modPart i g).part p = s.part p ∨ p = i ∧ (s.modPart i g).part p = g (s.part p) := by
  by_cases h : p = i
  · subst h
    by_cases hl : p < s.parts.length
    · exact .inr ⟨rfl, s.part_modPart p g hl⟩
    · exact .inl (by simp [State.part, State.modPart, State.setPart, List.getD_eq_getElem?_getD, Nat.le_of_not_lt hl])
  · exact .inl (s.part_modPart_other i p g h)

theorem State.modCore_onlyCores (c : Nat) (g : Core → Core) : OnlyCores s (s.modCore c g) := by
  refine ⟨rfl, List.length_set .., fun p => ?_⟩
  unfold State.modCore
  rcases s.part_modPart_any (c / 16) _ p with h | ⟨_, h⟩ <;> rw [h]

/-- What one work leaves of the Stop banks when its group is reset: those that a STOP_PIN was changing are emptied. -/
def State.clearPin (s : State) (t : Nat) (w : Work) : State :=
  match w.cmd with
  | .stopPin _ first n => ((List.range n).filterMap (fun i => s.slabCore t (first + i))).foldl (fun s c => s.modCore c Core.emptyStop) s
  | _ => s

theorem State.clearPinned_eq (t : Nat) :
    s.clearPinned t = ((s.train t).works.filter (fun w => w.stage == .running)).foldl (fun s w => s.clearPin t w) s := rfl

theorem State.clearPin_onlyCores (t : Nat) (w : Work) : OnlyCores s (s.clearPin t w) := by
  unfold State.clearPin
  split
  · exact List.foldlRecOn (motive := OnlyCores s) _ _ (.refl s) fun u hu c _ => hu.trans (u.modCore_onlyCores c _)
  · exact .refl s

theorem State.clearPinned_onlyCores (t : Nat) : OnlyCores s (s.clearPinned t) := by
  rw [State.clearPinned_eq]
  exact List.foldlRecOn (motive := OnlyCores s) _ _ (.refl s) fun u hu w _ => hu.trans (u.clearPin_onlyCores t w)

theorem State.clearPin_modFn (i : Nat) (g : Function → Function) (t : Nat) (w : Work) :
    (s.modFn i g).clearPin t w = (s.clearPin t w).modFn i g := by
  unfold State.clearPin
  split
  · exact List.foldl_hom (fun u => State.modFn u i g) (fun _ _ => rfl)
  · rfl

/-- The Stop banks are no business of the functions. -/
theorem State.clearPinned_modFn (i : Nat) (g : Function → Function) (t : Nat) :
    (s.modFn i g).clearPinned t = (s.clearPinned t).modFn i g := by
  rw [State.clearPinned_eq, State.clearPinned_eq]
  exact List.foldl_hom (fun u => State.modFn u i g) (fun u w => (u.clearPin_modFn i g t w))

/-! The members of the group (Table 21.5). -/

/-- The reset of one member: its CLM and counters, its rings, queues and regions. -/
def Part.resetMember (x : Part) : Part := { x with cores := x.cores.map (·.clearClm), perf := {} }
def Function.resetMember (f : Function) : Function := { f.reinit with events := f.events.emptied }
def State.resetMember (s : State) (p : Nat) : State := (s.modPart p Part.resetMember).modFn (p + 1) Function.resetMember

/-- The train of a group that is reset. -/
def Train.reset (x : Train) (closed : Bool) : Train :=
  { x.dropWork with
    objects := { x.objects with pools := [], sessions := [] }, phase := .stopped, halt := .reset, closed := closed }

/-- A group whose members are reset. -/
def State.resetGroup (s : State) (t : Nat) : State := (s.members t).foldl State.resetMember ((s.clearPinned t).dropClaims t)

theorem State.members_clearPinned (t : Nat) : (s.clearPinned t).members t = s.members t := by
  simp only [State.members, (s.clearPinned_onlyCores t).size]

theorem State.resetGroup_rest (t : Nat) : ∃ ps fs, s.resetGroup t = { s with parts := ps, fns := fs } := by
  refine List.foldlRecOn (motive := fun u : State => ∃ ps fs, u = { s with parts := ps, fns := fs }) _ _ ?_ fun u hu p _ => ?_
  · rw [State.dropClaims, (s.clearPinned_onlyCores t).rest]
    exact ⟨_, _, rfl⟩
  · obtain ⟨ps, fs, rfl⟩ := hu
    exact ⟨_, _, rfl⟩

theorem State.partitionReset_eq (t : Nat) : s.partitionReset t = (s.resetGroup t).modTrain t (·.reset s.consort.member) := by
  have hm : (s.resetGroup t).consort.member = s.consort.member := by
    obtain ⟨ps, fs, h⟩ := s.resetGroup_rest t
    rw [h]
  rw [← hm, State.resetGroup, ← s.members_clearPinned]
  rfl

theorem State.partitionReset_rest (t : Nat) : s.partitionReset t =
    { s with fns := (s.partitionReset t).fns, parts := (s.partitionReset t).parts, trains := (s.partitionReset t).trains } := by
  obtain ⟨ps, fs, h⟩ := s.resetGroup_rest t
  rw [s.partitionReset_eq, h]
  rfl

theorem State.train_partitionReset {t : Nat} (h : t < s.trains.length) :
    (s.partitionReset t).train t = (s.train t).reset s.consort.member := by
  obtain ⟨ps, fs, hg⟩ := s.resetGroup_rest t
  rw [s.partitionReset_eq, hg]
  exact State.train_modTrain _ _ _ h

theorem State.train_partitionReset_other {t k : Nat} (h : k ≠ t) : (s.partitionReset t).train k = s.train k := by
  obtain ⟨ps, fs, hg⟩ := s.resetGroup_rest t
  rw [s.partitionReset_eq, hg]
  exact State.train_modTrain_other _ _ _ _ h

/-- Both lists that the reset of members writes have their places. -/
def State.HasPlaces (s : State) : Prop := s.parts.length = 16 ∧ s.fns.length = 17

variable {s}

theorem State.HasPlaces.resetMember (h : s.HasPlaces) (p : Nat) : (s.resetMember p).HasPlaces :=
  ⟨(List.length_set ..).trans h.1, (List.length_set ..).trans h.2⟩

theorem State.HasPlaces.dropClaims_clearPinned (h : s.HasPlaces) (t : Nat) : ((s.clearPinned t).dropClaims t).HasPlaces := by
  have hc := s.clearPinned_onlyCores t
  refine ⟨hc.length.trans h.1, (List.length_set ..).trans ?_⟩
  rw [hc.rest]
  exact h.2

theorem State.fn_dropClaims_clearPinned (t q : Nat) : ((s.clearPinned t).dropClaims t).fn (q + 1) = s.fn (q + 1) := by
  rw [State.dropClaims, State.fn_modFn_other _ _ _ _ (Nat.succ_ne_zero q), (s.clearPinned_onlyCores t).rest]
  rfl

section
variable {t : Nat} (hs : s.HasPlaces) (ht : t < 16) (hsize : t + (s.part t).size ≤ 16) {q : Nat} (hq : q ∈ s.members t)
include hs ht hsize hq

theorem State.part_partitionReset : (s.partitionReset t).part q = ((s.clearPinned t).part q).resetMember := by
  have h := foldl_read (f := State.resetMember) (read := State.part) (g := fun _ => Part.resetMember) (ok := State.HasPlaces)
    (s.nodup_members t) (fun u p _ hu => hu.resetMember p)
    (fun u p hp hu => u.part_modPart p _ (by have := ((s.mem_members ht).1 hp).2; rw [hu.1]; omega))
    (fun u p q hq => u.part_modPart_other p q _ hq) (hs.dropClaims_clearPinned t) q
  rw [s.partitionReset_eq]
  exact h.trans (if_pos hq)

theorem State.fn_partitionReset : (s.partitionReset t).fn (q + 1) = (s.fn (q + 1)).resetMember := by
  have h := foldl_read (f := State.resetMember) (read := fun u q => u.fn (q + 1)) (g := fun _ => Function.resetMember)
    (ok := State.HasPlaces) (s.nodup_members t) (fun u p _ hu => hu.resetMember p)
    (fun u p hp hu => (u.modPart p _).fn_modFn (p + 1) _ (by have := ((s.mem_members ht).1 hp).2; rw [State.modPart_fns, hu.2]; omega))
    (fun u p q hq => (u.modPart p _).fn_modFn_other (p + 1) (q + 1) _ (by omega)) (hs.dropClaims_clearPinned t) q
  rw [s.partitionReset_eq]
  exact h.trans ((if_pos hq).trans (by rw [State.fn_dropClaims_clearPinned]))

end

/-! `functionLevelReset`. -/

theorem execFunctionLevelReset_leader {p : Nat} (hp : p < 16) (hpow : s.powered = true) (hl : s.leaderOf p = p)
    (hm : s.consort.member = false) :
    exec (.functionLevelReset (p + 1)) s = .next ((s.modFn (p + 1) Function.resetPcie).partitionReset p) := by
  have hp' : (s.modFn (p + 1) Function.resetPcie).leaderOf p = p := hl
  simp [exec, execFunctionLevelReset, hpow, hp', hm, Nat.not_lt.2 (Nat.succ_le_of_lt hp)]

theorem execFunctionLevelReset_member {p : Nat} (hp : p < 16) (hpow : s.powered = true) (hl : s.leaderOf p ≠ p)
    (hlen : s.fns.length = 17) :
    exec (.functionLevelReset (p + 1)) s =
      .next (s.modFn (p + 1) (fun f => { f.resetPcie with events := f.events.emptied })) := by
  have hp' : (s.modFn (p + 1) Function.resetPcie).leaderOf p ≠ p := hl
  simp [exec, execFunctionLevelReset, hpow, hp', Nat.not_lt.2 (Nat.succ_le_of_lt hp), s.modFn_modFn (i := p + 1) (by omega)]
  rfl

/-! What adoption of settings leaves (R47, R106). -/

@[simp] theorem Train.adopt_next (x : Train) : x.adopt.next = x.next := by unfold Train.adopt; split <;> rfl
@[simp] theorem Train.adopt_objects (x : Train) : x.adopt.objects = x.objects := by unfold Train.adopt; split <;> rfl

/-- The reset of a member's PCIe function state is no business of what its reset empties. -/
theorem State.resetMember_fn_modFn_resetPcie (i j : Nat) :
    let f := ((s.modFn i Function.resetPcie).fn j).resetMember
    f.urgent = (s.fn j).urgent.reinit ∧ f.bulk = (s.fn j).bulk.reinit ∧ f.reply = (s.fn j).reply.reinit ∧ f.regions = []
      ∧ f.frozen = false := by
  rcases s.fn_modFn_any i Function.resetPcie j with h | h <;> rw [h] <;> exact ⟨rfl, rfl, rfl, rfl, rfl⟩

/-- Settles O34: a leader's reset by what `partitionReset` leaves of its train and of each member, another's by its equation. -/
theorem functionLevelResetState : Obligations.FunctionLevelResetState := by
  refine ⟨fun s p hwf hp hl hm hpow hsize _ => ?_, fun s p hwf hp hl hpow => execFunctionLevelReset_member hp hpow hl (s.wf_fns hwf)⟩
  have hs : (s.modFn (p + 1) Function.resetPcie).HasPlaces := ⟨s.wf_parts hwf, (List.length_set ..).trans (s.wf_fns hwf)⟩
  have htrain := (s.modFn (p + 1) Function.resetPcie).train_partitionReset (t := p) (by
    rw [State.modFn_trains, s.wf_trains hwf]; omega)
  have hpins := s.clearPinned_modFn (p + 1) Function.resetPcie p
  refine ⟨_, execFunctionLevelReset_leader hp hpow hl hm, ?_⟩
  rw [htrain]
  refine ⟨rfl, rfl, rfl, by simp [Train.reset, Train.dropWork], rfl, rfl, by simp [Train.reset, Train.dropWork], fun q hle hlt => ?_,
    fun k hk => State.train_partitionReset_other _ hk, State.partitionReset_rest _ p⟩
  have hq : q ∈ (s.modFn (p + 1) Function.resetPcie).members p := (State.mem_members _ hp).2 ⟨hle, hlt⟩
  rw [State.part_partitionReset hs hp hsize hq, State.fn_partitionReset hs hp hsize hq, hpins, State.modFn_part_at]
  obtain ⟨hurgent, hbulk, hreply, hregions, hfrozen⟩ := State.resetMember_fn_modFn_resetPcie (s := s) (p + 1) (q + 1)
  have hc := s.clearPinned_onlyCores p
  exact ⟨hurgent, hbulk, hreply, hregions, hfrozen, hc.share q, hc.hbm q, rfl, hc.sealFails q⟩

end Sys2Proof.Machine
end

section
/-! PROOFS. Works that a limit ends (R96, R198): an end changes all works of one number in a train alike, and it changes nothing of
works but that. -/

namespace Sys2Proof.Machine

variable (s : State)

/-- No step of the work is admitted any more, and a shutdown has nothing to end there. -/
def Work.Over (w : Work) : Prop := w.cut = true ∧ w.endsWithShutdown = false

theorem Work.finish_over (w : Work) (st : Nat) (d : List Byte) : (w.finish st d).Over := ⟨rfl, rfl⟩

theorem Work.cut_over (w : Work) {reason : Nat} (h : reason ≠ 0) : { w with cut := true, status := reason }.Over :=
  ⟨rfl, by simp [Work.endsWithShutdown, h]⟩

/-- A change of works that stops all works of a number, or leaves them all; it revives none and moves none. -/
structure StopsByNumber (f : Work → Work) : Prop where
  id : ∀ w, (f w).id = w.id
  train : ∀ w, (f w).train = w.train
  sliced : ∀ w, (f w).sliced = true → w.sliced = true
  alike : ∀ i, (∀ w, w.id = i → f w = w) ∨ ∀ w, w.id = i → (f w).Over

theorem StopsByNumber.refl : StopsByNumber fun w => w := ⟨fun _ => rfl, fun _ => rfl, fun _ h => h, fun _ => .inl fun _ _ => rfl⟩

theorem StopsByNumber.comp {f g : Work → Work} (hg : StopsByNumber g) (hf : StopsByNumber f) : StopsByNumber fun w => g (f w) := by
  refine ⟨fun w => (hg.id _).trans (hf.id w), fun w => (hg.train _).trans (hf.train w), fun w h => hf.sliced w (hg.sliced _ h),
    fun i => ?_⟩
  rcases hg.alike i with hleft | hover
  · rcases hf.alike i with hleft' | hover
    · exact .inl fun w hw => by rw [hleft' w hw, hleft w hw]
    · exact .inr fun w hw => by rw [hleft _ ((hf.id w).trans hw)]; exact hover w hw
  · exact .inr fun w hw => hover _ ((hf.id w).trans hw)

/-- The works of one number stopped. -/
theorem StopsByNumber.only (id : Nat) {g : Work → Work} (hid : ∀ w, (g w).id = w.id) (htrain : ∀ w, (g w).train = w.train)
    (hsliced : ∀ w, (g w).sliced = true → w.sliced = true) (hover : ∀ w, (g w).Over) :
    StopsByNumber fun w => if w.id == id then g w else w := by
  refine ⟨fun w => ?_, fun w => ?_, fun w => ?_, fun i => ?_⟩
  · split <;> simp [hid]
  · split <;> simp [htrain]
  · split
    · exact hsliced w
    · exact fun h => h
  · by_cases hi : i = id
    · exact .inr fun w hw => by simp [hw, hi, hover]
    · exact .inl fun w hw => by simp [hw, hi]

/-- `u` is `s` with works stopped by their numbers: the clock stands, and no work comes or goes. -/
structure Stops (s u : State) : Prop where
  clock : u.clock = s.clock
  length : u.trains.length = s.trains.length
  works : ∀ k, ∃ f, StopsByNumber f ∧ (u.train k).works = (s.train k).works.map f

theorem Stops.of_trains {s u : State} (clock : u.clock = s.clock := by rfl) (trains : u.trains = s.trains := by rfl) : Stops s u :=
  ⟨clock, by rw [trains], fun k => ⟨_, .refl, by rw [State.train, trains, List.map_id']; rfl⟩⟩

theorem Stops.refl : Stops s s := .of_trains

variable {s} in
theorem Stops.trans {u v : State} (h : Stops s u) (k : Stops u v) : Stops s v := by
  refine ⟨k.clock.trans h.clock, k.length.trans h.length, fun j => ?_⟩
  obtain ⟨f, hf, hu⟩ := h.works j
  obtain ⟨g, hg, hv⟩ := k.works j
  exact ⟨_, hg.comp hf, by rw [hv, hu, List.map_map]; rfl⟩

theorem Stops.foldl {α : Type} {f : State → α → State} (hf : ∀ u a, Stops u (f u a)) (xs : List α) : Stops s (xs.foldl f s) :=
  List.foldlRecOn (motive := Stops s) xs f (.refl s) fun u hu a _ => hu.trans (hf u a)

theorem State.train_modTrain_any (i : Nat) (g : Train → Train) (k : Nat) :
    (s.modTrain i g).train k = s.train k ∨ k = i ∧ (s.modTrain i g).train k = g (s.train k) := by
  by_cases h : k = i
  · subst h
    by_cases hl : k < s.trains.length
    · exact .inr ⟨rfl, s.train_modTrain k g hl⟩
    · exact .inl (by simp [State.train, State.modTrain, State.setTrain, List.getD_eq_getElem?_getD, Nat.le_of_not_lt hl])
  · exact .inl (s.train_modTrain_other i k g h)

/-- A change of a train that stops works of it by their numbers. -/
theorem Stops.modTrain (t : Nat) {g : Train → Train} {f : Work → Work} (hf : StopsByNumber f) (hg : ∀ x, (g x).works = x.works.map f) :
    Stops s (s.modTrain t g) := by
  refine ⟨rfl, s.length_modTrain t g, fun k => ?_⟩
  rcases s.train_modTrain_any t g k with h | ⟨_, h⟩
  · exact ⟨_, .refl, by rw [h, List.map_id']⟩
  · exact ⟨f, hf, by rw [h, hg]⟩

/-- A change of a train that leaves its works. -/
theorem Stops.modTrain_same (t : Nat) {g : Train → Train} (hg : ∀ x, (g x).works = x.works := by exact fun _ => rfl) :
    Stops s (s.modTrain t g) :=
  .modTrain s t .refl fun x => by rw [hg, List.map_id']

theorem State.dropPieces_stops (t id : Nat) : Stops s (s.dropPieces t id) := .modTrain_same s t

/-- The works of one number stopped. -/
theorem State.modWork_stops (t id : Nat) {g : Work → Work} (hover : ∀ w, (g w).Over)
    (hsliced : ∀ w, (g w).sliced = true → w.sliced = true) (hid : ∀ w, (g w).id = w.id := by exact fun _ => rfl)
    (htrain : ∀ w, (g w).train = w.train := by exact fun _ => rfl) : Stops s (s.modWork t id g) :=
  .modTrain s t (.only id hid htrain hsliced hover) fun _ => rfl

theorem State.failWork_stops (t id : Nat) (r : Refuse) : Stops s (s.failWork t id r) :=
  s.modWork_stops t id (fun w => w.finish_over r.status r.detail)
    fun w h => by simp [Work.sliced, Work.live, Work.fail, Work.finish] at h

theorem State.endWork_stops (t id : Nat) (r : Refuse) : Stops s (s.endWork t id r) :=
  (s.dropPieces_stops t id).trans (State.failWork_stops _ t id r)

/-! Cutting (R96, R198, R247). -/

theorem State.cutWork_stops (t id : Nat) {reason : Nat} (h : reason ≠ 0) : Stops s (s.cutWork t id reason) := by
  unfold State.cutWork
  split
  · exact .refl s
  · split
    · exact .refl s
    · split
      · exact s.endWork_stops t id _
      · exact (Stops.modTrain_same s t).trans (State.modWork_stops _ t id (fun w => w.cut_over h) (fun _ hw => hw))

/-- All works of number `i` of train `k` are over in `u`, unless a finished one bore that number in `s`. -/
def Settled (s u : State) (k i : Nat) : Prop :=
  (∃ x ∈ (s.train k).works, x.id = i ∧ x.live = false) ∨ ∀ v ∈ (u.train k).works, v.id = i → v.Over

section
variable {s} {u v : State} {k i : Nat}

theorem Stops.over (h : Stops u v) (hu : ∀ w ∈ (u.train k).works, w.id = i → w.Over) :
    ∀ w ∈ (v.train k).works, w.id = i → w.Over := by
  obtain ⟨f, hf, hworks⟩ := h.works k
  rw [hworks]
  intro w hw hi
  obtain ⟨x, hx, rfl⟩ := List.mem_map.1 hw
  have hxi : x.id = i := (hf.id x).symm.trans hi
  rcases hf.alike i with hleft | hover
  · rw [hleft x hxi]; exact hu x hx hxi
  · exact hover x hxi

theorem Settled.after (h : Settled s u k i) (huv : Stops u v) : Settled s v k i := h.imp_right huv.over

theorem Settled.before (hsu : Stops s u) (h : Settled u v k i) (huv : Stops u v) : Settled s v k i := by
  rcases h with ⟨x, hx, hxi, hlive⟩ | h
  case inr => exact .inr h
  obtain ⟨f, hf, hworks⟩ := hsu.works k
  rw [hworks] at hx
  obtain ⟨y, hy, rfl⟩ := List.mem_map.1 hx
  rcases hf.alike i with hleft | hover
  · have hyi : y.id = i := (hf.id y).symm.trans hxi
    exact .inl ⟨y, hy, hyi, by rwa [hleft y hyi] at hlive⟩
  · refine .inr (huv.over fun w hw hwi => ?_)
    rw [hworks] at hw
    obtain ⟨z, _, rfl⟩ := List.mem_map.1 hw
    exact hover z ((hf.id z).symm.trans hwi)

/-- A step of a fold over ends settles its number for good. -/
theorem Settled.foldl {α : Type} {f : State → α → State} {xs : List α} {a : α} (hf : ∀ u a, Stops u (f u a)) (ha : a ∈ xs)
    (h : ∀ u, Stops s u → Settled u (f u a) k i) : Settled s (xs.foldl f s) k i := by
  obtain ⟨as, bs, rfl⟩ := List.append_of_mem ha
  rw [List.foldl_append, List.foldl_cons]
  have hu := Stops.foldl s hf as
  exact .after (.before hu (h _ hu) (hf _ a)) (.foldl _ hf bs)

end

theorem State.works_modWork_over {t id : Nat} {g : Work → Work} (h : t < s.trains.length) (hg : ∀ w, (g w).Over) :
    ∀ v ∈ ((s.modWork t id g).train t).works, v.id = id → v.Over := by
  intro v hm hv
  obtain ⟨u, rfl⟩ := s.works_modWork h hm hv
  exact hg u

/-- A cut settles its number: the first work that bears it is looked at. -/
theorem State.cutWork_settles {t id reason : Nat} (h : t < s.trains.length) (hr : reason ≠ 0) :
    Settled s (s.cutWork t id reason) t id := by
  unfold State.cutWork
  split
  next hnone =>
    refine .inr fun v hv hvi => ?_
    have := List.find?_eq_none.1 hnone v hv
    simp [hvi] at this
  next w hsome =>
    have hmem := List.mem_of_find?_eq_some hsome
    have hid : w.id = id := by simpa using List.find?_some hsome
    split
    next hlive => exact .inl ⟨w, hmem, hid, by simpa using hlive⟩
    · split
      · exact .inr (State.works_modWork_over _ (by simpa [State.dropPieces] using h) fun w => w.finish_over _ _)
      · exact .inr (State.works_modWork_over _ (by simpa using h) fun w => w.cut_over hr)

theorem State.cutTrain_stops (t : Nat) {reason : Nat} (h : reason ≠ 0) : Stops s (s.cutTrain t reason) :=
  Stops.foldl s (fun u (w : Work) => u.cutWork_stops t w.id h) _

/-- A train cut takes no further step of a sliced command, unless a finished one bears its number. -/
theorem State.cutTrain_sliced {t reason : Nat} (h : t < s.trains.length) (hr : reason ≠ 0) {v : Work}
    (hv : v ∈ ((s.cutTrain t reason).train t).works) (hs : v.sliced = true) :
    v.cut = true ∨ ∃ u ∈ (s.train t).works, u.id = v.id ∧ u.live = false := by
  obtain ⟨f, hf, hworks⟩ := (s.cutTrain_stops t hr).works t
  obtain ⟨w, hw, rfl⟩ := List.mem_map.1 (hworks ▸ hv)
  have hmem : w ∈ (s.train t).works.filter (·.sliced) := List.mem_filter.2 ⟨hw, hf.sliced w hs⟩
  have hset : Settled s (s.cutTrain t reason) t w.id := .foldl (fun u w => u.cutWork_stops t w.id hr) hmem fun u hu =>
    u.cutWork_settles (hu.length ▸ h) hr
  rw [hf.id]
  exact hset.symm.imp_left fun hover => (hover _ hv (hf.id w)).1

end Sys2Proof.Machine
end

section
/-! PROOFS. The drain limits of the trains (R96): a train's limit is read off itself and the administrative train, and it cuts that
train alone. -/

namespace Sys2Proof.Machine

variable (s : State)

/-- `u` is `s` but for the trains of `ks`. -/
structure OnlyTrains (ks : List Nat) (s u : State) : Prop where
  rest : u = { s with trains := u.trains }
  length : u.trains.length = s.trains.length
  others : ∀ k, k ∉ ks → u.train k = s.train k

theorem OnlyTrains.refl (ks : List Nat) : OnlyTrains ks s s := ⟨rfl, rfl, fun _ _ => rfl⟩

variable {s} in
theorem OnlyTrains.trans {ks : List Nat} {u v : State} (h : OnlyTrains ks s u) (k : OnlyTrains ks u v) : OnlyTrains ks s v :=
  ⟨by rw [k.rest, h.rest], k.length.trans h.length, fun j hj => (k.others j hj).trans (h.others j hj)⟩

theorem OnlyTrains.foldl {α : Type} {ks : List Nat} {f : State → α → State} {xs : List α}
    (hf : ∀ u, ∀ a ∈ xs, OnlyTrains ks u (f u a)) : OnlyTrains ks s (xs.foldl f s) :=
  List.foldlRecOn (motive := OnlyTrains ks s) xs f (.refl s ks) fun u hu a ha => hu.trans (hf u a ha)

theorem State.modTrain_onlyTrains {ks : List Nat} {t : Nat} (h : t ∈ ks) (g : Train → Train) : OnlyTrains ks s (s.modTrain t g) :=
  ⟨rfl, s.length_modTrain t g, fun k hk => s.train_modTrain_other t k g fun e => hk (e ▸ h)⟩

theorem State.modWork_onlyTrains {ks : List Nat} {t : Nat} (h : t ∈ ks) (id : Nat) (g : Work → Work) :
    OnlyTrains ks s (s.modWork t id g) := s.modTrain_onlyTrains h _

theorem State.endWork_onlyTrains {ks : List Nat} {t : Nat} (h : t ∈ ks) (id : Nat) (r : Refuse) : OnlyTrains ks s (s.endWork t id r) := by
  unfold State.endWork State.dropPieces State.failWork
  exact (s.modTrain_onlyTrains h _).trans (State.modWork_onlyTrains _ h _ _)

theorem State.cutWork_onlyTrains {ks : List Nat} {t : Nat} (h : t ∈ ks) (id reason : Nat) : OnlyTrains ks s (s.cutWork t id reason) := by
  unfold State.cutWork
  split
  · exact .refl s ks
  · split
    · exact .refl s ks
    · split
      · exact s.endWork_onlyTrains h id _
      · exact (s.modTrain_onlyTrains h _).trans (State.modWork_onlyTrains _ h _ _)

theorem State.cutTrain_onlyTrains {ks : List Nat} {t : Nat} (h : t ∈ ks) (reason : Nat) : OnlyTrains ks s (s.cutTrain t reason) :=
  OnlyTrains.foldl s fun u (w : Work) _ => u.cutWork_onlyTrains h w.id reason

/-! The limit of each train. -/

variable {s}

theorem State.lt_of_mem_leaders {k : Nat} (h : k ∈ s.leaders) : k < 16 := List.mem_range.1 (List.mem_of_mem_filter h)

variable (s) in
theorem State.nodup_leaders : s.leaders.Nodup := List.nodup_range.filter _

theorem State.drainElapsed_congr {u : State} {k : Nat} (clock : u.clock = s.clock) (own : u.train k = s.train k)
    (admin : u.train adminTrain = s.train adminTrain) : u.drainElapsed k = s.drainElapsed k := by
  simp only [State.drainElapsed, State.regroupOf, State.regroups, clock, own, admin]

/-- What the row does to one train. -/
def State.drainTrain (s : State) (k : Nat) : State := if s.drainElapsed k then s.cutTrain k 2 else s

theorem State.drainTrain_onlyTrains (s : State) {ks : List Nat} {k : Nat} (h : k ∈ ks) : OnlyTrains ks s (s.drainTrain k) := by
  unfold State.drainTrain
  split
  · exact s.cutTrain_onlyTrains h 2
  · exact .refl s ks

theorem State.drainTrains_onlyTrains (s : State) (ks : List Nat) : OnlyTrains ks s (ks.foldl State.drainTrain s) :=
  OnlyTrains.foldl s fun u _ hk => u.drainTrain_onlyTrains hk

/-- Every train is judged and cut as it stands at the limit: the cuts before it touch neither it nor the administrative train. -/
theorem State.drainTrains_train {ks : List Nat} (hn : ks.Nodup) (hlt : ∀ k ∈ ks, k < 16) {k : Nat} (hk : k ∈ ks) :
    ∃ u : State, u.train k = s.train k ∧ u.trains.length = s.trains.length
      ∧ (ks.foldl State.drainTrain s).train k = (if s.drainElapsed k then u.cutTrain k 2 else u).train k := by
  obtain ⟨as, bs, rfl⟩ := List.append_of_mem hk
  obtain ⟨hbefore, hafter⟩ : k ∉ as ∧ k ∉ bs := by
    simp only [List.nodup_append, List.nodup_cons] at hn
    obtain ⟨_, ⟨hbs, _⟩, hdisj⟩ := hn
    exact ⟨fun h => hdisj k h k List.mem_cons_self rfl, hbs⟩
  have hu := s.drainTrains_onlyTrains as
  have hadmin : adminTrain ∉ as := fun h => absurd (hlt _ (List.mem_append_left _ h)) (by decide)
  have hclock : (as.foldl State.drainTrain s).clock = s.clock := by rw [hu.rest]
  have hdue := State.drainElapsed_congr hclock (hu.others k hbefore) (hu.others _ hadmin)
  refine ⟨as.foldl State.drainTrain s, hu.others k hbefore, hu.length, ?_⟩
  rw [List.foldl_append, List.foldl_cons, (State.drainTrains_onlyTrains _ bs).others k hafter, State.drainTrain, hdue]

theorem execDrainLimit_eq : exec .drainLimit s = .next (s.leaders.foldl State.drainTrain s) := rfl

/-- R84, R96: the row cuts every train whose own limit has elapsed, and touches no other. -/
theorem drainLimit_cuts (hwf : s.wf = true) :
    ∃ t, exec .drainLimit s = .next t ∧ t = { s with trains := t.trains }
      ∧ (∀ k ∈ s.leaders, s.drainElapsed k = true → ∀ v ∈ (t.train k).works, v.sliced = true →
          v.cut = true ∨ ∃ u ∈ (s.train k).works, u.id = v.id ∧ u.live = false)
      ∧ ∀ k, k ∉ s.leaders ∨ s.drainElapsed k = false → t.train k = s.train k := by
  have hall := s.drainTrains_onlyTrains s.leaders
  refine ⟨_, execDrainLimit_eq, hall.rest, fun k hk hdue v hv hs => ?_, fun k hk => ?_⟩
  · obtain ⟨u, hown, hlen, htrain⟩ := State.drainTrains_train s.nodup_leaders (fun _ => State.lt_of_mem_leaders) hk
    rw [htrain, if_pos hdue] at hv
    have hlt : k < u.trains.length := by
      rw [hlen, s.wf_trains hwf]
      exact Nat.lt_succ_of_lt (State.lt_of_mem_leaders hk)
    rw [← hown]
    exact u.cutTrain_sliced hlt (by decide) hv hs
  · by_cases hmem : k ∈ s.leaders
    · obtain ⟨u, hown, _, htrain⟩ := State.drainTrains_train s.nodup_leaders (fun _ => State.lt_of_mem_leaders) hmem
      rw [htrain, if_neg (by simp [hk.resolve_left fun h => h hmem]), hown]
    · exact hall.others k hmem

end Sys2Proof.Machine
end

section
/-! PROOFS. What replies, records, events and slots leave: the clock, the trains, the grouping and the rings' unread packets. Of the
partitions they touch only the counters of the one that leads the train whose replies are counted (R123, R128, Table 22.6). -/

namespace Sys2Proof.Machine

/-- A function whose rings hold no unread packet. -/
def Function.RingsEmpty (f : Function) : Prop := f.urgent.head = f.urgent.tail ∧ f.bulk.head = f.bulk.tail

theorem State.ringsEmpty_iff (s : State) : s.ringsEmpty = true ↔ ∀ f < 17, (s.fn f).RingsEmpty := by
  simp [State.ringsEmpty, Function.RingsEmpty]

/-- A function written whose rings hold no unread packet, if they held none before. -/
theorem State.ringsEmpty_setFn {s : State} (h : s.ringsEmpty = true) {i : Nat} {x : Function}
    (hx : (s.fn i).RingsEmpty → x.RingsEmpty) : (s.setFn i x).ringsEmpty = true := by
  rw [State.ringsEmpty_iff] at h ⊢
  intro f hf
  rcases s.fn_modFn_any i (fun _ => x) f with e | e
  · exact e.symm ▸ h f hf
  · by_cases hi : f = i
    · rw [show (s.setFn i x).fn f = x from e]
      exact hx (hi ▸ h f hf)
    · rw [s.fn_setFn_other i f x hi]
      exact h f hf

theorem State.ringsEmpty_of_fns {s u : State} (h : u.fns = s.fns) : u.ringsEmpty = s.ringsEmpty := by
  have hfn (f : Nat) : u.fn f = s.fn f := by rw [State.fn, h]; rfl
  simp only [State.ringsEmpty, hfn]

/-- `u` is `s` but for what the replies of train `t`, and records, events and slots, may change. -/
structure Posted (t : Nat) (s u : State) : Prop where
  clock : u.clock = s.clock
  trains : u.trains = s.trains
  others : ∀ p, p ≠ t → u.part p = s.part p
  own : ∃ c, u.part t = { s.part t with perf := c }
  rings : s.ringsEmpty = true → u.ringsEmpty = true

variable {t : Nat} {s u v : State}

theorem Posted.refl (t : Nat) (s : State) : Posted t s s := ⟨rfl, rfl, fun _ _ => rfl, ⟨_, rfl⟩, id⟩

theorem Posted.trans (h : Posted t s u) (k : Posted t u v) : Posted t s v := by
  refine ⟨k.clock.trans h.clock, k.trains.trans h.trains, fun p hp => (k.others p hp).trans (h.others p hp), ?_,
    fun hs => k.rings (h.rings hs)⟩
  obtain ⟨c, hc⟩ := h.own
  obtain ⟨d, hd⟩ := k.own
  exact ⟨d, by rw [hd, hc]⟩

/-- The same clock, trains, partitions and functions. -/
theorem Posted.of_eq (clock : u.clock = s.clock) (trains : u.trains = s.trains) (parts : u.parts = s.parts) (fns : u.fns = s.fns) :
    Posted t s u := by
  have hpart (p : Nat) : u.part p = s.part p := by rw [State.part, parts]; rfl
  exact ⟨clock, trains, fun p _ => hpart p, ⟨_, hpart t⟩, fun h => (State.ringsEmpty_of_fns fns).trans h⟩

theorem Posted.foldl {α : Type} {f : State → α → State} (hf : ∀ u a, Posted t u (f u a)) (xs : List α) (s : State) :
    Posted t s (xs.foldl f s) :=
  List.foldlRecOn (motive := Posted t s) xs f (.refl t s) fun u hu a _ => hu.trans (hf u a)

theorem Posted.grouping (h : Posted t s u) (p : Nat) :
    (u.part p).leader = (s.part p).leader ∧ (u.part p).size = (s.part p).size ∧ (u.part p).hbm = (s.part p).hbm := by
  by_cases hp : p = t
  · obtain ⟨c, hc⟩ := h.own
    subst hp
    rw [hc]
    exact ⟨rfl, rfl, rfl⟩
  · rw [h.others p hp]
    exact ⟨rfl, rfl, rfl⟩

theorem Posted.leaders (h : Posted t s u) : u.leaders = s.leaders := by simp only [State.leaders, (h.grouping _).1]

theorem Posted.stops (h : Posted t s u) : Stops s u := .of_trains h.clock h.trains

theorem OnlyRecords.posted (h : OnlyRecords s u) : Posted t s u := by
  have hpart (p : Nat) : u.part p = s.part p := by rw [State.part, h.parts]; rfl
  refine ⟨h.clock, h.trains, fun p _ => hpart p, ⟨_, hpart t⟩, fun hs => ?_⟩
  rw [State.ringsEmpty_iff] at hs ⊢
  intro f hf
  rw [h.fn f]
  exact hs f hf

theorem OnlyEvents.posted (h : OnlyEvents s u) : Posted t s u := h.records.posted

variable (s)

/-- A function written whose rings are as empty as before. -/
theorem State.setFn_posted (i : Nat) (x : Function) (hx : (s.fn i).RingsEmpty → x.RingsEmpty := by exact fun h => h) :
    Posted t s (s.setFn i x) := ⟨rfl, rfl, fun _ _ => rfl, ⟨_, rfl⟩, fun h => State.ringsEmpty_setFn h hx⟩

theorem State.modFn_posted (i : Nat) {g : Function → Function} (hg : ∀ f, f.RingsEmpty → (g f).RingsEmpty := by exact fun _ h => h) :
    Posted t s (s.modFn i g) := s.setFn_posted i _ (hg _)

theorem State.hostWrite_posted (f a : Nat) (bs : List Byte) : Posted t s (s.hostWrite f a bs) := .of_eq rfl rfl rfl rfl

/-! Violations. -/

theorem State.violate_posted (f : Nat) (v : Violation) : Posted t s (s.violate f v).1 := by
  unfold State.violate
  extract_lets x n fr lastEvents u w r
  split
  · exact .refl t s
  · have hu : Posted t s u := s.setFn_posted f _
    have hr : Posted t s r := hu.trans ((u.saturated_onlyEvents _ _ _ _).posted.trans (State.raiseF_onlyEvents _ _ _ _ _ _).posted)
    dsimp only
    split
    · exact hr.trans (State.raiseF_onlyEvents _ _ _ _ _ _).posted
    · exact hr

theorem State.violation_posted (f : Nat) (b : Bool) (v : Violation) : Posted t s (s.violation f b v) := by
  unfold State.violation
  have h := s.violate_posted (t := t) f v
  dsimp only
  split
  · exact h.trans (State.stageEvent_onlyRecords _ _ _ _ _).posted
  · exact h

/-! Replies. -/

theorem State.writeReply_posted (f : Nat) (r : Reply) : Posted t s (s.writeReply f r) := by
  unfold State.writeReply
  exact (s.hostWrite_posted _ _ _).trans (State.modFn_posted _ f)

theorem State.postHeld_posted (n f : Nat) : Posted t s (State.postHeld n s f) := by
  induction n generalizing s with
  | zero => exact .refl t s
  | succ n ih =>
    unfold State.postHeld
    dsimp only
    split
    · exact .refl t s
    · split
      · exact .refl t s
      · exact ((s.modFn_posted f).trans (State.writeReply_posted _ f _)).trans (ih _)

theorem State.noteFull_posted (f : Nat) : Posted t s (s.noteFull f) := by
  unfold State.noteFull
  dsimp only
  split
  · split
    · exact .refl t s
    · exact (s.modFn_posted f).trans (State.raiseF_onlyEvents _ _ _ _ _ _).posted
  · exact s.modFn_posted f

theorem State.postReplies_posted (f : Nat) (rs : List Reply) : Posted t s (s.postReplies f rs) := by
  unfold State.postReplies
  extract_lets q held posted noted
  have hn : Posted t s noted := ((s.modFn_posted f).trans (State.postHeld_posted _ _ f)).trans (State.noteFull_posted _ f)
  split
  · exact hn.trans (State.signal_onlyEvents _ _ _).posted
  · exact hn

theorem State.stageDue_posted (d : DueReply) (b : Nat) : Posted t s (s.stageDue d b).2.2 := by
  unfold State.stageDue
  split
  · exact .refl t s
  · split
    · exact .refl t s
    · extract_lets gapped
      have hg : Posted t s gapped := s.tryGap_onlyRecords.posted
      split
      next v u e =>
        have hu : Posted t gapped u := by
          (repeat' split at e) <;> cases e
          · exact .of_eq rfl rfl rfl rfl
          · exact .refl t _
          · exact .refl t _
        exact (hg.trans hu).trans (u.stage_onlyRecords _ _ _ _ _).posted

theorem State.modPart_posted (g : Part → Part) (hg : ∀ x, ∃ c, g x = { x with perf := c }) : Posted t s (s.modPart t g) := by
  refine ⟨rfl, rfl, fun p hp => s.part_modPart_other t p g hp, ?_, id⟩
  rcases s.part_modPart_any t g t with h | ⟨_, h⟩
  · exact ⟨_, h⟩
  · rw [h]
    exact hg _

theorem State.countReply_posted (d : DueReply) (b : Bool) : Posted t s (s.countReply t d b) := by
  unfold State.countReply
  extract_lets counted
  have hc : Posted t s counted := by
    unfold counted
    split
    · exact s.modPart_posted _ fun _ => ⟨_, rfl⟩
    · exact .refl t s
  split
  · refine hc.trans (counted.modFn_posted _ fun f h => ?_)
    split <;> exact h
  · exact hc

theorem State.stageAll_posted (b : Nat) (ds : List DueReply) (acc : List (Nat × Reply)) : Posted t s (s.stageAll t b ds acc).2 := by
  induction ds generalizing s acc with
  | nil => exact .refl t s
  | cons d ds ih => exact ((s.stageDue_posted d b).trans (State.countReply_posted _ _ _)).trans (ih _ _)

theorem State.release_posted (b : Nat) (ds : List DueReply) : Posted t s (s.release t b ds) := by
  unfold State.release
  dsimp only
  refine (s.stageAll_posted b _ []).trans (Posted.foldl (fun u f => ?_) _ _)
  split
  · exact .refl t u
  · exact u.postReplies_posted f _

/-! Slots. -/

theorem State.slotWrite_posted (f : Nat) (r : Region) (a : Nat) (bs : List Byte) (p : Bool) : Posted t s (s.slotWrite f r a bs p) := by
  unfold State.slotWrite
  split
  · exact .refl t s
  · exact .of_eq rfl rfl rfl rfl

theorem State.noteHeaders_posted (w : Work) (rs : List (Nat × SlotRef)) : Posted t s (s.noteHeaders w rs) := by
  refine Posted.foldl (fun u x => ?_) rs s
  split
  · exact .of_eq rfl rfl rfl rfl
  · exact .refl t u

theorem State.imageSlots_posted (w : Work) (r f k n : Nat) : Posted t s (s.imageSlots w r f k n).1 := by
  unfold State.imageSlots
  split
  · exact .refl t s
  · dsimp only
    split
    · exact .refl t s
    · exact s.noteHeaders_posted w _

theorem State.placeImages_posted (w : Work) (r f : Nat) (xs : List (Nat × List Byte)) (acc : List HeldSlot) :
    Posted t s (State.placeImages w r f xs s acc).1 := by
  induction xs generalizing s f acc with
  | nil => exact .refl t s
  | cons x xs ih =>
    have hi := s.imageSlots_posted (t := t) w r f acc.length x.2.length
    unfold State.placeImages
    split
    next u hs e he => rw [he] at hi; exact hi
    next u hs he =>
      rw [he] at hi
      split
      · exact hi
      · exact (hi.trans (Posted.foldl (fun u h => u.slotWrite_posted ..) _ _)).trans (ih _ _ _)

end Sys2Proof.Machine
end

section
/-! PROOFS. The drain limit of a shutdown and the end of a stop (R198, R595, R596): each command is ended in its own way, and each way
stops works by their numbers. -/

namespace Sys2Proof.Machine

variable (s : State)

theorem State.failIssue_stops (w : Work) (r : Refuse) : Stops s (s.failIssue w r) := by
  unfold State.failIssue
  extract_lets counted
  have hc : Stops s counted := by
    unfold counted
    split
    · exact (s.violation_posted (t := 0) _ _ _).stops
    · exact .refl s
  exact hc.trans (counted.endWork_stops _ _ _)

theorem State.sendAll_stops (k : Nat) (fs : List Nat) (bs : List Byte) : Stops s (s.sendAll k fs bs) := by
  refine Stops.foldl s (fun u d => ?_) _
  unfold State.sendTo
  split
  · exact .of_trains
  · exact .refl u

theorem State.endFormation_stops (r : Refuse) : Stops s (s.endFormation r) := by
  unfold State.endFormation
  split
  · exact .refl s
  next id _ =>
    extract_lets failed left
    have hl : Stops s left := (s.failWork_stops adminTrain id r).trans (.of_trains)
    exact hl.trans (.foldl _ (fun u k => .modTrain_same u k) _)

theorem State.failFormation_stops (r : Refuse) : Stops s (s.failFormation r) := by
  unfold State.failFormation
  split
  · exact .refl s
  · exact (s.sendAll_stops _ _ _).trans (State.endFormation_stops _ _)

theorem State.clearCores_stops (t : Nat) : Stops s (s.clearCores t) :=
  .foldl s (fun u p => .of_trains) _

theorem State.loadPages_stops (t : Nat) (pages : List (Nat × Nat × List Byte)) : Stops s (s.loadPages t pages) :=
  .foldl s (fun u p => .of_trains) _

theorem State.failRestore_stops (w : Work) (im : List Byte) (r : Refuse) : Stops s (s.failRestore w im r) := by
  unfold State.failRestore
  extract_lets t cleared
  have hcleared : Stops s cleared :=
    ((s.failIssue_stops w r).trans (State.clearCores_stops _ t)).trans (.modTrain_same _ t)
  split
  next written _ _ =>
    extract_lets loaded
    have hloaded : Stops s loaded := by
      unfold loaded
      split
      · exact hcleared
      · exact hcleared.trans (State.loadPages_stops _ t written)
    refine hloaded.trans (.foldl _ (fun u a => ?_) _)
    dsimp only
    split
    · exact .of_trains
    · exact .refl u

/-- A stopped train may run again (R596). -/
def Train.restarted (x : Train) : Train := if x.halt = .snapshot then { x with halt := .none } else x

@[simp] theorem Train.restarted_works (x : Train) : x.restarted.works = x.works := by unfold Train.restarted; split <;> rfl

theorem Train.restarted_halt (x : Train) : x.restarted.halt ≠ .snapshot := by
  unfold Train.restarted
  split
  · exact fun h => Halt.noConfusion h
  · assumption

theorem State.restartStopped_eq : s.restartStopped =
    (s.leaders.foldl (fun u k => u.modTrain k Train.restarted) s).modDev (fun d => { d with stopWork := none }) := rfl

theorem State.restartStopped_stops : Stops s s.restartStopped := by
  rw [State.restartStopped_eq]
  exact (Stops.foldl s (fun u k => .modTrain_same u k Train.restarted_works) _).trans .of_trains

theorem State.failStop_stops (w : Work) (r : Refuse) : Stops s (s.failStop w r) :=
  (s.failIssue_stops w r).trans (State.restartStopped_stops _)

/-! The drain limit of a shutdown. -/

theorem State.endForShutdown_stops (w : Work) : Stops s (s.endForShutdown w) := by
  unfold State.endForShutdown
  extract_lets r
  split
  · exact s.cutWork_stops w.train w.id (by decide)
  · split
    · exact .refl s
    · split
      · exact s.failFormation_stops r
      · split
        · exact s.failRestore_stops w w.stream r
        · exact s.endWork_stops w.train w.id r
      · exact s.failStop_stops w r
      · exact (Stops.modTrain_same s w.train).trans (State.endWork_stops _ w.train w.id r)
      · exact s.endWork_stops w.train w.id r

theorem State.endForShutdown_sliced {w : Work} (h : w.sliced = true) : s.endForShutdown w = s.cutWork w.train w.id 0x0018 := by
  unfold State.endForShutdown
  exact if_pos h

variable {s}

theorem State.lt_of_mem_works {k : Nat} {w : Work} (h : w ∈ (s.train k).works) : k < s.trains.length := by
  by_contra hk
  have hempty : s.train k = {} := by simp [State.train, List.getD_eq_getElem?_getD, Nat.le_of_not_lt hk]
  rw [hempty] at h
  exact absurd h List.not_mem_nil

theorem State.mem_allWorks {k : Nat} {w : Work} (h : w ∈ (s.train k).works) : w ∈ s.allWorks := by
  have hk := State.lt_of_mem_works h
  refine List.mem_flatMap.2 ⟨s.train k, ?_, h⟩
  rw [State.train, getD_of_lt hk]
  exact List.getElem_mem hk

theorem execShutdownDrainLimit_early (h : s.shutdownElapsed = false) : exec .shutdownDrainLimit s = .next s := by
  simp [exec, execShutdownDrainLimit, h]

/-- R198: what the limit of a shutdown finds unfinished is over afterwards, unless a finished command bears its number. -/
theorem shutdownDrainLimit_ends (h : s.shutdownElapsed = true) :
    ∃ t, exec .shutdownDrainLimit s = .next t ∧ t.clock = s.clock
      ∧ ∀ k, ∀ v ∈ (t.train k).works, v.train = k → v.sliced = true →
          v.endsWithShutdown = false ∨ ∃ u ∈ (s.train k).works, u.id = v.id ∧ u.live = false := by
  have hall := Stops.foldl s State.endForShutdown_stops (s.allWorks.filter (·.endsWithShutdown))
  refine ⟨_, by simp only [exec, execShutdownDrainLimit, h, if_true], hall.clock, fun k v hv htrain hs => ?_⟩
  obtain ⟨f, hf, hworks⟩ := hall.works k
  obtain ⟨w, hw, rfl⟩ := List.mem_map.1 (hworks ▸ hv)
  have hws := hf.sliced w hs
  have hwk : w.train = k := (hf.train w).symm.trans htrain
  rw [hf.id]
  by_cases hends : w.endsWithShutdown = true
  · have hset : Settled s ((s.allWorks.filter (·.endsWithShutdown)).foldl State.endForShutdown s) k w.id :=
      .foldl State.endForShutdown_stops (List.mem_filter.2 ⟨State.mem_allWorks hw, hends⟩) fun u hu => by
        rw [u.endForShutdown_sliced hws, hwk]
        exact u.cutWork_settles (hu.length ▸ State.lt_of_mem_works hw) (by decide)
    exact hset.symm.imp_left fun hover => (hover _ hv (hf.id w)).2
  · refine .inl ?_
    rcases hf.alike w.id with hleft | hover
    · rw [hleft w rfl]
      simpa using hends
    · exact (hover w rfl).2

/-! The end of a stop. -/

/-- After the restart no train waits for a stop. -/
theorem State.restartStopped_halt {k : Nat} (hlen : s.trains.length = 17) (hk : k ∈ s.leaders) :
    (s.restartStopped.train k).halt ≠ .snapshot := by
  have h := foldl_read (f := fun u k => u.modTrain k Train.restarted) (read := State.train) (g := fun _ => Train.restarted)
    (ok := fun u => u.trains.length = 17) s.nodup_leaders (fun u p _ hu => (u.length_modTrain p _).trans hu)
    (fun u p hp hu => u.train_modTrain p _ (by rw [hu]; exact Nat.lt_succ_of_lt (State.lt_of_mem_leaders hp)))
    (fun u p q hq => u.train_modTrain_other p q _ hq) hlen k
  have htrain : s.restartStopped.train k = (s.train k).restarted := h.trans (if_pos hk)
  rw [htrain]
  exact Train.restarted_halt _

/-- `u` has the clock and the leaders of `s`, and as many trains. -/
structure SameLeaders (s u : State) : Prop where
  clock : u.clock = s.clock
  leaders : u.leaders = s.leaders
  length : u.trains.length = s.trains.length

theorem SameLeaders.trans {u v : State} (h : SameLeaders s u) (k : SameLeaders u v) : SameLeaders s v :=
  ⟨k.clock.trans h.clock, k.leaders.trans h.leaders, k.length.trans h.length⟩

theorem Posted.sameLeaders {t : Nat} {u : State} (h : Posted t s u) : SameLeaders s u := ⟨h.clock, h.leaders, by rw [h.trains]⟩

variable (s) in
theorem State.modTrain_sameLeaders (t : Nat) (g : Train → Train) : SameLeaders s (s.modTrain t g) := ⟨rfl, rfl, s.length_modTrain t g⟩

variable (s) in
theorem State.modWork_sameLeaders (t id : Nat) (g : Work → Work) : SameLeaders s (s.modWork t id g) := s.modTrain_sameLeaders t _

variable (s) in
theorem State.failIssue_sameLeaders (w : Work) (r : Refuse) : SameLeaders s (s.failIssue w r) := by
  unfold State.failIssue
  extract_lets counted
  have hc : SameLeaders s counted := by
    unfold counted
    split
    · exact (s.violation_posted (t := 0) _ _ _).sameLeaders
    · exact ⟨rfl, rfl, rfl⟩
  exact hc.trans ((counted.modTrain_sameLeaders _ _).trans (State.modWork_sameLeaders _ _ _ _))

/-- The end of a stop restarts the trains after its images have been placed, whether they found their slots or not. -/
theorem execStopDrainComplete_restarts {w : Work} {b region first : Nat} (hw : s.dev.stopWork.bind (s.work? adminTrain) = some w)
    (hc : w.cmd = .snapshotStop b region first) (hall : s.allStopped = true) :
    ∃ u, exec .stopDrainComplete s = .next (State.restartStopped u) ∧ SameLeaders s u := by
  have hplaced := (s.placeImages_posted (t := 0) w region first (s.stopImages fun _ => b + 1) []).sameLeaders
  simp only [exec, execStopDrainComplete, hw, hc, hall, Bool.not_true, Bool.false_eq_true, if_false]
  split
  · exact ⟨_, rfl, (hplaced.trans (State.modWork_sameLeaders _ _ _ _)).trans (State.failIssue_sameLeaders _ _ _)⟩
  · exact ⟨_, rfl, (hplaced.trans (State.modWork_sameLeaders _ _ _ _)).trans (State.modWork_sameLeaders _ _ _ _)⟩

/-- R596: after the drain of a stop no train waits for it. -/
theorem stopDrainComplete_restarts {w : Work} {b region first : Nat} (hwf : s.wf = true)
    (hw : s.dev.stopWork.bind (s.work? adminTrain) = some w) (hc : w.cmd = .snapshotStop b region first) (hall : s.allStopped = true) :
    ∃ t, exec .stopDrainComplete s = .next t ∧ t.dev.stopWork = none ∧ (∀ k ∈ s.leaders, (t.train k).halt ≠ .snapshot)
      ∧ t.clock = s.clock := by
  obtain ⟨u, hexec, hu⟩ := execStopDrainComplete_restarts hw hc hall
  refine ⟨_, hexec, rfl, fun k hk => ?_, u.restartStopped_stops.clock.trans hu.clock⟩
  exact State.restartStopped_halt (hu.length.trans (s.wf_trains hwf)) (hu.leaders ▸ hk)

end Sys2Proof.Machine
end

section
/-! PROOFS. The regroup (R50, R92 to R100): replies due in the block are released, its old groups are cleared, its partitions take the
new grouping; what lies outside the block stays. -/

namespace Sys2Proof.Machine

/-- `u` is `s` but for what the clearing of groups within the set `B` of partitions may change. -/
structure ClearedIn (B : Nat → Prop) (s u : State) : Prop where
  clock : u.clock = s.clock
  sound : s.wf = true → u.wf = true
  grouping : ∀ p, (u.part p).leader = (s.part p).leader ∧ (u.part p).size = (s.part p).size ∧ (u.part p).hbm = (s.part p).hbm
  part : ∀ p, ¬ B p → u.part p = s.part p
  next : ∀ k, (u.train k).next = (s.train k).next
  train : ∀ k, ¬ B k → u.train k = s.train k
  rings : s.ringsEmpty = true → u.ringsEmpty = true

variable {B : Nat → Prop} {s u v : State}

theorem ClearedIn.refl (B : Nat → Prop) (s : State) : ClearedIn B s s :=
  ⟨rfl, id, fun _ => ⟨rfl, rfl, rfl⟩, fun _ _ => rfl, fun _ => rfl, fun _ _ => rfl, id⟩

theorem ClearedIn.trans (h : ClearedIn B s u) (k : ClearedIn B u v) : ClearedIn B s v where
  clock := k.clock.trans h.clock
  sound := fun hs => k.sound (h.sound hs)
  grouping := fun p => by
    obtain ⟨hleader, hsize, hhbm⟩ := h.grouping p
    obtain ⟨kleader, ksize, khbm⟩ := k.grouping p
    exact ⟨kleader.trans hleader, ksize.trans hsize, khbm.trans hhbm⟩
  part := fun p hp => (k.part p hp).trans (h.part p hp)
  next := fun j => (k.next j).trans (h.next j)
  train := fun j hj => (k.train j hj).trans (h.train j hj)
  rings := fun hs => k.rings (h.rings hs)

theorem ClearedIn.members (h : ClearedIn B s u) (t : Nat) : u.members t = s.members t := by
  simp only [State.members, (h.grouping t).2.1]

theorem ClearedIn.leaders (h : ClearedIn B s u) : u.leaders = s.leaders := by simp only [State.leaders, (h.grouping _).1]

/-- A fold of clearings; each may rest on what those before it have left. -/
theorem ClearedIn.foldl {f : State → Nat → State} {xs : List Nat} (hf : ∀ u, ∀ t ∈ xs, ClearedIn B s u → ClearedIn B u (f u t)) :
    ClearedIn B s (xs.foldl f s) :=
  List.foldlRecOn (motive := ClearedIn B s) xs f (.refl B s) fun u hu t ht => hu.trans (hf u t ht hu)

variable (s)

/-! Single changes. -/

theorem State.modTrain_clearedIn {t : Nat} (ht : B t) {g : Train → Train} (hg : ∀ x, (g x).next = x.next := by exact fun _ => rfl) :
    ClearedIn B s (s.modTrain t g) where
  clock := rfl
  sound := State.modTrain_kept (K := Kept.sound) t g
  grouping := fun _ => ⟨rfl, rfl, rfl⟩
  part := fun _ _ => rfl
  next := fun k => by
    rcases s.train_modTrain_any t g k with h | ⟨_, h⟩
    · rw [h]
    · rw [h, hg]
  train := fun k hk => s.train_modTrain_other t k g fun e => hk (e ▸ ht)
  rings := id

theorem State.modFn_clearedIn (i : Nat) {g : Function → Function} (hwf : ∀ f, f.wf = true → (g f).wf = true)
    (hg : ∀ f, f.RingsEmpty → (g f).RingsEmpty) : ClearedIn B s (s.modFn i g) where
  clock := rfl
  sound := fun h => State.modFn_kept_wf (K := Kept.sound) i g h hwf
  grouping := fun _ => ⟨rfl, rfl, rfl⟩
  part := fun _ _ => rfl
  next := fun _ => rfl
  train := fun _ _ => rfl
  rings := fun h => State.ringsEmpty_setFn h (hg _)

/-- The cores of a partition cleared. -/
theorem State.clearCoresOf_clearedIn {p : Nat} (hp : B p) :
    ClearedIn B s (s.modPart p (fun x => { x with cores := x.cores.map (·.clearAll) })) where
  clock := rfl
  sound := fun h => State.setPart_kept (K := Kept.sound) p _ h Part.wf_clearAll
  grouping := fun q => by
    rcases s.part_modPart_any p (fun x => { x with cores := x.cores.map (·.clearAll) }) q with h | ⟨_, h⟩
    all_goals rw [h]; exact ⟨rfl, rfl, rfl⟩
  part := fun q hq => s.part_modPart_other p q _ fun e => hq (e ▸ hp)
  next := fun _ => rfl
  train := fun _ _ => rfl
  rings := id

/-! Releases and clearings. -/

theorem State.release_clearedIn {t : Nat} (ht : B t) (b : Nat) (ds : List DueReply) : ClearedIn B s (s.release t b ds) :=
  have h := s.release_posted (t := t) b ds
  have htrain (k : Nat) : (s.release t b ds).train k = s.train k := by rw [State.train, h.trains]; rfl
  { clock := h.clock
    sound := State.release_kept (K := Kept.sound) t b ds
    grouping := h.grouping
    part := fun p hp => h.others p fun e => hp (e ▸ ht)
    next := fun k => by rw [htrain]
    train := fun k _ => htrain k
    rings := h.rings }

theorem State.releaseDue_clearedIn {t : Nat} (ht : B t) : ClearedIn B s (s.releaseDue t) := by
  unfold State.releaseDue
  dsimp only
  split
  · exact .refl B s
  · exact (s.modTrain_clearedIn ht).trans (State.release_clearedIn _ ht _ _)

@[simp] theorem Train.dropWork_next (x : Train) : x.dropWork.next = x.next := by simp [Train.dropWork]

/-- A group cleared within the set that holds its leader and its members. -/
theorem State.clearGroup_clearedIn {t : Nat} (ht : B t) (hm : ∀ p ∈ s.members t, B p) : ClearedIn B s (s.clearGroup t) := by
  unfold State.clearGroup
  extract_lets cleared
  have hclaims : ClearedIn B s (s.dropClaims t) := s.modFn_clearedIn 0 (fun _ h => h) (fun _ h => h)
  have hcores : ClearedIn B (s.dropClaims t) ((s.dropClaims t).clearCores t) :=
    .foldl fun u p hp _ => u.clearCoresOf_clearedIn (hm p hp)
  have hrings : ClearedIn B ((s.dropClaims t).clearCores t) cleared :=
    .foldl fun u p _ _ => u.modFn_clearedIn (p + 1) (fun _ h => h) (fun _ _ => ⟨rfl, rfl⟩)
  exact ((hclaims.trans hcores).trans hrings).trans (State.modTrain_clearedIn _ ht fun x => x.dropWork_next)

/-! The new grouping (R50, R97). -/

/-- A partition of the block `b` with its new leader. -/
def Part.regrouped (b ns p : Nat) (x : Part) : Part := { x with leader := b + (p - b) / ns * ns, size := ns, shareNext := none }

/-- The partitions of a block regrouped; partition `p` has train `y p`. -/
def State.regroupParts (s : State) (b bs ns : Nat) (y : Nat → Train) : State :=
  ((List.range bs).map (· + b)).foldl (fun s p => (s.modPart p (Part.regrouped b ns p)).setTrain p (y p)) s

theorem mem_block {b bs p : Nat} : p ∈ (List.range bs).map (· + b) ↔ b ≤ p ∧ p < b + bs := by
  simp only [List.mem_map, List.mem_range]
  constructor
  · rintro ⟨i, hi, rfl⟩; omega
  · exact fun ⟨hle, hlt⟩ => ⟨p - b, by omega, by omega⟩

theorem nodup_block (b bs : Nat) : ((List.range bs).map (· + b)).Nodup :=
  List.nodup_range.map fun _ _ h => Nat.add_right_cancel h

section
variable {s} {b bs ns : Nat} {y : Nat → Train} (hwf : s.wf = true) (hb : b + bs ≤ 16)
include hwf hb

theorem State.part_regroupParts (p : Nat) : (s.regroupParts b bs ns y).part p =
    if p ∈ (List.range bs).map (· + b) then (s.part p).regrouped b ns p else s.part p :=
  foldl_read (f := fun s p => (s.modPart p (Part.regrouped b ns p)).setTrain p (y p)) (read := State.part) (g := Part.regrouped b ns)
    (ok := fun u => u.parts.length = 16) (nodup_block b bs) (fun _ _ _ hu => (List.length_set ..).trans hu)
    (fun u q hq hu => u.part_modPart q _ (by have := mem_block.1 hq; omega)) (fun u q p hp => u.part_modPart_other q p _ hp)
    (s.wf_parts hwf) p

theorem State.train_regroupParts (p : Nat) : (s.regroupParts b bs ns y).train p =
    if p ∈ (List.range bs).map (· + b) then y p else s.train p :=
  foldl_read (f := fun s p => (s.modPart p (Part.regrouped b ns p)).setTrain p (y p)) (read := State.train) (g := fun p _ => y p)
    (ok := fun u => u.trains.length = 17) (nodup_block b bs) (fun _ _ _ hu => (List.length_set ..).trans hu)
    (fun u q hq hu => State.train_setTrain _ q _ (by have := mem_block.1 hq; rw [State.modPart_trains]; omega))
    (fun u q p hp => State.train_setTrain_other _ q p _ hp) (s.wf_trains hwf) p

/-- The trains of the block are the new ones, once the PART_GROUP has been handed to the first of them. -/
theorem State.train_regroupParts_handed {g h : Train → Train}
    (hh : ∀ x, (h x).n5 = x.n5 ∧ (h x).step = x.step ∧ (h x).next = x.next) {p : Nat} (hp : p ∈ (List.range bs).map (· + b)) :
    let x := (((s.regroupParts b bs ns y).modTrain adminTrain g).modTrain b h).train p
    x.n5 = (y p).n5 ∧ x.step = (y p).step ∧ x.next = (y p).next := by
  have hadmin : p ≠ adminTrain := by have := mem_block.1 hp; unfold adminTrain; omega
  have hnew : ((s.regroupParts b bs ns y).modTrain adminTrain g).train p = y p := by
    rw [State.train_modTrain_other _ _ _ _ hadmin, State.train_regroupParts hwf hb, if_pos hp]
  rcases State.train_modTrain_any _ b h p with e | ⟨_, e⟩ <;> rw [e, hnew]
  · exact ⟨rfl, rfl, rfl⟩
  · exact hh _

end

theorem State.regroupParts_rest (b bs ns : Nat) (y : Nat → Train) :
    (s.regroupParts b bs ns y).clock = s.clock ∧ (s.regroupParts b bs ns y).fns = s.fns
      ∧ (s.regroupParts b bs ns y).trains.length = s.trains.length :=
  List.foldlRecOn (motive := fun u : State => u.clock = s.clock ∧ u.fns = s.fns ∧ u.trains.length = s.trains.length) _ _
    ⟨rfl, rfl, rfl⟩ fun _ ⟨hclock, hfns, hlen⟩ _ _ => ⟨hclock, hfns, (List.length_set ..).trans hlen⟩

/-- The train whose counter the new groups continue (R50): none of the old ones is ahead of it. -/
theorem next_le_newest (f : Nat → Train) (ks : List Nat) (x : Train) :
    let top := ks.foldl (fun (x : Train) k => if x.next < (f k).next then f k else x) x
    x.next ≤ top.next ∧ ∀ k ∈ ks, (f k).next ≤ top.next := by
  induction ks generalizing x with
  | nil => simp
  | cons k ks ih =>
    obtain ⟨hx, hks⟩ := ih (if x.next < (f k).next then f k else x)
    rw [List.foldl_cons]
    have hself : x.next ≤ (if x.next < (f k).next then f k else x).next := by split <;> omega
    have hother : (f k).next ≤ (if x.next < (f k).next then f k else x).next := by split <;> omega
    exact ⟨hself.trans hx, List.forall_mem_cons.2 ⟨hother.trans hx, hks⟩⟩

/-- A regroup clears its block, gives its partitions the new grouping with trains of the new period and step that continue the
farthest counter, and hands the PART_GROUP to the first of them. -/
theorem State.applyRegroup_shape (w : Work) {b bs ns step n5 : Nat}
    (hblock : ∀ k ∈ s.leaders, b ≤ k → k < b + bs → k < 16 ∧ k + (s.part k).size ≤ b + bs) :
    ∃ (u : State) (y : Nat → Train) (g h : Train → Train),
      s.applyRegroup w b bs ns step n5 = ((u.regroupParts b bs ns y).modTrain adminTrain g).modTrain b h
      ∧ ClearedIn (fun p => b ≤ p ∧ p < b + bs) s u
      ∧ (∀ p, (y p).n5 = n5 ∧ (y p).step = step ∧ ∀ k ∈ s.leaders, b ≤ k → k < b + bs → (s.train k).next ≤ (y p).next)
      ∧ ∀ x, (h x).n5 = x.n5 ∧ (h x).step = x.step ∧ (h x).next = x.next := by
  unfold State.applyRegroup
  extract_lets block old released top seals handles cleared regrouped news done handed
  have hold (k : Nat) : k ∈ old ↔ k ∈ s.leaders ∧ b ≤ k ∧ k < b + bs := by
    simp [old, block, List.mem_filter, mem_block]
  have hreleased : ClearedIn (fun p => b ≤ p ∧ p < b + bs) s released :=
    .foldl fun u t ht _ => u.releaseDue_clearedIn ((hold t).1 ht).2
  have hcleared : ClearedIn (fun p => b ≤ p ∧ p < b + bs) released cleared := by
    refine .foldl fun u t ht hu => u.clearGroup_clearedIn ((hold t).1 ht).2 fun p hp => ?_
    obtain ⟨hlead, hle, hlt⟩ := (hold t).1 ht
    obtain ⟨h16, hsize⟩ := hblock t hlead hle hlt
    rw [hu.members, hreleased.members, State.mem_members s h16] at hp
    omega
  refine ⟨cleared, _, _, _, rfl, hreleased.trans hcleared, fun p => ⟨rfl, rfl, fun k hk hle hlt => ?_⟩, fun x => ⟨rfl, rfl, rfl⟩⟩
  rw [← hreleased.next k]
  exact (next_le_newest released.train old _).2 k ((hold k).2 ⟨hk, hle, hlt⟩)

theorem execRegroupApply_eq {s : State} {w : Work} {b bs ns step n5 : Nat} (hp : s.powered = true)
    (hr : s.regroup? = some (w, b, bs, ns, step, n5)) :
    exec .regroupApply s = .next (s.applyRegroup w b bs ns step n5).checkRings := by
  simp [exec, execRegroupApply, hr, hp]

/-- R50, R97: the block takes its new groups, periods, steps and counters, and nothing outside it changes. -/
theorem regroupApply_regroups {s : State} {w : Work} {b bs ns step n5 : Nat} (hwf : s.wf = true) (hp : s.powered = true)
    (hempty : s.ringsEmpty = true) (hr : s.regroup? = some (w, b, bs, ns, step, n5)) (hb : b + bs ≤ 16) (hbs : 0 < bs)
    (hsize : ∀ k ∈ s.leaders, b ≤ k → k < b + bs → k + (s.part k).size ≤ b + bs) :
    ∃ t, exec .regroupApply s = .next t
      ∧ (∀ p, b ≤ p → p < b + bs → (t.part p).leader = b + (p - b) / ns * ns ∧ (t.part p).size = ns
          ∧ (t.train p).n5 = n5 ∧ (t.train p).step = step ∧ (t.part p).hbm = (s.part p).hbm
          ∧ ∀ k ∈ s.leaders, b ≤ k → k < b + bs → (s.train k).next ≤ (t.train p).next)
      ∧ (∀ p, p < 16 → (p < b ∨ b + bs ≤ p) → t.part p = s.part p ∧ t.train p = s.train p) ∧ t.clock = s.clock := by
  obtain ⟨u, y, g, h, heq, hu, hy, hh⟩ := s.applyRegroup_shape w (ns := ns) (step := step) (n5 := n5) fun k hk hle hlt =>
    ⟨State.lt_of_mem_leaders hk, hsize k hk hle hlt⟩
  obtain ⟨hclock, hfns, hlen⟩ := u.regroupParts_rest b bs ns y
  have huwf := hu.sound hwf
  have hrings : (s.applyRegroup w b bs ns step n5).ringsEmpty = true := by
    rw [heq]
    exact (State.ringsEmpty_of_fns hfns).trans (hu.rings hempty)
  have hpart (p : Nat) : (s.applyRegroup w b bs ns step n5).part p = (u.regroupParts b bs ns y).part p := by rw [heq]; rfl
  refine ⟨_, (execRegroupApply_eq hp hr).trans (by rw [State.checkRings_empty _ hrings]), fun p hle hlt => ?_,
    fun p hp16 hout => ?_, ?_⟩
  · have hmem : p ∈ (List.range bs).map (· + b) := mem_block.2 ⟨hle, hlt⟩
    obtain ⟨hn5, hstep, hnext⟩ := State.train_regroupParts_handed huwf hb (g := g) hh hmem
    obtain ⟨yn5, ystep, ynext⟩ := hy p
    obtain ⟨_, _, hhbm⟩ := hu.grouping p
    rw [hpart, State.part_regroupParts huwf hb, if_pos hmem, heq, hn5, hstep, hnext]
    exact ⟨rfl, rfl, yn5, ystep, hhbm, ynext⟩
  · have hmem : p ∉ (List.range bs).map (· + b) := fun h => by have := mem_block.1 h; omega
    have hadmin : p ≠ adminTrain := by unfold adminTrain; omega
    refine ⟨?_, ?_⟩
    · rw [hpart, State.part_regroupParts huwf hb, if_neg hmem, hu.part p (by omega)]
    · rw [heq, State.train_modTrain_other _ _ _ _ (by omega), State.train_modTrain_other _ _ _ _ hadmin,
        State.train_regroupParts huwf hb, if_neg hmem, hu.train p (by omega)]
  · rw [heq]
    exact hclock.trans hu.clock

/-- Settles O45: each row by its own clause. -/
theorem limitsAndStops : Obligations.LimitsAndStops :=
  ⟨fun _ hwf => drainLimit_cuts hwf, fun _ _ => ⟨execShutdownDrainLimit_early, shutdownDrainLimit_ends⟩,
    fun _ _ _ _ _ _ _ hwf hp hempty hr hb hbs _ hblock =>
      regroupApply_regroups hwf hp hempty hr hb hbs fun k hk hle hlt => (hblock k hk hle hlt).2,
    fun _ _ _ _ _ hwf hw hc hall => stopDrainComplete_restarts hwf hw hc hall⟩

end Sys2Proof.Machine
end

section
/-! PROOFS. The bytes of a packet and the rings they are read from (R109, R126, R127, R135): what a ring holds after it is written, and
what a submission reads back. -/

namespace Sys2Proof.Machine

/-! The 64 bytes of a packet (Table 4.2). -/

/-- The bytes of a packet that its CRC covers. -/
def packetHead (h : PacketHeader) (c : Command) : List Byte :=
  [byte c.opcode, byte h.flags] ++ leBytes 2 h.seq ++ leBytes 4 h.tag ++ [byte h.part, byte h.plen] ++ fit 52 c.params

/-- Its CRC field: the sender's, or that of R135. -/
def packetCrc (h : PacketHeader) (c : Command) : Nat := h.crc.getD (crc16 (packetHead h c))

theorem packetBytes_eq (h : PacketHeader) (c : Command) : packetBytes h c = packetHead h c ++ leBytes 2 (packetCrc h c) := rfl

theorem packetHead_eq (h : PacketHeader) (c : Command) : packetHead h c =
    leBytes 1 c.opcode ++ leBytes 1 h.flags ++ leBytes 2 h.seq ++ leBytes 4 h.tag ++ leBytes 1 h.part ++ leBytes 1 h.plen ++ fit 52 c.params := by
  simp [packetHead, leBytes]

@[simp] theorem length_packetHead (h : PacketHeader) (c : Command) : (packetHead h c).length = 62 := by simp [packetHead]

@[simp] theorem length_packetBytes (h : PacketHeader) (c : Command) : (packetBytes h c).length = 64 := by simp [packetBytes_eq]

theorem crc16Bit_lt (c : Nat) : crc16Bit c < 65536 := by
  unfold crc16Bit
  split <;> exact Nat.mod_lt _ (by decide)

theorem crc16From_lt {c : Nat} (h : c < 65536) (bs : List Byte) : crc16From c bs < 65536 := by
  induction bs generalizing c with
  | nil => exact h
  | cons b bs ih => exact ih (crc16Bit_lt _)

/-- The CRC-16 fits its field of two bytes. -/
theorem fits_crc16 (bs : List Byte) : fits 16 (crc16 bs) = true := 
  decide_eq_true (crc16From_lt (c := 0xFFFF) (by decide) bs)

theorem fits_opcode (c : Command) : fits 8 c.opcode = true := by cases c <;> rfl

/-- The bytes under the CRC are read back as they were written, and the CRC beside them. -/
theorem crcGood_packetBytes (h : PacketHeader) (c : Command) (hcrc : h.crc = none) :
    (Packet.ofBytes h.fn h.bulk (packetBytes h c)).crcGood = true := by
  have hfield : field (packetBytes h c) 62 2 = crc16 (packetHead h c) := by
    have hread := slice_append_head (b := []) (length_leBytes 2 (packetCrc h c))
    rw [List.append_nil] at hread
    rw [packetBytes_eq, field, slice_append_skip (by simp), length_packetHead, hread, packetCrc, hcrc]
    exact leVal_leBytes (fits_crc16 _)
  have hhead : (packetBytes h c).take 62 = packetHead h c := by simp [packetBytes_eq]
  simp [Packet.crcGood, Packet.ofBytes, hfield, hhead]

/-- Settles O10: each field stands behind those before it, and fits its bytes. -/
theorem packetFieldsRoundTrip : Obligations.PacketFieldsRoundTrip := by
  intro h c hwf
  refine (fun hcrc => ⟨?_, ?_, ?_, ?_, ?_, ?_, ?_, length_packetBytes h c, hcrc⟩) (crcGood_packetBytes h c)
  all_goals
    simp only [PacketHeader.wf, Bool.and_eq_true] at hwf
    obtain ⟨⟨⟨⟨⟨⟨⟨-, hflags⟩, hseq⟩, htag⟩, hpart⟩, hplen⟩, -⟩, -⟩ := hwf
    simp [Packet.ofBytes, packetBytes_eq, packetHead_eq, field, slice_append_skip, slice_append_head, leVal_leBytes, fits_opcode, *]

end Sys2Proof.Machine
end

section
/-! PROOFS. Rings and queues at their registers (R109 to R121, R149, R719, R779 to R784). -/

namespace Sys2Proof.Machine

variable {s : State} {f : Nat} {b : Bool}

/-! Functions and rings written. -/

theorem State.setFn_fn (s : State) (i : Nat) : s.setFn i (s.fn i) = s := by
  have h : s.fns.set i (s.fn i) = s.fns := by
    by_cases hi : i < s.fns.length
    · rw [State.fn, getD_of_lt hi, List.set_getElem_self]
    · exact List.set_eq_of_length_le (by omega)
  rw [State.setFn, h]

/-- Only what the function holds matters to a change of it. -/
theorem State.modFn_congr {g k : Function → Function} (h : g (s.fn f) = k (s.fn f)) : s.modFn f g = s.modFn f k := by
  rw [State.modFn, h, State.modFn]

theorem State.fn_of_wf (hwf : s.wf = true) (hf : f < 17) : (s.fn f).wf = true := by
  have hlen := State.wf_fns hwf
  simp only [State.wf, Bool.and_eq_true] at hwf
  obtain ⟨⟨-, hfns⟩, -⟩ := hwf
  rw [State.fn, getD_of_lt (by omega)]
  exact List.all_eq_true.1 hfns _ (List.getElem_mem _)

theorem State.window_wf (hwf : s.wf = true) (hf : f < 17) (b : Bool) : (s.ring f b).window.wf = true := by
  have h := State.fn_of_wf hwf hf
  simp only [Function.wf, Bool.and_eq_true] at h
  obtain ⟨⟨hu, hb⟩, -⟩ := h
  cases b
  · exact hu
  · exact hb

theorem State.ring_modRing (g : Ring → Ring) (h : f < s.fns.length) : (s.modRing f b g).ring f b = g (s.ring f b) := by
  cases b <;> simp [State.ring, State.modRing, s.fn_modFn f _ h]

theorem State.fn_modRing (g : Ring → Ring) (h : f < s.fns.length) : (s.modRing f b g).fn f =
    (if b then { s.fn f with bulk := g (s.ring f b) } else { s.fn f with urgent := g (s.ring f b) }) := by
  cases b <;> simp [State.ring, State.modRing, s.fn_modFn f _ h]

theorem State.ring_modRing_other {k : Nat} {c : Bool} (g : Ring → Ring) (h : ¬(k = f ∧ c = b)) :
    (s.modRing f b g).ring k c = s.ring k c := by
  by_cases hk : k = f
  · subst hk
    have hc : c = !b := by cases b <;> cases c <;> simp_all
    rcases s.fn_modFn_any k (fun x => if b then { x with bulk := g x.bulk } else { x with urgent := g x.urgent }) k with e | e <;>
      cases b <;> simp_all [State.ring, State.modRing]
  · simp [State.ring, State.modRing, s.fn_modFn_other f k _ hk]

/-- Only what the ring holds matters to a change of it. -/
theorem State.modRing_congr {g k : Ring → Ring} (h : g (s.ring f b) = k (s.ring f b)) : s.modRing f b g = s.modRing f b k := by
  refine State.modFn_congr ?_
  cases b <;> simp_all [State.ring]

theorem State.modRing_modRing (g k : Ring → Ring) (h : f < s.fns.length) :
    (s.modRing f b g).modRing f b k = s.modRing f b (fun r => k (g r)) := by
  rw [State.modRing, State.modRing, s.modFn_modFn h]
  cases b <;> rfl

theorem State.modRing_self {g : Ring → Ring} (h : g (s.ring f b) = s.ring f b) : s.modRing f b g = s := by
  rw [State.modRing_congr (k := id) h]
  refine Eq.trans (State.modFn_congr (k := id) ?_) (s.setFn_fn f)
  cases b <;> rfl

/-! Doorbells (R116). -/

/-- The doorbells that are discarded: a tail past the ring or past its free slots, a disabled ring, a write of another size. -/
def Ring.Refuses (r : Ring) (value size : Nat) : Prop :=
  r.depth ≤ value ∨ r.depth - 1 < (r.tail + r.depth - r.head) % r.depth + (value + r.depth - r.tail) % r.depth
    ∨ r.enable = false ∨ size ≠ 4

theorem State.doorbell_discarded {value size : Nat} (h : (s.ring f b).Refuses value size) :
    s.doorbell f b value size = s.violation f b { ring := ringCode f b, cause := 2 } := by
  refine if_pos ?_
  rcases h with h | h | h | h <;> simp [h]

theorem State.doorbell_taken {value size : Nat} (h : ¬(s.ring f b).Refuses value size) :
    s.doorbell f b value size = (s.modRing f b (fun r => { r with
      tail := value
      early := if s.beforeReady then r.early + (value + r.depth - r.tail) % r.depth else r.early })).checkRings := by
  refine (if_neg fun hbad => h ?_).trans (congrArg State.checkRings (State.modRing_congr rfl))
  rcases hbad with h | h | h | h
  · exact .inr (.inr (.inr h))
  · exact .inl h
  · exact .inr (.inl h)
  · exact .inr (.inr (.inl (by simpa using h)))

/-- A doorbell that names the tail that stands moves nothing. -/
theorem State.doorbell_still {size : Nat} (h : ¬(s.ring f b).Refuses (s.ring f b).tail size) (hempty : s.ringsEmpty = true) :
    s.doorbell f b (s.ring f b).tail size = s := by
  rw [State.doorbell_taken h, State.modRing_self (by simp), State.checkRings_empty s hempty]

theorem execDoorbell_eq {fn blk value size : Nat} {stores : List Host.Cell} (ho : ringOwner fn blk = some f)
    (ha : s.registersAnswer = true) :
    exec (.doorbell fn blk b value size stores) s = .next ((s.hostStores fn stores).doorbell f b value size) := by
  have hu : (s.hostStores fn stores).registersAnswer = true := ha
  simp [exec, execDoorbell, ho, hu]

/-- Settles O25: the host's stores leave the rings as they are, so each case is that of the doorbell itself. -/
theorem doorbellMovesTailOrIsDiscarded : Obligations.DoorbellMovesTailOrIsDiscarded := by
  intro s fn blk f bulk value size stores _ ho _ ha
  refine ⟨fun hbad => ?_, fun hgood => ?_, fun hgood hvalue hempty => ?_⟩
  · rw [execDoorbell_eq ho ha]
    exact congrArg _ (State.doorbell_discarded (s := s.hostStores fn stores) hbad)
  · rw [execDoorbell_eq ho ha]
    exact congrArg _ (State.doorbell_taken (s := s.hostStores fn stores) hgood)
  · subst hvalue
    rw [execDoorbell_eq ho ha]
    exact congrArg _ (State.doorbell_still (s := s.hostStores fn stores) hgood hempty)

/-! Ring windows and ring configuration (R109, R112, R779). -/

theorem execRingSlotWrite_eq {fn blk off : Nat} {data : List Byte} (ho : ringOwner fn blk = some f) (ha : s.registersAnswer = true) :
    exec (.ringSlotWrite fn blk b off data) s =
      .next (s.modRing f b (fun r => { r with window := r.window.write off (data.take (64 * r.depth - off)) })) := by
  simp [exec, execRingSlotWrite, ho, ha]

/-- Bytes cut at the end `n` of a memory: those before it are stored. -/
theorem Memory.get_write_take {m : Memory} (hm : m.wf = true) (off n k : Nat) (data : List Byte) :
    (m.write off (data.take (n - off))).get k = if off ≤ k ∧ k < off + data.length ∧ k < n then data.getD (k - off) 0 else m.get k := by
  rw [Memory.get_write hm, List.length_take]
  refine if_ctx_congr (by omega) (fun h => ?_) fun _ => rfl
  simp only [List.getD_eq_getElem?_getD]
  rw [List.getElem?_take_of_lt (by omega)]

theorem execRingCfgWrite_disabled {fn blk depth : Nat} {on : Bool} (ho : blockOwner fn blk = some f) (ha : s.registersAnswer = true)
    (hlo : 6 ≤ depth) (hhi : depth ≤ 12) (hr : (s.ring f b).enable = false) :
    exec (.ringCfgWrite fn blk b (depth + 256 * flag on)) s = .next (s.modRing f b (fun r =>
      if on then { r with depthLog2 := depth, enable := true, head := 0, tail := 0, expect := 0, early := 0 }
      else { r with depthLog2 := depth })) := by
  have hdepth : bits (depth + 256 * flag on) 0 4 = depth := by cases on <;> simp [bits, flag] <;> omega
  have hzero : bits (depth + 256 * flag on) 4 4 = 0 := by cases on <;> simp [bits, flag] <;> omega
  have hon : bit (depth + 256 * flag on) 8 = on := by cases on <;> simp [bit, flag] <;> omega
  have htop : depth + 256 * flag on < 512 := by cases on <;> simp [flag] <;> omega
  simp [exec, execRingCfgWrite, ho, ha, hr, hdepth, hzero, hon, htop, hlo, hhi]

/-- A ring in use is not disabled (R112). -/
theorem execRingCfgWrite_busy {fn blk depth : Nat} (ho : blockOwner fn blk = some f) (hlo : 6 ≤ depth) (hhi : depth ≤ 12)
    (hr : (s.ring f b).enable = true) (hbusy : (s.ring f b).head ≠ (s.ring f b).tail ∨ s.ringBusy f b = true) :
    exec (.ringCfgWrite fn blk b depth) s = .next s := by
  have hon : bit depth 8 = false := by simp [bit]; omega
  simp [exec, execRingCfgWrite, ho, hr, hon, hbusy]

theorem execUnfreeze_eq (ha : s.registersAnswer = true) : exec (.unfreeze 0 1) s = .next (s.modFn 0 (fun x => { x with
    urgent := { x.urgent with head := 0, tail := 0, expect := 0, early := 0 }
    bulk := { x.bulk with head := 0, tail := 0, expect := 0, early := 0 }, frozen := false, freezeBreath := 0, violationTimes := [] })) := by
  simp [exec, execUnfreeze, ha]

/-- Settles O26: each write by its equation, what the window then holds by `Memory.get_write_take`. -/
theorem ringRegisterWrites : Obligations.RingRegisterWrites := by
  refine ⟨fun s fn blk f bulk off data hwf ho hf ha => ?_, fun s fn blk f bulk depth on _ ho _ ha hlo hhi hr => ?_,
    fun s fn blk f bulk depth _ ho _ _ hlo hhi hr hbusy => execRingCfgWrite_busy ho hlo hhi hr hbusy, fun s hwf ha => ?_⟩
  · have hlen : f < s.fns.length := State.wf_fns hwf ▸ hf
    refine ⟨_, execRingSlotWrite_eq ho ha, rfl, fun g hg => s.fn_modFn_other _ _ _ hg, ?_, ?_, fun k => ?_⟩
    · rw [State.fn_modRing _ hlen]
      cases bulk <;> rfl
    · rw [State.ring_modRing _ hlen]
    · rw [State.ring_modRing _ hlen]
      exact Memory.get_write_take (State.window_wf hwf hf bulk) ..
  · exact execRingCfgWrite_disabled ho ha hlo hhi hr
  · have hlen : 0 < s.fns.length := by rw [State.wf_fns hwf]; decide
    exact ⟨_, execUnfreeze_eq ha, rfl, fun g hg => s.fn_modFn_other _ _ _ hg, s.fn_modFn _ _ hlen⟩

/-! Reply queues (R121, R125, R780). -/

/-- With nothing held and a free entry, there is nothing to post and the queue counts as not full. -/
theorem State.postReplies_nothing (hheld : (s.fn f).reply.held = []) (hfull : (s.fn f).reply.full = false) :
    s.postReplies f [] = s.modFn f (fun x => { x with reply := { x.reply with fullRaised := false } }) := by
  have hself : s.modFn f (fun x => { x with reply := { (s.fn f).reply with held := [] } }) = s := by
    refine (State.modFn_congr (k := id) ?_).trans (s.setFn_fn f)
    rw [← hheld]
    rfl
  simp [State.postReplies, State.noteFull, hheld, hself, State.postHeld, hfull]

/-- A reply queue's registers written so, and the rings then checked (R125). -/
theorem State.modFn_postReplies_nothing {g : ReplyQueue → ReplyQueue} (hf : f < s.fns.length) (hempty : s.ringsEmpty = true)
    (hheld : (g (s.fn f).reply).held = []) (hfull : (g (s.fn f).reply).full = false) :
    ((s.modFn f (fun x => { x with reply := g x.reply })).postReplies f []).checkRings =
      s.modFn f (fun x => { x with reply := { g x.reply with fullRaised := false } }) := by
  have hfn := s.fn_modFn f (fun x => { x with reply := g x.reply }) hf
  rw [State.postReplies_nothing (by rw [hfn]; exact hheld) (by rw [hfn]; exact hfull), s.modFn_modFn hf]
  exact State.checkRings_empty _ (State.ringsEmpty_setFn hempty fun h => h)

/-- The head values that a queue of `d` entries refuses: past its end or past its tail (R121, R719). -/
def PastTail (d head tail value : Nat) : Prop := d ≤ value ∨ (tail + d - head) % d < (value + d - head) % d

section
variable {fn blk value : Nat} (ho : blockOwner fn blk = some f) (ha : s.registersAnswer = true)
include ho ha

theorem execReplyHeadWrite_past (hv : value < 4096)
    (h : PastTail (s.fn f).reply.depth (s.fn f).reply.head (s.fn f).reply.tail value) :
    exec (.replyHeadWrite fn blk value) s = .next (s.violation fn false { cause := 3 }) := by
  have hv' : ¬4096 ≤ value := by omega
  unfold PastTail at h
  simp [exec, execReplyHeadWrite, ho, ha, hv', h]

theorem execReplyHeadWrite_moves (hf : f < s.fns.length) (hv : value < 4096) (hempty : s.ringsEmpty = true)
    (h : ¬PastTail (s.fn f).reply.depth (s.fn f).reply.head (s.fn f).reply.tail value) (hheld : (s.fn f).reply.held = [])
    (hfree : ((s.fn f).reply.tail + 1) % (s.fn f).reply.depth ≠ value) :
    exec (.replyHeadWrite fn blk value) s =
      .next (s.modFn f (fun x => { x with reply := { x.reply with head := value, fullRaised := false } })) := by
  have hv' : ¬4096 ≤ value := by omega
  have hposted := State.modFn_postReplies_nothing (g := fun q => { q with head := value }) hf hempty hheld (beq_false_of_ne hfree)
  unfold PastTail at h
  simp [exec, execReplyHeadWrite, ho, ha, hv', h, hposted]

theorem execReplyCfgWrite_enables {depth : Nat} (hf : f < s.fns.length) (hlo : 6 ≤ depth) (hhi : depth ≤ 12)
    (hoff : (s.fn f).reply.enable = false) (hheld : (s.fn f).reply.held = []) (hhead : (s.fn f).reply.head ≠ 1)
    (hempty : s.ringsEmpty = true) :
    exec (.replyCfgWrite fn blk (depth + 256)) s = .next (s.modFn f (fun x => { x with reply := { x.reply with
      depthLog2 := depth, enable := true, tail := 0, phase := true, fullRaised := false } })) := by
  have hdepth : bits (depth + 256) 0 4 = depth := by simp [bits]; omega
  have hzero : bits (depth + 256) 4 4 = 0 := by simp [bits]; omega
  have hzero' : bits (depth + 256) 9 7 = 0 := by simp [bits]; omega
  have hon : bit (depth + 256) 8 = true := by simp [bit]; omega
  have htop : ¬131072 ≤ depth + 256 := by omega
  have hlo' : ¬depth < 6 := by omega
  have hhi' : ¬12 < depth := by omega
  have hone : 1 % 2 ^ depth = 1 := Nat.one_mod_two_pow (by omega)
  have hposted := State.modFn_postReplies_nothing (g := fun q => { q with depthLog2 := depth, enable := true, tail := 0, phase := true })
    hf hempty hheld (by simp [ReplyQueue.full, ReplyQueue.depth, hone, Ne.symm hhead])
  generalize depth + 256 = value at *
  simp [exec, execReplyCfgWrite, ho, ha, hoff, hdepth, hzero, hzero', hon, htop, hlo', hhi', hposted]

end

/-! Event queues (R719, R722, R783, R784). -/

section
variable {fn blk value : Nat} (ho : blockOwner fn blk = some f) (ha : s.registersAnswer = true)
include ho ha

theorem execEvqHeadWrite_past (hv : value < 4096)
    (h : PastTail (s.fn f).events.depth (s.fn f).events.head (s.fn f).events.tail value) :
    exec (.evqHeadWrite fn blk value) s = .next (s.violation fn false { cause := 3 }) := by
  have hv' : ¬4096 ≤ value := by omega
  unfold PastTail at h
  simp [exec, execEvqHeadWrite, ho, ha, hv', h]

theorem execEvqHeadWrite_moves (hv : value < 4096)
    (h : ¬PastTail (s.fn f).events.depth (s.fn f).events.head (s.fn f).events.tail value) (hlost : (s.fn f).events.lostFull = 0) :
    exec (.evqHeadWrite fn blk value) s = .next (s.modFn f (fun x => { x with events := { x.events with head := value } })) := by
  have hv' : ¬4096 ≤ value := by omega
  unfold PastTail at h
  simp [exec, execEvqHeadWrite, ho, ha, hv', h, hlost]

theorem execEventStatusWrite_eq : exec (.eventStatusWrite fn blk value) s = .next (s.modFn f (fun x => { x with events := { x.events with
    status := (List.range 6).foldl (fun n i => n + (if bit x.events.status i && !bit value i then 2 ^ i else 0)) 0 } })) := by
  simp [exec, execEventStatusWrite, ho, ha]

end

/-- An event queue that starts with its first record, nothing having been raised, held or lost while it was disabled. -/
def EventQueue.started (q : EventQueue) : EventQueue := { q with enable := true, tail := 0, phase := true, seq := 0 }

theorem State.enableEvents_nothing (hf : f < s.fns.length) (hhold : (s.fn f).events.hold = []) (hfull : (s.fn f).events.lostFull = 0)
    (hrate : (s.fn f).events.lostRate = 0) (hraised : (s.fn f).events.raisedDisabled = 0) :
    s.enableEvents f = s.modFn f (fun x => { x with events := x.events.started }) := by
  simp only [State.enableEvents, hhold, hfull, hrate, hraised, ne_eq, not_true_eq_false, or_self, if_false, Nat.add_zero, State.writeHeld,
    State.announce]
  rw [if_pos (by rw [s.fn_modFn f _ hf])]
  exact State.modFn_congr (by simp [EventQueue.started, hhold, hfull, hrate, hraised])

/-- The fields of a configuration value of an event queue (R783). -/
theorem evqCfg_fields {depth moderation : Nat} (hhi : depth ≤ 12) (hm : moderation ≤ 1000) :
    let value := depth + 256 + 2 ^ 32 * moderation
    bits value 0 4 = depth ∧ bit value 8 = true ∧ bits value 32 10 = moderation ∧ bits value 4 4 = 0 ∧ bits value 9 7 = 0
      ∧ bits value 17 15 = 0 ∧ bits value 42 6 = 0 ∧ bits value 48 16 = 0 ∧ value < 2 ^ 64 := by
  simp [bits, bit]
  omega

theorem execEvqCfgWrite_enables {fn blk depth moderation : Nat} (ho : blockOwner fn blk = some f) (ha : s.registersAnswer = true)
    (hf : f < s.fns.length) (hblk : blk < 16) (hlo : 6 ≤ depth) (hhi : depth ≤ 12) (hm : moderation ≤ 1000)
    (hoff : (s.fn f).events.enable = false) (hhold : (s.fn f).events.hold = []) (hfull : (s.fn f).events.lostFull = 0)
    (hrate : (s.fn f).events.lostRate = 0) (hraised : (s.fn f).events.raisedDisabled = 0) :
    exec (.evqCfgWrite fn blk (depth + 256 + 2 ^ 32 * moderation)) s = .next (s.modFn f (fun x =>
      { x with events := { x.events with depthLog2 := depth, moderation := moderation }.started })) := by
  obtain ⟨hdepth, hon, hmod, hz1, hz2, hz3, hz4, hz5, htop⟩ := evqCfg_fields hhi hm
  have hnotDevice : blk ≠ 16 := by omega
  have hbad : ¬(depth < 6 ∨ 12 < depth ∨ 1000 < moderation) := by omega
  generalize depth + 256 + 2 ^ 32 * moderation = value at *
  have hset := s.fn_modFn f (fun x => { x with events := { x.events with depthLog2 := depth, moderation := moderation } }) hf
  have hstarted := State.enableEvents_nothing (s := s.modFn f (fun x => { x with events := { x.events with
    depthLog2 := depth, moderation := moderation } })) (f := f) (by simpa [State.modFn, State.setFn] using hf)
    (by rw [hset]; exact hhold) (by rw [hset]; exact hfull) (by rw [hset]; exact hrate) (by rw [hset]; exact hraised)
  rw [s.modFn_modFn hf] at hstarted
  simp [exec, execEvqCfgWrite, ho, ha, hdepth, hon, hmod, hz1, hz2, hz3, hz4, hz5, hnotDevice, hbad, hoff]
  rw [if_neg (by omega)]
  exact congrArg _ hstarted

/-! EVENT_STATUS (R784). -/

theorem bit_eq_testBit (n i : Nat) : bit n i = n.testBit i := by
  rw [Nat.testBit_eq_decide_div_mod_eq]
  rfl

/-- The word whose bit `i` is `p i`, for `i` below `n`. -/
def bitsOf (p : Nat → Bool) (n : Nat) : Nat := (List.range n).foldl (fun v i => v + (if p i then 2 ^ i else 0)) 0

theorem bitsOf_succ (p : Nat → Bool) (n : Nat) : bitsOf p (n + 1) = bitsOf p n + (if p n then 2 ^ n else 0) := by
  simp [bitsOf, List.range_succ]

theorem bitsOf_lt (p : Nat → Bool) (n : Nat) : bitsOf p n < 2 ^ n := by
  induction n with
  | zero => simp [bitsOf]
  | succ n ih =>
    rw [bitsOf_succ, Nat.pow_succ]
    split <;> omega

theorem bit_bitsOf (p : Nat → Bool) {n i : Nat} (h : i < n) : bit (bitsOf p n) i = p i := by
  simp only [bit_eq_testBit]
  induction n with
  | zero => omega
  | succ n ih =>
    have hlt := bitsOf_lt p n
    rw [bitsOf_succ, Nat.add_comm]
    rcases Nat.lt_succ_iff_lt_or_eq.1 h with hi | rfl
    · split
      · rw [Nat.testBit_two_pow_add_gt hi, ih hi]
      · rw [Nat.zero_add, ih hi]
    · cases hp : p i
      · simp [Nat.testBit_lt_two_pow hlt]
      · simp [Nat.testBit_two_pow_add_eq, Nat.testBit_lt_two_pow hlt]

/-- Settles O27: each write by its equation; the bits of EVENT_STATUS by `bit_bitsOf`. -/
theorem queueRegisterWrites : Obligations.QueueRegisterWrites := by
  refine ⟨fun s fn blk f value hwf ho hf ha hv => ⟨execReplyHeadWrite_past ho ha hv, fun hmoves hempty hheld hfree => ?_⟩,
    fun s fn blk f value _ ho _ ha hv => ⟨execEvqHeadWrite_past ho ha hv, execEvqHeadWrite_moves ho ha hv⟩,
    fun s fn blk f depth hwf ho hf ha hlo hhi hoff hheld hhead hempty => ?_,
    fun s fn blk f depth moderation hwf ho hf hblk ha hlo hhi hm hoff hhold hfull hrate hraised => ?_,
    fun s fn blk f value hwf ho hf ha => ?_⟩
  all_goals have hlen : f < s.fns.length := State.wf_fns hwf ▸ hf
  · exact execReplyHeadWrite_moves ho ha hlen hv hempty hmoves hheld hfree
  · exact execReplyCfgWrite_enables ho ha hlen hlo hhi hoff hheld hhead hempty
  · exact ⟨_, execEvqCfgWrite_enables ho ha hlen hblk hlo hhi hm hoff hhold hfull hrate hraised, rfl,
      fun g hg => s.fn_modFn_other _ _ _ hg, s.fn_modFn _ _ hlen⟩
  · refine ⟨_, execEventStatusWrite_eq ho ha, rfl, fun g hg => s.fn_modFn_other _ _ _ hg, ?_⟩
    rw [s.fn_modFn _ _ hlen]
    exact ⟨rfl, fun i hi => bit_bitsOf (fun i => bit (s.fn f).events.status i && !bit value i) hi⟩

end Sys2Proof.Machine
end

section
/-! PROOFS. The first checks of Table 4.7 (R136, R138) and the violations that freeze a function's rings (R145 to R147). -/

namespace Sys2Proof.Machine

variable {s : State}

/-! Steps 1 to 4. -/

/-- Step 2 refuses a packet that does not come from a leader of this card. -/
def State.Outsider (s : State) (fn : Nat) : Prop :=
  fn ≠ 0 ∧ (s.leaderOf (fn - 1) ≠ fn - 1 ∨ (s.consort.member = true ∧ s.consort.card ≠ 0))

theorem State.outsider_iff (s : State) (fn : Nat) : (!decide (fn = 0) && (decide (s.leaderOf (fn - 1) ≠ fn - 1)
    || (s.consort.member && s.consort.card != 0))) = true ↔ s.Outsider fn := by
  simp [State.Outsider]

section
variable {p : Packet} (early : Bool)

theorem State.screen_frozen (hf : (s.fn p.fn).frozen = true) :
    s.screen p early = .error (1, { status := 0x14, tail := leBytes 6 (s.fn p.fn).freezeBreath }) := if_pos hf

variable (hf : (s.fn p.fn).frozen = false)
include hf

theorem State.screen_outsider (ho : s.Outsider p.fn) : s.screen p early = .error (2, s.wrongLeader (p.fn - 1)) :=
  (if_neg (Bool.eq_false_iff.1 hf)).trans (if_pos ((s.outsider_iff p.fn).2 ho))

variable (ho : ¬s.Outsider p.fn)
include ho

theorem State.screen_badCrc (hc : p.crcGood = false) : s.screen p early =
    .error (3, { status := 0x15, offset := 62, tail := leBytes 2 (crc16 (p.raw.take 62)), violation := true }) := by
  refine (if_neg (Bool.eq_false_iff.1 hf)).trans ((if_neg fun h => ho ((s.outsider_iff p.fn).1 h)).trans (if_pos ?_))
  simp [hc]

theorem State.screen_badSequence (hc : p.crcGood = true) (hd : (p.seq + 65536 - (s.ring p.fn p.bulk).expect) % 65536 ≠ 0) :
    s.screen p early = .error (4, {
      status := 0x13, reason := if (p.seq + 65536 - (s.ring p.fn p.bulk).expect) % 65536 ≤ 32767 then 1 else 2, offset := 2
      tail := leBytes 2 (s.ring p.fn p.bulk).expect, violation := true }) := by
  refine (if_neg (Bool.eq_false_iff.1 hf)).trans ((if_neg fun h => ho ((s.outsider_iff p.fn).1 h)).trans ((if_neg ?_).trans (if_pos hd)))
  simp [hc]

end

/-- The reply to a packet of a member names its leader, on another card that card too. -/
theorem State.wrongLeader_reply (s : State) (q : Nat) : (s.wrongLeader q).status = 0x30 ∧ (s.wrongLeader q).reason = 1
    ∧ (s.wrongLeader q).tail.head? = some (byte (s.leaderOf q)) := by
  refine ⟨rfl, rfl, ?_⟩
  unfold State.wrongLeader
  split <;> rfl

/-- Settles O13: each check by the equation of `screen` where the earlier ones pass; that a bad CRC names byte 62 is the model's reading
(assumption 41). -/
theorem firstChecksInOrder : Obligations.FirstChecksInOrder := by
  intro s p early
  exact ⟨fun hf => ⟨_, State.screen_frozen early hf, rfl⟩,
    fun hf ho => ⟨_, State.screen_outsider early hf ho, s.wrongLeader_reply (p.fn - 1)⟩,
    fun hf ho hc => ⟨_, State.screen_badCrc early hf ho hc, rfl, rfl⟩,
    fun hf ho hc hd => ⟨_, State.screen_badSequence early hf ho hc hd, rfl, rfl, rfl⟩⟩

/-! Violations (R146, R147). -/

theorem State.violate_frozen {fn : Nat} (v : Violation) (hf : (s.fn fn).frozen = true) : s.violate fn v = (s, false) := if_pos hf

theorem freezesNow_iff (now : Nat) (times : List Nat) :
    freezesNow now times = true ↔ ∃ T, times[63]? = some T ∧ now - T ≤ 100000000 := by
  unfold freezesNow
  split <;> simp_all

/-- What a function's record holds after a violation counted at `now`: whether it froze, the count, the last one and the times. -/
def Function.Counts (f g : Function) (now : Nat) (v : Violation) : Prop :=
  g.frozen = freezesNow now f.violationTimes ∧ g.violations = min (f.violations + 1) 0xFFFFFFFF ∧ g.lastViolation = v.word
    ∧ g.violationTimes = (now :: f.violationTimes).take 64

theorem OnlyEvents.counts {u t : State} {f : Function} {fn now : Nat} {v : Violation} (h : OnlyEvents u t)
    (hu : f.Counts (u.fn fn) now v) : f.Counts (t.fn fn) now v := by
  rw [h.fn fn]
  exact hu

theorem State.violate_counts {fn : Nat} (v : Violation) (hlen : fn < s.fns.length) (hf : (s.fn fn).frozen = false) :
    (s.fn fn).Counts ((s.violate fn v).1.fn fn) s.clock.timebase v := by
  unfold State.violate
  extract_lets f n fr lastEvents u w r
  rw [if_neg (Bool.eq_false_iff.1 hf)]
  have hu : f.Counts (u.fn fn) s.clock.timebase v := by
    rw [State.fn_setFn _ _ _ hlen]
    exact ⟨rfl, rfl, rfl, rfl⟩
  have hr : OnlyEvents u r := (u.saturated_onlyEvents _ _ _ _).trans (State.raiseF_onlyEvents _ _ _ _ _ _)
  dsimp only
  split
  · exact (hr.trans (State.raiseF_onlyEvents _ _ _ _ _ _)).counts hu
  · exact hr.counts hu

/-- Settles O15: the violation writes its record first, and the events it raises leave that. -/
theorem sixtyFifthViolationFreezes : Obligations.SixtyFifthViolationFreezes := by
  intro s fn v hwf hfn
  refine ⟨State.violate_frozen v, fun hf => ?_⟩
  obtain ⟨hfrozen, hrest⟩ := State.violate_counts v (State.wf_fns hwf ▸ hfn) hf
  exact ⟨by rw [hfrozen]; exact freezesNow_iff _ _, hrest⟩

end Sys2Proof.Machine
end

section
/-! PROOFS. The ground of a state: what checking a packet leaves (R136), its refusal, its reply, its acceptance and the events and records
beside them. The rings belong to it but for their counts of suppressed replies (R128). -/

namespace Sys2Proof.Machine

/-- What no submission touches; of the presence state all but its count of unrecorded refusals (R682). -/
structure Card where
  clock : Clock
  bays : List Bay
  hbm : List Memory
  cores : List (List Core)
  presence : Presence
  enginesOffline : List Nat
  banks : List Bank
  retired : List (Nat × Nat)
  ownerKey : List Byte

def State.card (s : State) : Card :=
  { clock := s.clock, bays := s.bays, hbm := s.parts.map (·.hbm), cores := s.parts.map (·.cores)
    presence := { s.presence with refusals := 0 }, enginesOffline := s.enginesOffline, banks := s.dev.banks, retired := s.dev.retired
    ownerKey := s.dev.ownerKey }

/-- A ring but for its count of suppressed replies. -/
def Ring.quiet (r : Ring) : Ring := { r with suppressed := 0 }

/-- The rings of a function, likewise. -/
def Function.quietRings (f : Function) : Ring × Ring := (f.urgent.quiet, f.bulk.quiet)

/-- The card and every function's rings. -/
structure Ground where
  card : Card
  rings : Nat → Ring × Ring

def State.ground (s : State) : Ground := ⟨s.card, fun f => (s.fn f).quietRings⟩

variable (s : State)

theorem State.card_of_ground {s t : State} (h : t.ground = s.ground) : t.card = s.card := congrArg Ground.card h

theorem State.quiet_of_ground {s t : State} (h : t.ground = s.ground) (f : Nat) (b : Bool) : (t.ring f b).quiet = (s.ring f b).quiet := by
  have hf : (t.fn f).quietRings = (s.fn f).quietRings := congrFun (congrArg Ground.rings h) f
  cases b
  · exact congrArg Prod.fst hf
  · exact congrArg Prod.snd hf

/-- Whatever does not read the count of suppressed replies of a ring belongs to the ground. -/
theorem State.ring_of_ground {α : Type} (g : Ring → α) (hg : ∀ r, g r.quiet = g r) {s t : State} (h : t.ground = s.ground)
    (f : Nat) (b : Bool) : g (t.ring f b) = g (s.ring f b) := by
  rw [← hg, State.quiet_of_ground h, hg]

/-- That no ring holds an unread packet belongs to the ground. -/
theorem State.ringsEmpty_of_ground {s t : State} (h : t.ground = s.ground) : t.ringsEmpty = s.ringsEmpty := by
  have hring (u : State) : u.ringsEmpty = (List.range 17).all (fun f => decide ((u.ring f false).head = (u.ring f false).tail)
      && decide ((u.ring f true).head = (u.ring f true).tail)) := rfl
  simp only [hring, State.ring_of_ground Ring.head (fun _ => rfl) h, State.ring_of_ground Ring.tail (fun _ => rfl) h]

/-! Single updates. -/

theorem State.modFn_ground (i : Nat) {g : Function → Function} (h : ∀ f, (g f).quietRings = f.quietRings := by exact fun _ => rfl) :
    (s.modFn i g).ground = s.ground := by
  refine congrArg (Ground.mk s.card) (funext fun f => ?_)
  rcases s.fn_modFn_any i g f with e | e
  · rw [e]
  · rw [e, h]

theorem State.setFn_ground (i : Nat) {x : Function} (h : x.quietRings = (s.fn i).quietRings := by rfl) : (s.setFn i x).ground = s.ground := by
  refine congrArg (Ground.mk s.card) (funext fun f => ?_)
  by_cases hf : f = i
  · subst hf
    rcases s.fn_modFn_any f (fun _ => x) f with e | e
    · exact congrArg Function.quietRings e
    · exact (congrArg Function.quietRings e).trans h
  · rw [s.fn_setFn_other i f x hf]

@[simp] theorem State.modTrain_ground (i : Nat) (g : Train → Train) : (s.modTrain i g).ground = s.ground := rfl
@[simp] theorem State.addDue_ground (i : Nat) (d : DueReply) : (s.addDue i d).ground = s.ground := rfl
@[simp] theorem State.modLedger_ground (g : Ledger → Ledger) : (s.modLedger g).ground = s.ground := rfl
@[simp] theorem State.hostWrite_ground (f a : Nat) (bs : List Byte) : (s.hostWrite f a bs).ground = s.ground := rfl
@[simp] theorem State.modDev_ground (g : Device → Device)
    (h : ∀ d, (g d).banks = d.banks ∧ (g d).retired = d.retired ∧ (g d).ownerKey = d.ownerKey) : (s.modDev g).ground = s.ground := by
  obtain ⟨hbanks, hretired, hkey⟩ := h s.dev
  simp only [State.ground, State.card, State.modDev, hbanks, hretired, hkey]
  rfl
@[simp] theorem State.modRing_card (f : Nat) (b : Bool) (g : Ring → Ring) : (s.modRing f b g).card = s.card := rfl

theorem map_set_getD {α β : Type} (xs : List α) (i : Nat) (d : α) {g : α → α} {k : α → β} (h : ∀ x, k (g x) = k x) :
    (xs.set i (g (xs.getD i d))).map k = xs.map k := by
  refine List.ext_getElem (by simp) fun j hj _ => ?_
  rw [List.length_map, List.length_set] at hj
  rw [List.getElem_map, List.getElem_map, List.getElem_set]
  split
  · next e => subst e; rw [h, getD_of_lt hj]
  · rfl

/-- Of a partition only HBM and cores belong to the ground. -/
theorem State.modPart_ground (i : Nat) {g : Part → Part} (hh : ∀ p, (g p).hbm = p.hbm := by exact fun _ => rfl)
    (hc : ∀ p, (g p).cores = p.cores := by exact fun _ => rfl) : (s.modPart i g).ground = s.ground := by
  have hcard : (s.modPart i g).card = s.card := by
    simp only [State.card, State.modPart, State.setPart, State.part, map_set_getD _ _ _ hh, map_set_getD _ _ _ hc]
  rw [State.ground, hcard]
  rfl

theorem OnlyRecords.ground {s t : State} (h : OnlyRecords s t) : t.ground = s.ground := by
  have hrings (f : Nat) : (t.fn f).quietRings = (s.fn f).quietRings := by
    rw [h.fn f]
    rfl
  have hcard : t.card = s.card := by
    rw [State.card, h.clock, h.bays, h.parts, h.presence, h.enginesOffline, h.dev, State.card]
  rw [State.ground, hcard, funext hrings, State.ground]

theorem OnlyEvents.ground {s t : State} (h : OnlyEvents s t) : t.ground = s.ground := h.records.ground

@[simp] theorem State.ite_ground (c : Prop) [Decidable c] (a b : State) : (if c then a else b).ground = if c then a.ground else b.ground :=
  apply_ite State.ground c a b

@[simp] theorem State.foldl_ground {α : Type} (f : State → α → State) (xs : List α) (hf : ∀ u a, (f u a).ground = u.ground) :
    (xs.foldl f s).ground = s.ground :=
  List.foldlRecOn (motive := fun u => u.ground = s.ground) xs f rfl fun u hu a _ => (hf u a).trans hu

@[simp] theorem State.signal_ground (f v : Nat) : (s.signal f v).ground = s.ground := (s.signal_onlyEvents f v).ground
@[simp] theorem State.raiseF_ground (n c v f : Nat) (p : List Byte) : (s.raiseF n c v f p).ground = s.ground := (s.raiseF_onlyEvents ..).ground
@[simp] theorem State.saturated_ground (p o a b : Nat) : (s.saturated p o a b).ground = s.ground := (s.saturated_onlyEvents p o a b).ground
@[simp] theorem State.tryGap_ground : s.tryGap.ground = s.ground := s.tryGap_onlyRecords.ground
@[simp] theorem State.setHold_ground (r : Nat) : (s.setHold r).ground = s.ground := (s.setHold_onlyRecords r).ground
@[simp] theorem State.notePressure_ground : s.notePressure.ground = s.ground := s.notePressure_onlyRecords.ground
@[simp] theorem State.stage_ground (o : Bool) (n : Nat) (rs : List (List Byte)) (p b : Nat) : (s.stage o n rs p b).2.ground = s.ground :=
  (s.stage_onlyRecords o n rs p b).ground
@[simp] theorem State.stageOne_ground (r : List Byte) (p b : Nat) : (s.stageOne r p b).ground = s.ground := (s.stageOne_onlyRecords r p b).ground
@[simp] theorem State.freezeRecord_ground (f : Nat) (b : Bool) : (s.freezeRecord f b).ground = s.ground :=
  (s.stageEvent_onlyRecords ..).ground
@[simp] theorem State.unreserve_ground (n : Nat) : (s.unreserve n).ground = s.ground := by simp [State.unreserve]
@[simp] theorem State.reserve_ground (n : Nat) (o : Bool) : (s.reserve n o).2.ground = s.ground := by
  unfold State.reserve
  dsimp only
  (repeat' split) <;> simp
@[simp] theorem State.once_ground (c u : Nat) : (s.once c u).2.ground = s.ground := by
  unfold State.once
  split <;> rfl

/-! Violations, replies and refusals. -/

@[simp] theorem State.violate_ground (f : Nat) (v : Violation) : (s.violate f v).1.ground = s.ground := by
  unfold State.violate
  extract_lets x n fr lastEvents u w r
  have hu : u.ground = s.ground := s.setFn_ground f
  split
  · rfl
  · simp [r, w, hu]

@[simp] theorem State.violation_ground (f : Nat) (b : Bool) (v : Violation) : (s.violation f b v).ground = s.ground := by
  unfold State.violation
  simp

@[simp] theorem State.writeReply_ground (f : Nat) (r : Reply) : (s.writeReply f r).ground = s.ground :=
  (State.modFn_ground _ f).trans (s.hostWrite_ground ..)

@[simp] theorem State.postHeld_ground (n f : Nat) : (State.postHeld n s f).ground = s.ground := by
  induction n generalizing s with
  | zero => rfl
  | succ n ih =>
    unfold State.postHeld
    dsimp only
    split
    · rfl
    · split
      · rfl
      · rw [ih, State.writeReply_ground, State.modFn_ground]

@[simp] theorem State.noteFull_ground (f : Nat) : (s.noteFull f).ground = s.ground := by
  unfold State.noteFull
  dsimp only
  split
  · split
    · rfl
    · rw [State.raiseF_ground, State.modFn_ground]
  · rw [State.modFn_ground]

@[simp] theorem State.postReplies_ground (f : Nat) (rs : List Reply) : (s.postReplies f rs).ground = s.ground := by
  have hheld := s.modFn_ground f (g := fun x => { x with reply := { (s.fn f).reply with held := (s.fn f).reply.held ++ rs } })
  simp [State.postReplies, hheld]

@[simp] theorem State.stageDue_ground (d : DueReply) (b : Nat) : (s.stageDue d b).2.2.ground = s.ground := by
  unfold State.stageDue
  split
  · rfl
  · split
    · rfl
    · simp [apply_ite, State.fresh]

@[simp] theorem State.countReply_ground (t : Nat) (d : DueReply) (b : Bool) : (s.countReply t d b).ground = s.ground := by
  unfold State.countReply
  extract_lets u
  have hu : u.ground = s.ground := by
    unfold u
    split
    · rw [State.modPart_ground]
    · rfl
  split
  · rw [State.modFn_ground u d.fn (fun f => by split <;> rfl), hu]
  · exact hu

@[simp] theorem State.stageAll_ground (t b : Nat) (ds : List DueReply) (acc : List (Nat × Reply)) :
    (s.stageAll t b ds acc).2.ground = s.ground := by
  induction ds generalizing s acc with
  | nil => rfl
  | cons d ds ih => simp [State.stageAll, ih]

@[simp] theorem State.release_ground (t b : Nat) (ds : List DueReply) : (s.release t b ds).ground = s.ground := by simp [State.release]

@[simp] theorem State.postDue_ground (t : Nat) (d : DueReply) : (s.postDue t d).ground = s.ground := by simp [State.postDue]

@[simp] theorem State.refusePacket_ground (p : Packet) (t o k : Nat) (r : Refuse) (c : Option Nat) (n : Nat) :
    (s.refusePacket p t o k r c n).ground = s.ground := by simp [State.refusePacket]

@[simp] theorem State.presenceRecord_ground (k : Nat) (r : List Byte) : (s.presenceRecord k r).ground = s.ground := by
  unfold State.presenceRecord
  have ho := s.once_ground 0xB5 k
  split
  next first u e =>
    rw [e] at ho
    have hu : u.ground = s.ground := ho
    dsimp only
    split
    · rw [State.stageOne_ground, hu]
    · rw [State.saturated_ground, ← hu]
      rfl

/-! Acceptance. -/

@[simp] theorem State.accepted_ground (w : Work) : (s.accepted w).ground = s.ground := by
  unfold State.accepted
  split
  · rfl
  · rfl
  · exact s.modFn_ground w.fn
  · rfl
  · rfl

@[simp] theorem State.acceptPacket_ground (p : Packet) (i : OpInfo) (c : Command) (t o : Nat) :
    (s.acceptPacket p i c t o).ground = s.ground := by
  unfold State.acceptPacket
  extract_lets aud record
  split
  next res u e =>
    have hu : u.ground = s.ground := by
      split at e
      · simpa using congrArg (·.2.ground) e.symm
      · cases e; rfl
    dsimp only
    (repeat' split) <;> simp [hu]

/-! A packet checked. -/

/-- The expected sequence of a packet's ring advanced (R136). -/
def State.consume (s : State) (p : Packet) : State := s.modRing p.fn p.bulk (fun r => { r with expect := (r.expect + 1) % 65536 })

/-- The state in which a packet is checked, with its place in the order of checking. -/
def State.ordered (s : State) : State := s.modDev (fun d => { d with nextOrder := d.nextOrder + 1 })

@[simp] theorem State.ordered_ground : s.ordered.ground = s.ground := rfl

/-- Refused before its sequence is consumed. -/
def RefusedEarly (e : Except (Nat × Refuse) (OpInfo × Command)) : Prop := ∃ k r, e = .error (k, r) ∧ k < 5

variable {s} {p : Packet} {early : Bool}

/-- A packet that passes is accepted, its sequence consumed. -/
theorem State.checkPacket_ok {i : OpInfo} {c : Command} (h : s.ordered.screen p early = .ok (i, c)) :
    s.checkPacket p early = (s.ordered.consume p).acceptPacket p i c (s.addressee p) s.dev.nextOrder := by
  unfold State.checkPacket
  extract_lets order t ordered consume
  rw [show ordered.screen p early = .ok (i, c) from h]
  rfl

/-- A packet that fails is refused, its sequence consumed from step 5 on. -/
theorem State.checkPacket_error {k : Nat} {r : Refuse} (h : s.ordered.screen p early = .error (k, r)) :
    ∃ u : State, u.ground = (if 5 ≤ k then s.ordered.consume p else s.ordered).ground
      ∧ s.checkPacket p early = u.refusePacket p (s.addressee p) s.dev.nextOrder k r none 0 := by
  unfold State.checkPacket
  extract_lets order t ordered consume
  rw [show ordered.screen p early = .error (k, r) from h]
  refine ⟨_, ?_, rfl⟩
  split
  · rw [State.presenceRecord_ground]
    rfl
  · rfl

theorem State.checkPacket_refusedEarly (h : RefusedEarly (s.ordered.screen p early)) : (s.checkPacket p early).ground = s.ground := by
  obtain ⟨k, r, e, hk⟩ := h
  obtain ⟨u, hu, heq⟩ := State.checkPacket_error e
  rw [heq, State.refusePacket_ground, hu, if_neg (by omega), State.ordered_ground]

theorem State.checkPacket_consumes (h : ¬RefusedEarly (s.ordered.screen p early)) :
    (s.checkPacket p early).ground = (s.ordered.consume p).ground := by
  rcases e : s.ordered.screen p early with ⟨k, r⟩ | ⟨i, c⟩
  · obtain ⟨u, hu, heq⟩ := State.checkPacket_error e
    have hk : 5 ≤ k := Nat.le_of_not_lt fun hk => h ⟨k, r, e, hk⟩
    rw [heq, State.refusePacket_ground, hu, if_pos hk]
  · rw [State.checkPacket_ok e, State.acceptPacket_ground]

/-- Settles O14: what follows step 4 leaves the ground that the consumed sequence is part of. -/
theorem sequenceConsumedOnceInOrder : Obligations.SequenceConsumedOnceInOrder := by
  intro s p early hwf hfn
  refine ⟨fun h => State.ring_of_ground Ring.expect (fun _ => rfl) (State.checkPacket_refusedEarly h) .., fun h => ?_⟩
  rw [State.ring_of_ground Ring.expect (fun _ => rfl) (State.checkPacket_consumes h), State.consume,
    State.ring_modRing _ (by exact State.wf_fns hwf ▸ hfn)]
  rfl

/-! Rings taken, doorbells and submissions. -/

theorem State.checkPacket_card (s : State) (p : Packet) (early : Bool) : (s.checkPacket p early).card = s.card := by
  by_cases h : RefusedEarly (s.ordered.screen p early)
  · exact State.card_of_ground (State.checkPacket_refusedEarly h)
  · rw [State.card_of_ground (State.checkPacket_consumes h)]
    rfl

theorem State.drainRing_card (n : Nat) (s : State) (f : Nat) (b : Bool) : (State.drainRing n s f b).card = s.card := by
  induction n generalizing s with
  | zero => rfl
  | succ n ih =>
    unfold State.drainRing
    dsimp only
    split
    · rw [ih, State.takePacket, State.checkPacket_card, State.modRing_card]
    · rfl

theorem State.checkRings_card (s : State) : s.checkRings.card = s.card :=
  List.foldlRecOn (motive := fun u : State => u.card = s.card) _ _ rfl fun u hu f _ => by
    rw [State.drainRing_card, State.drainRing_card, hu]

theorem State.doorbell_card (s : State) (f : Nat) (b : Bool) (value size : Nat) : (s.doorbell f b value size).card = s.card := by
  unfold State.doorbell
  extract_lets r c k
  split
  · exact State.card_of_ground (s.violation_ground ..)
  · rw [State.checkRings_card, State.modRing_card]

theorem submitPacket_card {h : PacketHeader} {c : Command} {s t : State} (e : submitPacket h c s = .next t) : t.card = s.card := by
  unfold submitPacket at e
  extract_lets u r v at e
  split at e <;> injection e with e <;> rw [← e]
  · rfl
  · rw [State.doorbell_card]
    rfl

/-- A command of the opcode table's packet rows writes its packet and rings the doorbell (assumption 6). -/
theorem exec_submission {i : Instr} {h : PacketHeader} {c : Command} (hs : submission i = some (h, c)) (s : State) :
    exec i s = submitPacket h c s := by
  cases i <;> cases hs <;> rfl

/-- Settles O16: every part that the statement names is a part of the card. -/
theorem submissionFrame : Obligations.SubmissionFrame := by
  intro i h c s t hs e
  have hcard : t.card = s.card := submitPacket_card ((exec_submission hs s).symm.trans e)
  exact ⟨congrArg Card.clock hcard, congrArg Card.bays hcard, congrArg Card.hbm hcard, congrArg Card.cores hcard,
    congrArg Card.presence hcard, congrArg Card.enginesOffline hcard, congrArg Card.banks hcard, congrArg Card.retired hcard,
    congrArg Card.ownerKey hcard⟩

end Sys2Proof.Machine
end

section
/-! PROOFS. A packet accepted (R116, R119, R136): its submission leaves one packet unread, checking takes that one and finds every ring
empty afterwards. -/

namespace Sys2Proof.Machine

/-! Rings with one unread packet. -/

theorem State.ringsEmpty_iff_ring (s : State) : s.ringsEmpty = true ↔ ∀ f < 17, ∀ b, (s.ring f b).head = (s.ring f b).tail := by
  rw [State.ringsEmpty_iff]
  exact forall₂_congr fun f _ => ⟨fun ⟨hu, hb⟩ b => by cases b; exacts [hu, hb], fun h => ⟨h false, h true⟩⟩

/-- Both rings of a function drained. -/
def State.drainFn (s : State) (f : Nat) : State := State.drainRing 4096 (State.drainRing 4096 s f false) f true

theorem State.checkRings_eq (s : State) : s.checkRings = (List.range 17).foldl State.drainFn s := rfl

theorem State.drainFn_empty {s : State} {f : Nat} (h : ∀ b, (s.ring f b).head = (s.ring f b).tail) : s.drainFn f = s := by
  rw [State.drainFn, State.drainRing_empty _ _ _ _ (h false), State.drainRing_empty _ _ _ _ (h true)]

section
variable {s v : State} {f : Nat} {b : Bool} (hothers : ∀ k < 17, ∀ c, ¬(k = f ∧ c = b) → (s.ring k c).head = (s.ring k c).tail)
  (hone : State.drainRing 4096 s f b = v) (hempty : v.ringsEmpty = true)
include hothers hone hempty

theorem State.drainFn_single (hf : f < 17) : s.drainFn f = v := by
  have hv := (State.ringsEmpty_iff_ring v).1 hempty f hf
  cases b with
  | false => rw [State.drainFn, hone, State.drainRing_empty _ _ _ _ (hv true)]
  | true => rw [State.drainFn, State.drainRing_empty _ s _ _ (hothers f hf false (by simp)), hone]

/-- Where one ring alone holds unread packets, the rings are checked by draining it. -/
theorem State.checkRings_single (hf : f < 17) : s.checkRings = v := by
  have hrest (ks : List Nat) (hks : ∀ k ∈ ks, k < 17) : ks.foldl State.drainFn v = v := by
    induction ks with
    | nil => rfl
    | cons k ks ih =>
      rw [List.foldl_cons, State.drainFn_empty ((State.ringsEmpty_iff_ring v).1 hempty k (hks k List.mem_cons_self))]
      exact ih fun j hj => hks j (List.mem_cons_of_mem k hj)
  have hfold (ks : List Nat) (hks : ∀ k ∈ ks, k < 17) (hmem : f ∈ ks) : ks.foldl State.drainFn s = v := by
    induction ks with
    | nil => cases hmem
    | cons k ks ih =>
      have hks' : ∀ j ∈ ks, j < 17 := fun j hj => hks j (List.mem_cons_of_mem k hj)
      rw [List.foldl_cons]
      by_cases hk : k = f
      · rw [hk, State.drainFn_single hothers hone hempty hf]
        exact hrest ks hks'
      · rw [State.drainFn_empty fun c => hothers k (hks k List.mem_cons_self) c fun h => hk h.1]
        exact ih hks' ((List.mem_cons.1 hmem).resolve_left (Ne.symm hk))
  exact hfold _ (fun k hk => List.mem_range.1 hk) (List.mem_range.2 hf)

end

/-- One packet unread: the ring is drained by taking it. -/
theorem State.drainRing_one {s : State} {f : Nat} {b : Bool} (n : Nat) (hchecks : s.checksRings f = true)
    (hunread : (s.ring f b).head ≠ (s.ring f b).tail)
    (hread : ((s.takePacket f b).ring f b).head = ((s.takePacket f b).ring f b).tail) : State.drainRing (n + 1) s f b = s.takePacket f b := by
  refine (if_pos ?_).trans (State.drainRing_empty n _ f b hread)
  simp [hchecks, hunread]

/-! The packet in its ring. -/

/-- Bytes written are read back. -/
theorem Memory.read_write {m : Memory} (hm : m.wf = true) (a : Nat) (bs : List Byte) : (m.write a bs).read a bs.length = bs := by
  induction bs generalizing m a with
  | nil => rfl
  | cons x bs ih =>
    have hput := Memory.wf_put a x hm
    have hget : ((m.put a x).write (a + 1) bs).get a = x := by
      rw [Memory.get_write hput, if_neg (by omega), Memory.get_put hm, if_pos rfl]
    rw [Memory.write, List.length_cons, Memory.read, hget, ih hput]

/-- A ring with a packet's bytes in the slot at its tail (R109). -/
def Ring.written (r : Ring) (bs : List Byte) : Ring := { r with window := r.window.write (64 * r.tail) bs }

/-- The packet made available (R116). -/
def Ring.offered (r : Ring) (bs : List Byte) : Ring := { r.written bs with tail := (r.tail + 1) % r.depth }

/-- The packet read from its slot (R119, R120). -/
def Ring.fetched (r : Ring) (bs : List Byte) : Ring := { r.offered bs with head := (r.tail + 1) % r.depth, early := 0 }

/-- A ring with a free slot: enabled, nothing unread, the tail at a slot (R109). -/
structure Ring.Ready (r : Ring) : Prop where
  enable : r.enable = true
  read : r.head = r.tail
  depth : 6 ≤ r.depthLog2
  tail : r.tail < r.depth

theorem Ring.two_le_depth {r : Ring} (h : 6 ≤ r.depthLog2) : 2 ≤ r.depth :=
  (by decide : 2 ≤ 2 ^ 6).trans (Nat.pow_le_pow_right (by decide) h)

theorem Ring.Ready.next_ne {r : Ring} (h : r.Ready) : r.head ≠ (r.tail + 1) % r.depth := by
  have h2 := Ring.two_le_depth h.depth
  have ht := h.tail
  rw [h.read]
  rcases Nat.lt_or_ge (r.tail + 1) r.depth with hlt | hge
  · rw [Nat.mod_eq_of_lt hlt]; omega
  · rw [show r.tail + 1 = r.depth by omega, Nat.mod_self]; omega

/-- The doorbell for the next slot is taken. -/
theorem Ring.Ready.takes_next {r : Ring} (h : r.Ready) : ¬r.Refuses ((r.tail + 1) % r.depth) 4 := by
  have h2 := Ring.two_le_depth h.depth
  have ht := h.tail
  have hnone : (r.tail + r.depth - r.head) % r.depth = 0 := by rw [h.read, Nat.add_sub_cancel_left, Nat.mod_self]
  have hone : ((r.tail + 1) % r.depth + r.depth - r.tail) % r.depth = 1 := by
    rcases Nat.lt_or_ge (r.tail + 1) r.depth with hlt | hge
    · rw [Nat.mod_eq_of_lt hlt, show r.tail + 1 + r.depth - r.tail = 1 + r.depth by omega, Nat.add_mod_right, Nat.mod_eq_of_lt (by omega)]
    · rw [show r.tail + 1 = r.depth by omega, Nat.mod_self, show 0 + r.depth - r.tail = 1 by omega, Nat.mod_eq_of_lt (by omega)]
  have hlt : (r.tail + 1) % r.depth < r.depth := Nat.mod_lt _ (by omega)
  rw [Ring.Refuses, hnone, hone]
  rintro (hbad | hbad | hbad | hbad)
  · omega
  · omega
  · rw [h.enable] at hbad; cases hbad
  · exact hbad rfl

section
variable {s : State} {f : Nat} {b : Bool} {bs : List Byte} (hf : f < s.fns.length) (hr : (s.ring f b).Ready)
include hf hr

/-- From READY on, the doorbell of a written slot makes its packet available. -/
theorem State.doorbell_next (hready : s.beforeReady = false) :
    (s.modRing f b (·.written bs)).doorbell f b (((s.ring f b).tail + 1) % (s.ring f b).depth) 4 =
      (s.modRing f b (·.offered bs)).checkRings := by
  have htakes : ¬((s.modRing f b (·.written bs)).ring f b).Refuses (((s.ring f b).tail + 1) % (s.ring f b).depth) 4 := by
    rw [State.ring_modRing _ hf]
    exact hr.takes_next
  rw [State.doorbell_taken htakes, State.modRing_modRing _ _ hf]
  refine congrArg State.checkRings (State.modRing_congr ?_)
  rw [if_neg (by exact Bool.eq_false_iff.1 hready)]
  rfl

theorem State.takePacket_offered (hwf : (s.ring f b).window.wf = true) (hearly : (s.ring f b).early = 0) (hlen : bs.length = 64) :
    (s.modRing f b (·.offered bs)).takePacket f b = (s.modRing f b (·.fetched bs)).checkPacket (Packet.ofBytes f b bs) false := by
  have hbytes : ((s.ring f b).offered bs).window.read (64 * ((s.ring f b).offered bs).head) 64 = bs := by
    have hread := Memory.read_write hwf (64 * (s.ring f b).tail) bs
    rw [hlen] at hread
    rwa [show ((s.ring f b).offered bs).head = (s.ring f b).tail from hr.read]
  have hring := State.ring_modRing (s := s) (b := b) (·.offered bs) hf
  have hnotEarly : ¬0 < ((s.ring f b).offered bs).early := by
    rw [show ((s.ring f b).offered bs).early = 0 from hearly]
    decide
  unfold State.takePacket
  dsimp only
  rw [hring, hbytes, State.modRing_modRing _ _ hf, decide_eq_false hnotEarly]
  refine congrArg (fun u : State => u.checkPacket _ false) (State.modRing_congr ?_)
  have hhead : (((s.ring f b).offered bs).head + 1) % ((s.ring f b).offered bs).depth = ((s.ring f b).tail + 1) % (s.ring f b).depth := by
    rw [show ((s.ring f b).offered bs).head = (s.ring f b).tail from hr.read]
    rfl
  rw [hhead, show ((s.ring f b).offered bs).early - 1 = 0 by rw [show ((s.ring f b).offered bs).early = 0 from hearly]]
  rfl

end

/-! Acceptance (R136, Table 4.7). -/

/-- Steps 12 to 14 passed: the work joins its train, and acceptance does what it does at once. -/
theorem State.acceptPacket_accepts {s u : State} {p : Packet} {info : OpInfo} {c : Command} {t order n : Nat} {w : Work}
    (hreserve : (if audited info p && !holdExempt p.opcode then s.reserve (s.recordsFor p t) (s.policyOf t) else (.ok 0, s)) = (.ok n, u))
    (hdrain : (decide (t < 16) && (u.train t).draining) = false)
    (hentry : u.entryChecked { p.work c info t order with audited := audited info p, records := n, arrived := u.clock.timebase } = .ok w) :
    let v := if p.opcode = 0 then { w with aux := [(u.ring p.fn p.bulk).expect] } else w
    s.acceptPacket p info c t order = (u.modTrain t (fun x => { x with works := x.works ++ [v] })).accepted v := by
  unfold State.acceptPacket
  dsimp only
  rw [hreserve]
  dsimp only
  rw [if_neg (Bool.eq_false_iff.1 hdrain), hentry]

/-- The clock stands while records are reserved. -/
theorem State.clock_reserved {s u : State} {b : Bool} {k n : Nat} {o : Bool}
    (h : (if b then s.reserve k o else (.ok 0, s)) = (.ok n, u)) : u.clock = s.clock := by
  cases b
  · exact congrArg (·.2.clock) h.symm
  · exact (congrArg (·.2.card.clock) h.symm).trans (congrArg Card.clock (State.card_of_ground (s.reserve_ground k o)))

/-- A state whose rings are checked takes commands. -/
theorem State.answers_of_checksRings {s : State} {f : Nat} (h : s.checksRings f = true) : s.registersAnswer = true ∧ s.beforeReady = false := by
  unfold State.checksRings at h
  unfold State.registersAnswer State.beforeReady
  cases hstate : s.dev.state <;> simp_all

/-- Writing a ring does not change whether its function's rings are checked. -/
theorem State.checksRings_modRing (s : State) (f : Nat) (b : Bool) (g : Ring → Ring) (k : Nat) :
    (s.modRing f b g).checksRings k = s.checksRings k := by
  have hstopped : ((s.modRing f b g).fn k).stopped = (s.fn k).stopped := by
    rcases s.fn_modFn_any f (fun x => if b then { x with bulk := g x.bulk } else { x with urgent := g x.urgent }) k with e | e <;>
      rw [State.modRing, e]
    cases b <;> rfl
  unfold State.checksRings
  rw [hstopped]
  rfl

/-! Submission to a ring with a free slot. -/

theorem State.ringsEmpty_modRing {s : State} {f : Nat} {b : Bool} {g : Ring → Ring} (hg : ∀ r, r.head = r.tail → (g r).head = (g r).tail)
    (h : s.ringsEmpty = true) : (s.modRing f b g).ringsEmpty = true := by
  refine State.ringsEmpty_setFn h fun ⟨hu, hb⟩ => ?_
  cases b
  · exact ⟨hg _ hu, hb⟩
  · exact ⟨hu, hg _ hb⟩

/-- A packet checked makes none available. -/
theorem State.ringsEmpty_checkPacket {s : State} (p : Packet) (early : Bool) (h : s.ringsEmpty = true) :
    (s.checkPacket p early).ringsEmpty = true := by
  by_cases hk : RefusedEarly (s.ordered.screen p early)
  · rw [State.ringsEmpty_of_ground (State.checkPacket_refusedEarly hk), h]
  · rw [State.ringsEmpty_of_ground (State.checkPacket_consumes hk)]
    exact State.ringsEmpty_modRing (s := s.ordered) (fun _ hr => hr) h

/-- One packet available alone: the rings are checked by checking it. -/
theorem State.checkRings_offered {s : State} {f : Nat} {b : Bool} {bs : List Byte} (hwf : s.wf = true) (hf : f < 17)
    (hempty : s.ringsEmpty = true) (hchecks : s.checksRings f = true) (hr : (s.ring f b).Ready) (hearly : (s.ring f b).early = 0)
    (hlen : bs.length = 64) :
    (s.modRing f b (·.offered bs)).checkRings = (s.modRing f b (·.fetched bs)).checkPacket (Packet.ofBytes f b bs) false := by
  have hfns : f < s.fns.length := State.wf_fns hwf ▸ hf
  have htake := State.takePacket_offered hfns hr (State.window_wf hwf hf b) hearly hlen
  have hv : ((s.modRing f b (·.fetched bs)).checkPacket (Packet.ofBytes f b bs) false).ringsEmpty = true :=
    State.ringsEmpty_checkPacket _ _ (State.ringsEmpty_modRing (fun _ _ => rfl) hempty)
  refine State.checkRings_single (f := f) (b := b) (fun k hk c hne => ?_) ?_ hv hf
  · rw [State.ring_modRing_other _ hne]
    exact (State.ringsEmpty_iff_ring s).1 hempty k hk c
  · rw [← htake] at hv ⊢
    refine State.drainRing_one 4095 (by rw [State.checksRings_modRing, hchecks]) ?_ ((State.ringsEmpty_iff_ring _).1 hv f hf b)
    rw [State.ring_modRing _ hfns]
    exact hr.next_ne

/-- Submission to a ring with a free slot is the check of the packet submitted. -/
theorem submitPacket_checks {s : State} {h : PacketHeader} {c : Command} (hwf : s.wf = true) (hf : h.fn < 17) (hempty : s.ringsEmpty = true)
    (hchecks : s.checksRings h.fn = true) (hr : (s.ring h.fn h.bulk).Ready) (hearly : (s.ring h.fn h.bulk).early = 0) :
    submitPacket h c s = .next (((s.hostStores h.fn h.stores).modRing h.fn h.bulk (·.fetched (packetBytes h c))).checkPacket
      (Packet.ofBytes h.fn h.bulk (packetBytes h c)) false) := by
  have hu : (s.hostStores h.fn h.stores).wf = true := State.hostStores_kept (K := Kept.sound) _ _ hwf
  obtain ⟨hanswers, hready⟩ := State.answers_of_checksRings hchecks
  have hsubmit : submitPacket h c s = .next (((s.hostStores h.fn h.stores).modRing h.fn h.bulk (·.written (packetBytes h c))).doorbell
      h.fn h.bulk (((s.ring h.fn h.bulk).tail + 1) % (s.ring h.fn h.bulk).depth) 4) :=
    if_neg (by rw [show (s.hostStores h.fn h.stores).registersAnswer = true from hanswers]; decide)
  refine hsubmit.trans (congrArg _ ?_)
  exact (State.doorbell_next (s := s.hostStores h.fn h.stores) (State.wf_fns hu ▸ hf) hr hready).trans
    (State.checkRings_offered hu hf hempty hchecks hr hearly (length_packetBytes h c))

/-- Settles O11: submission is the check of its packet, and a packet that passes every check is accepted. -/
theorem packetAccepted : Obligations.PacketAccepted := by
  intro i h c s u info w n hs hwf hf hempty hchecks henable hearly hdepth _ htail p a t b hscreen hreserve hdrain hentry
  have hr : (s.ring h.fn h.bulk).Ready := ⟨henable, (State.ringsEmpty_iff_ring s).1 hempty h.fn hf h.bulk, hdepth, htail⟩
  have hclock : u.clock = b.clock := State.clock_reserved hreserve
  -- `a` is by definition the state after the fetch with its packet's place in the order of checking.
  have hok := State.checkPacket_ok (s := (s.hostStores h.fn h.stores).modRing h.fn h.bulk (·.fetched (packetBytes h c))) (p := p)
    (early := false) (i := info) (c := c) hscreen
  have haccepts := State.acceptPacket_accepts (s := b) (p := p) (order := s.dev.nextOrder) hreserve hdrain (w := w) (by rw [hclock]; exact hentry)
  rw [exec_submission hs, submitPacket_checks hwf hf hempty hchecks hr hearly]
  exact congrArg _ (hok.trans haccepts)

end Sys2Proof.Machine
end

section
/-! PROOFS. What acceptance itself does (R170, R317, R563, R713), and what a finished command commits when its seal passes (R224,
R251, R283): the objects of its own group, or the presence window's length. -/

namespace Sys2Proof.Machine

variable {s : State} {w : Work}

/-! Acceptance. -/

theorem State.wf_links (h : s.wf = true) : s.links.length = 6 := by
  simp only [State.wf, Bool.and_eq_true, decide_eq_true_eq] at h
  exact h.1.1.1.2

theorem State.accepted_shapeSet {first count : Nat} {values : List Nat} (hc : w.cmd = .shapeSet first count values) :
    s.accepted w = s.modObjects w.train (fun o => { o with
      shapes := o.shapes.mapIdx (fun i v => if first ≤ i ∧ i < first + count then values.getD (i - first) 0 else v) }) := by
  simp only [State.accepted, hc]; rfl

/-- BELLOWS_DEREGISTER in mode 0 withdraws its region as a failed access does. -/
theorem State.accepted_deregister {h : Nat} (hc : w.cmd = .bellowsDeregister h 0) : s.accepted w = s.withdraw w.fn h := by
  simp only [State.accepted, hc]; rfl

theorem State.regions_withdraw {fn h : Nat} (hf : fn < s.fns.length) :
    ((s.withdraw fn h).fn fn).regions = (s.fn fn).regions.filter (fun r => r.handle != h) := by
  rw [State.withdraw, s.fn_modFn fn _ hf]

theorem State.objects_modObjects {t : Nat} {g : Objects → Objects} (h : t < s.trains.length) :
    ((s.modObjects t g).train t).objects = g (s.train t).objects := by
  rw [State.modObjects, s.train_modTrain t _ h]

theorem State.train_modObjects_other {t : Nat} {g : Objects → Objects} {k : Nat} (h : k ≠ t) :
    (s.modObjects t g).train k = s.train k := s.train_modTrain_other t k _ h

theorem getD_mapIdx {α : Type} {xs : List α} {i : Nat} (h : i < xs.length) (f : Nat → α → α) (d : α) :
    (xs.mapIdx f).getD i d = f i (xs.getD i d) := by
  simp [List.getD_eq_getElem?_getD, h]

/-- A port that CONSORT_FORM names begins training (R563). -/
def Link.beginTraining (l : Link) : Link := { l with named := true, state := 1, expect := 0, sendSeq := 0, tries := 0, failedAt := [] }

theorem State.accepted_consortForm {card members topology ports timeout : Nat} {digest : List Byte}
    (hc : w.cmd = .consortForm card members topology ports digest timeout) :
    s.accepted w = { s with
      consort := { forming := some w.id, card := card, members := members, topology := topology, ports := ports }
      links := s.links.mapIdx (fun i l => if bit ports i then l.beginTraining else l) } := by
  simp only [State.accepted, hc]; rfl

theorem State.link_accepted_consortForm {card members topology ports timeout : Nat} {digest : List Byte}
    (hc : w.cmd = .consortForm card members topology ports digest timeout) {k : Nat} (hk : k < s.links.length) :
    (s.accepted w).link k = if bit ports k then (s.link k).beginTraining else s.link k := by
  rw [s.accepted_consortForm hc]
  exact getD_mapIdx hk _ _

/-- Settles O12: each command that acceptance changes something for by its equation. -/
theorem acceptanceEffects : Obligations.AcceptanceEffects := by
  intro s w hwf ht hfn t
  have htrain : w.train < s.trains.length := s.wf_trains hwf ▸ ht
  have hfns : w.fn < s.fns.length := s.wf_fns hwf ▸ hfn
  split
  next hc => simp only [t, State.accepted, hc]; rfl
  next first count values hc =>
    have hacc : t = _ := s.accepted_shapeSet hc
    rw [hacc]
    refine ⟨rfl, fun k hk => s.train_modObjects_other hk, fun j hj => ?_⟩
    rw [s.objects_modObjects htrain]
    exact getD_mapIdx hj _ _
  next h hc =>
    have hacc : t = _ := s.accepted_deregister hc
    rw [hacc]
    exact ⟨rfl, s.regions_withdraw hfns, fun k hk => s.fn_modFn_other _ _ _ hk⟩
  next card members topology ports digest timeout hc =>
    have hlink {k : Nat} (hk : k < 6) := s.link_accepted_consortForm hc (s.wf_links hwf ▸ hk)
    have hacc : t = _ := s.accepted_consortForm hc
    refine ⟨?_, ?_, ?_, ?_, ?_, ?_, fun k hk hb => ?_, fun k hk hb => ?_, ?_⟩
    case refine_7 => exact ⟨by rw [hlink hk, if_pos hb]; rfl, by rw [hlink hk, if_pos hb]; rfl⟩
    case refine_8 => rw [hlink hk, hb]; rfl
    all_goals rw [hacc]
  next hshutdown hshape hderegister hform =>
    unfold t State.accepted
    split
    next hc => exact absurd hc (hshutdown _)
    next hc => exact absurd hc (hshape _ _ _)
    next hc => exact absurd hc (hderegister _)
    next hc => exact absurd hc (hform _ _ _ _ _ _)
    next => rfl

/-! What the passed seal commits. -/

/-- `u` is `s` with the objects of train `k` changed by `g`, and with answers in that train's works. -/
structure ChangesObjects (k : Nat) (g : Objects → Objects) (s u : State) : Prop where
  rest : u = { s with trains := u.trains }
  others : ∀ j, j ≠ k → u.train j = s.train j
  breath : (u.train k).breath = (s.train k).breath
  objects : (u.train k).objects = g (s.train k).objects

theorem ChangesObjects.frame {k : Nat} {g : Objects → Objects} {u : State} (h : ChangesObjects k g s u) :
    u = { s with trains := u.trains } ∧ (∀ j, j ≠ k → u.train j = s.train j) ∧ (u.train k).breath = (s.train k).breath :=
  ⟨h.rest, h.others, h.breath⟩

theorem State.modObjects_changes {k : Nat} (g : Objects → Objects) (h : k < s.trains.length) :
    ChangesObjects k g s (s.modObjects k g) :=
  ⟨rfl, fun _ hj => s.train_modObjects_other hj, by rw [State.modObjects, s.train_modTrain k _ h], s.objects_modObjects h⟩

/-- The detail of the command's reply. -/
def State.answer (s : State) (w : Work) (d : List Byte) : State := s.modWork w.train w.id (fun v => { v with detail := d })

theorem State.train_answer (h : w.train < s.trains.length) (d : List Byte) :
    (s.answer w d).train w.train = (s.train w.train).modWork w.id (fun v => { v with detail := d }) :=
  s.train_modWork _ _ _ h

theorem State.modObjects_answer_changes (g : Objects → Objects) (h : w.train < s.trains.length) (d : List Byte) :
    ChangesObjects w.train g s ((s.modObjects w.train g).answer w d) := by
  have hobj := State.modObjects_changes g h
  have htrain := State.train_answer (s := s.modObjects w.train g) (by simpa [State.modObjects] using h) d
  refine ⟨rfl, fun j hj => ?_, ?_, ?_⟩
  · exact (State.train_modTrain_other _ _ _ _ hj).trans (hobj.others j hj)
  · rw [htrain]; exact hobj.breath
  · rw [htrain]; exact hobj.objects

/-- An object registered takes the next handle of its kind. -/
theorem State.commitWork_modelLoad {digest : List Byte} {addr len format : Nat} (hc : w.cmd = .modelLoad digest addr len format) :
    s.commitWork w = (s.modObjects w.train (fun o => { o with
      models := o.models ++ [{
        handle := s.nextHandle w.train 0, fn := w.fn, addr := addr, length := len, format := format, digest := digest }]
      : Objects }.took 0 (s.nextCount w.train 0))).answer w (leBytes 4 (s.nextHandle w.train 0)) := by
  simp only [State.commitWork, hc]; rfl

theorem State.commitWork_stopPin {model first cores : Nat} (hc : w.cmd = .stopPin model first cores) :
    s.commitWork w = (s.modObjects w.train (fun o => { o with
      residencies := o.residencies ++ [{
        handle := s.nextHandle w.train 1, fn := w.fn, model := model, firstCore := first, cores := cores }]
      : Objects }.took 1 (s.nextCount w.train 1))).answer w (leBytes 4 (s.nextHandle w.train 1) ++ leBytes 4 (cores * slabBytes)) := by
  simp only [State.commitWork, hc]; rfl

theorem State.commitWork_progRegister {addr count : Nat} (hc : w.cmd = .progRegister addr count) :
    s.commitWork w = (s.modObjects w.train (fun o => { o with
      programs := o.programs ++ [{
        handle := s.nextHandle w.train 2, fn := w.fn, addr := addr, count := count, digest := sha256 w.descriptors.flatten }]
      : Objects }.took 2 (s.nextCount w.train 2))).answer w (leBytes 4 (s.nextHandle w.train 2)) := by
  simp only [State.commitWork, hc]; rfl

theorem State.commitWork_stopRelease {h : Nat} (hc : w.cmd = .stopRelease h) :
    s.commitWork w = s.modObjects w.train (·.dropResidency h) := by simp only [State.commitWork, hc]

theorem State.commitWork_modelRelease {h : Nat} (hc : w.cmd = .modelRelease h) :
    s.commitWork w = s.modObjects w.train (fun o => { o with models := o.models.filter (·.handle != h) }) := by
  simp only [State.commitWork, hc]

theorem State.commitWork_progRelease {h : Nat} (hc : w.cmd = .progRelease h) :
    s.commitWork w = s.modObjects w.train (fun o => { o with programs := o.programs.filter (·.handle != h) }) := by
  simp only [State.commitWork, hc]

theorem State.commitWork_vidClose {h : Nat} (hc : w.cmd = .vidClose h) :
    s.commitWork w = s.modObjects w.train (fun o => { o with sessions := o.sessions.filter (·.handle != h) }) := by
  simp only [State.commitWork, hc]

theorem State.commitWork_presenceSet {n : Nat} (hc : w.cmd = .presenceSet n) :
    s.commitWork w = (s.modPresence (fun x => { x with length := n })).answer w (leBytes 2 s.presence.length) := by
  simp only [State.commitWork, hc]; rfl

/-- Settles O60: each command by its equation; registering and releasing change the objects of the command's own train alone. -/
theorem commitsAtThePassedSeal : Obligations.CommitsAtThePassedSeal := by
  intro s w hwf ht o t p
  have hlt : w.train < s.trains.length := s.wf_trains hwf ▸ ht
  have registered {g : Objects → Objects} {d : List Byte} (h : t = (s.modObjects w.train g).answer w d) :
      ChangesObjects w.train g s t := h ▸ State.modObjects_answer_changes g hlt d
  have released {g : Objects → Objects} (h : t = s.modObjects w.train g) : ChangesObjects w.train g s t :=
    h ▸ State.modObjects_changes g hlt
  refine ⟨fun digest addr len format hc => ?_, fun model first cores hc => ?_, fun addr count hc => ?_, fun h hc => ?_, fun h hc => ?_,
    fun h hc => ?_, fun h hc => ?_, fun n hc => ?_⟩
  · have hreg := registered (s.commitWork_modelLoad hc)
    exact ⟨hreg.frame, by rw [show p = _ from hreg.objects]; rfl⟩
  · have hreg := registered (s.commitWork_stopPin hc)
    exact ⟨hreg.frame, by rw [show p = _ from hreg.objects]; rfl⟩
  · have hreg := registered (s.commitWork_progRegister hc)
    exact ⟨hreg.frame, by rw [show p = _ from hreg.objects]; rfl⟩
  · have hrel := released (s.commitWork_stopRelease hc)
    exact ⟨hrel.frame, hrel.objects⟩
  · have hrel := released (s.commitWork_modelRelease hc)
    exact ⟨hrel.frame, hrel.objects⟩
  · have hrel := released (s.commitWork_progRelease hc)
    exact ⟨hrel.frame, hrel.objects⟩
  · have hrel := released (s.commitWork_vidClose hc)
    exact ⟨hrel.frame, hrel.objects⟩
  · have hset : t = _ := s.commitWork_presenceSet hc
    have htrain := State.train_answer (s := s.modPresence (fun x => { x with length := n })) hlt (leBytes 2 s.presence.length)
    rw [← hset] at htrain
    refine ⟨by rw [hset]; rfl, ?_, by rw [hset]; rfl⟩
    unfold p
    rw [htrain]; rfl

end Sys2Proof.Machine
end

section
/-! PROOFS. The ends of effects outside the Reed cores (R170, R198, R491, R687, R690, R692), and power and links (R179, R797 to R800,
R804, R810, R813). -/

namespace Sys2Proof.Machine

variable {s : State}

/-! Retirement (R491). -/

theorem State.hbm_modPart (s : State) (i : Nat) {g : Part → Part} (hg : ∀ x, (g x).hbm = x.hbm) :
    (s.modPart i g).parts.map (·.hbm) = s.parts.map (·.hbm) := map_set_getD s.parts i _ hg

/-- What the entry of a page in the table does beside the events that report a full table. -/
structure PageRetired (p q : Nat) (s u : State) : Prop where
  retired : u.dev.retired = s.dev.retired ++ [(p, q)]
  trains : u.trains = s.trains
  hbm : u.parts.map (·.hbm) = s.parts.map (·.hbm)

/-- The report of a table that fills up. -/
theorem PageRetired.reported {p q : Nat} {u : State} (h : PageRetired p q s u) {g : Device → Device} {c v x f : Nat} {b : List Byte}
    (hg : ∀ d, (g d).retired = d.retired) : PageRetired p q s ((u.modDev g).raiseD c v x f b) := by
  have hev := (u.modDev g).raiseD_onlyEvents c v x f b
  refine ⟨?_, hev.trains.trans h.trains, (congrArg (List.map (·.hbm)) hev.parts).trans h.hbm⟩
  rw [hev.dev, ← h.retired]
  exact hg _

theorem State.retirePage_retired (s : State) (p q : Nat) : PageRetired p q s (s.retirePage p q) := by
  unfold State.retirePage
  extract_lets listed marked n high
  have hmarked : PageRetired p q s marked := ⟨rfl, rfl, State.hbm_modPart _ p fun _ => rfl⟩
  have hhigh : PageRetired p q s high := by
    unfold high
    split
    · exact hmarked.reported fun _ => rfl
    · exact hmarked
  split
  · exact hhigh.reported fun _ => rfl
  · exact hhigh

theorem exec_retireFlashWriteDone {w : Work} {a : Nat} (hp : s.powered = true) (hw : s.oldestOutside 0x25 = some w)
    (hc : w.cmd = .retirePage a) (hcard : s.onCard a = true) (hroom : s.dev.retired.length < 4096) :
    let place := mapHbm w.train (s.groupSize w.train) (s.localAddr a)
    s.dev.retired.contains (place.1, place.2 / 65536) = false →
    ∃ d, exec .retireFlashWriteDone s = .next ((s.retirePage place.1 (place.2 / 65536)).finishWork w.train w.id 0 d) := by
  intro place hnew
  have hnew' : s.dev.retired.contains ((mapHbm w.train (s.groupSize w.train) (s.localAddr a)).1,
    (mapHbm w.train (s.groupSize w.train) (s.localAddr a)).2 / pageBytes) = false := hnew
  simp only [exec, execRetireFlashWriteDone, hw, hc, hp, hcard, hnew', Bool.not_true, Bool.false_eq_true, if_false,
    if_neg (Nat.not_le.2 hroom)]
  exact ⟨_, rfl⟩

/-! Firmware images (R687). -/

/-- The image is good as read back: it is in its bank, and the bank is selected if asked. -/
def State.installImage (s : State) (w : Work) (target activate : Nat) : State :=
  let u := s.modBank target (fun _ => { image := w.auxBytes })
  if activate = 1 then u.modDev (fun d => { d with selector := target }) else u

theorem State.installImage_eq (s : State) (w : Work) (target activate : Nat) : s.installImage w target activate =
    s.modDev (fun d => { d with
      banks := modAt d.banks target (fun _ => { image := w.auxBytes }), selector := if activate = 1 then target else d.selector }) := by
  unfold State.installImage
  dsimp only
  split <;> rfl

theorem getD_modAt {α : Type} {xs : List α} {i : Nat} (h : i < xs.length) (g : α → α) (d : α) :
    (modAt xs i g).getD i d = g (xs.getD i d) := by
  simp [modAt, List.getD_eq_getElem?_getD, h]

theorem exec_fwImageWritten_good {w : Work} {r : SlotRef} {target activate : Nat} (hw : s.oldestOutside 0xB0 = some w)
    (hc : w.cmd = .fwUpdate r target activate) {good : Bool}
    (h : (good && (s.imageProblem w.auxBytes w.auxBytes.length).isNone) = true) :
    ∃ d, exec (.fwImageWritten good) s = .next ((s.installImage w target activate).finishWork w.train w.id 0 d) := by
  simp only [exec, execFwImageWritten, hw, hc, if_pos (Bool.and_eq_true_iff.1 h)]
  exact ⟨_, rfl⟩

/-- A failed write leaves the device alone: its bank counts as empty from the start of the write (DEDUCED, assumption 67). -/
theorem exec_fwImageWritten_bad {w : Work} {r : SlotRef} {target activate : Nat} (hw : s.oldestOutside 0xB0 = some w)
    (hc : w.cmd = .fwUpdate r target activate) {good : Bool}
    (h : ¬ (good && (s.imageProblem w.auxBytes w.auxBytes.length).isNone) = true) :
    exec (.fwImageWritten good) s = .next (s.failWork w.train w.id (badParam 0x1408)) := by
  simp only [exec, execFwImageWritten, hw, hc, if_neg (mt Bool.and_eq_true_iff.2 h)]

/-! The other effects. -/

theorem exec_ownerKeyStored {w : Work} (hw : s.oldestOutside 0xB1 = some w) : exec .ownerKeyStored s =
    .next ((s.modDev (fun d => { d with ownerKey := w.auxBytes })).finishWork w.train w.id 0 ((sha256 w.auxBytes).take 8)) := by
  simp only [exec, execOwnerKeyStored, hw]

theorem exec_attestQuoteSigned {w : Work} (hw : s.oldestOutside 0xB4 = some w) :
    exec .attestQuoteSigned s = .next (s.finishWork w.train w.id 0 []) := by
  simp only [exec, execAttestQuoteSigned, hw]

theorem exec_deregisterAccessesDone {fn region : Nat} {w : Work}
    (hw : s.allWorks.find? (fun w => w.fn == fn && w.stage == .outside && (w.cmd == .bellowsDeregister region 0
      || (w.cmd == .bellowsDeregister region 1 && w.aux != []))) = some w) :
    exec (.deregisterAccessesDone fn region) s = .next (s.finishWork w.train w.id 0 (leBytes 2 (w.aux.headD 0))) := by
  simp only [exec, execDeregisterAccessesDone, hw]

theorem exec_shutdownCommitDone {w : Work} {ws : List Work} (hw : s.outside (fun c => c.opcode == 0x03) = w :: ws)
    (hdone : s.dev.state = .shuttingDown ∧ s.allIdle = true ∧ s.ledger.open_ = [] ∧ s.nothingToCommit = true) :
    exec .shutdownCommitDone s = .next (s.finishWork adminTrain w.id 0
      (leBytes 8 ((s.ledger.flash.map Folio.lastSeq).foldl max s.ledger.committed))) := by
  simp only [exec, execShutdownCommitDone, hw, if_pos hdone]

/-! The outcomes. -/

theorem State.works_finishWork_ended {t id status : Nat} {d : List Byte} (h : t < s.trains.length) :
    ∀ v ∈ ((s.finishWork t id status d).train t).works, v.id = id → v.stage = .finished ∧ v.status = status := fun v hv hid => by
  obtain ⟨hstage, hstatus, _⟩ := s.works_finishWork h v hv hid
  exact ⟨hstage, hstatus⟩

theorem State.works_failWork {t id : Nat} {r : Refuse} (h : t < s.trains.length) :
    ∀ v ∈ ((s.failWork t id r).train t).works, v.id = id → v.stage = .finished ∧ v.status = r.status :=
  State.works_finishWork_ended (d := r.detail) h

/-- Settles O44: each effect's end by its equation, and the outcome by what finishing or failing a work does. -/
theorem outsideEffectsEnd : Obligations.OutsideEffectsEnd := by
  have hlength {s : State} {k : Nat} (hwf : s.wf = true) (hk : k < 17) : k < s.trains.length := s.wf_trains hwf ▸ hk
  refine ⟨fun s w a hwf hp ht hw hc hcard hroom => ?_, fun s w r target activate hwf ht hbanks htarget hw hc good => ?_,
    fun s w hwf ht hw => ?_, fun s w hwf ht hw => ?_, fun s fn region w hwf ht hw => ?_, fun s w ws hwf hw hstate hidle hopen hnone => ?_⟩
  · intro place hnew
    obtain ⟨d, hexec⟩ := exec_retireFlashWriteDone hp hw hc hcard hroom hnew
    have hpage := s.retirePage_retired place.1 (place.2 / 65536)
    exact ⟨_, hexec, hpage.retired, State.works_finishWork_ended (hpage.trains ▸ hlength hwf ht), hpage.hbm⟩
  · by_cases h : (good && (s.imageProblem w.auxBytes w.auxBytes.length).isNone) = true
    · obtain ⟨d, hexec⟩ := exec_fwImageWritten_good hw hc h
      rw [s.installImage_eq] at hexec
      refine ⟨_, hexec, rfl, ?_⟩
      rw [if_pos h]
      exact ⟨congrArg Bank.image (getD_modAt (hbanks ▸ htarget) _ _), rfl, rfl, State.works_finishWork_ended (hlength hwf ht)⟩
    · refine ⟨_, exec_fwImageWritten_bad hw hc h, rfl, ?_⟩
      rw [if_neg h]
      exact ⟨rfl, State.works_failWork (hlength hwf ht)⟩
  · exact ⟨_, exec_ownerKeyStored hw, rfl, State.works_finishWork_ended (hlength hwf ht), rfl⟩
  · exact ⟨_, exec_attestQuoteSigned hw, State.works_finishWork_ended (hlength hwf ht), rfl⟩
  · exact ⟨_, exec_deregisterAccessesDone hw, State.works_finishWork_ended (hlength hwf ht), rfl⟩
  · exact ⟨_, exec_shutdownCommitDone hw ⟨hstate, hidle, hopen, hnone⟩,
      State.works_finishWork_ended (hlength hwf (by decide)), rfl⟩

/-! Power and links. -/

theorem State.powerFail_powered (h : s.powered = true) (cause : Nat) : s.powerFail cause =
    s.modBoard (fun b => { b with holdUp := true, alert := false, tripCause := if b.tripCause = 0 then cause else b.tripCause }) := by
  simp only [State.powerFail, h, if_true]

/-- A warning that latches no cause leaves the first one. -/
theorem tripCause_warning (first cause : Nat) : (if first = 0 then (if cause = 1 ∨ cause = 2 then 2 else 0) else first) =
    if first = 0 ∧ (cause = 1 ∨ cause = 2) then 2 else first := by
  split_ifs <;> omega

/-- Settles O54: each happening by its branch of the model; the first cause stays latched. -/
theorem powerAndLinks : Obligations.PowerAndLinks := by
  refine ⟨fun s i x hp hx htrip => ?_, fun s cause hp => ?_, fun s h => ?_, fun s => rfl, fun s => rfl, fun s gen width hp hperst => ?_,
    fun s port lanes metres passive active hwf hport => ?_⟩
  · simp only [exec, execThermalTrip, hx, if_pos htrip, State.powerFail_powered hp]; rfl
  · simp only [exec, execPowerFailWarning, State.powerFail_powered hp, State.modBoard, tripCause_warning]
  · simp only [exec, execHoldUpEnd, h, if_true]; rfl
  · simp only [exec, execPcieLinkRetrain, hp, hperst, Bool.not_false, Bool.and_self, if_true]; rfl
  · have hlink : port < s.links.length := by rw [s.wf_links hwf]; omega
    refine ⟨_, by simp only [exec, execModuleInserted, if_pos hport]; rfl, rfl, s.link_modLink _ _ hlink, fun q hq => ?_⟩
    exact s.link_modLink_other _ _ _ hq

end Sys2Proof.Machine
end

section
/-! PROOFS. Failed accesses to the Bellows (R168, R169): the commands that need a slot or name a region end, whatever their progress;
what they did to a sequence or session is taken back, and clock, AER and the regions' handles stay. -/

namespace Sys2Proof.Machine

variable (s : State)

/-! Commands ended from outside. -/

/-- A change of works that touches nothing but how a work ends, and leaves a finished one finished. -/
structure EndChange (f : Work → Work) : Prop where
  rest : ∀ w, f w = { w with
    stage := (f w).stage, status := (f w).status, detail := (f w).detail, stepsAdmitted := (f w).stepsAdmitted, cut := (f w).cut
    extra := (f w).extra }
  finished : ∀ w, w.stage = .finished → (f w).stage = .finished

theorem EndChange.refl : EndChange fun w => w := ⟨fun _ => rfl, fun _ h => h⟩

theorem EndChange.comp {f g : Work → Work} (hg : EndChange g) (hf : EndChange f) : EndChange fun w => g (f w) :=
  ⟨fun w => by rw [hg.rest, hf.rest], fun w h => hg.finished _ (hf.finished w h)⟩

theorem EndChange.id {f : Work → Work} (hf : EndChange f) (w : Work) : (f w).id = w.id := by rw [hf.rest]

theorem EndChange.only (id : Nat) {g : Work → Work} (hg : EndChange g) : EndChange fun w => if w.id == id then g w else w := by
  refine ⟨fun w => ?_, fun w => ?_⟩
  · split
    · exact hg.rest w
    · rfl
  · split
    · exact hg.finished w
    · exact fun h => h

/-- `u` is `s` with commands ended, and what they did taken back. -/
structure CommandsEnd (s u : State) : Prop where
  clock : u.clock = s.clock
  aer : u.out.aer = s.out.aer
  fns : u.fns.length = s.fns.length
  handles : ∀ i, (u.fn i).regions.map (·.handle) = (s.fn i).regions.map (·.handle)
  trains : u.trains.length = s.trains.length
  works : ∀ k, ∃ f, EndChange f ∧ (u.train k).works = (s.train k).works.map f

theorem CommandsEnd.of_eq {s u : State} (clock : u.clock = s.clock := by rfl) (aer : u.out.aer = s.out.aer := by rfl)
    (fns : u.fns = s.fns := by rfl) (trains : u.trains = s.trains := by rfl) : CommandsEnd s u :=
  ⟨clock, aer, by rw [fns], fun i => by rw [State.fn, fns]; rfl, by rw [trains],
    fun k => ⟨_, .refl, by rw [State.train, trains, List.map_id']; rfl⟩⟩

theorem CommandsEnd.refl : CommandsEnd s s := .of_eq

variable {s} in
theorem CommandsEnd.trans {u v : State} (h : CommandsEnd s u) (k : CommandsEnd u v) : CommandsEnd s v := by
  refine ⟨k.clock.trans h.clock, k.aer.trans h.aer, k.fns.trans h.fns, fun i => (k.handles i).trans (h.handles i),
    k.trains.trans h.trains, fun j => ?_⟩
  obtain ⟨f, hf, hu⟩ := h.works j
  obtain ⟨g, hg, hv⟩ := k.works j
  exact ⟨_, hg.comp hf, by rw [hv, hu, List.map_map]; rfl⟩

theorem CommandsEnd.foldl {α : Type} {f : State → α → State} (hf : ∀ u a, CommandsEnd u (f u a)) (xs : List α) :
    CommandsEnd s (xs.foldl f s) :=
  List.foldlRecOn (motive := CommandsEnd s) xs f (.refl s) fun u hu a _ => hu.trans (hf u a)

/-- A change of a train that ends works of it. -/
theorem CommandsEnd.modTrain (t : Nat) {g : Train → Train} {f : Work → Work} (hf : EndChange f)
    (hg : ∀ x, (g x).works = x.works.map f) :
    CommandsEnd s (s.modTrain t g) := by
  refine ⟨rfl, rfl, rfl, fun _ => rfl, s.length_modTrain t g, fun k => ?_⟩
  rcases s.train_modTrain_any t g k with h | ⟨_, h⟩
  · exact ⟨_, .refl, by rw [h, List.map_id']⟩
  · exact ⟨f, hf, by rw [h, hg]⟩

/-- A change of a train that leaves its works. -/
theorem CommandsEnd.modTrain_same (t : Nat) {g : Train → Train} (hg : ∀ x, (g x).works = x.works := by exact fun _ => rfl) :
    CommandsEnd s (s.modTrain t g) :=
  .modTrain s t .refl fun x => by rw [hg, List.map_id']

theorem CommandsEnd.modWork (t id : Nat) {g : Work → Work} (hg : EndChange g) : CommandsEnd s (s.modWork t id g) :=
  .modTrain s t (hg.only id) fun _ => rfl

/-- A change of a function that keeps the handles of its regions. -/
theorem CommandsEnd.modFn (i : Nat) {g : Function → Function} (hg : ∀ f, (g f).regions.map (·.handle) = f.regions.map (·.handle)) :
    CommandsEnd s (s.modFn i g) := by
  refine ⟨rfl, rfl, List.length_set .., fun j => ?_, rfl, fun k => ⟨_, .refl, (List.map_id' _).symm⟩⟩
  rcases s.fn_modFn_any i g j with h | h
  · rw [h]
  · rw [h, hg]

theorem State.endWork_ends (t id : Nat) (r : Refuse) : CommandsEnd s (s.endWork t id r) :=
  (CommandsEnd.modTrain_same s t).trans (.modWork _ t id (g := fun w => w.fail r) ⟨fun _ => rfl, fun _ _ => rfl⟩)

/-! What is taken back (R464, R488, R530). -/

theorem Function.handles_modRegion (f : Function) (h : Nat) {g : Region → Region} (hg : ∀ r, (g r).handle = r.handle) :
    (f.modRegion h g).regions.map (·.handle) = f.regions.map (·.handle) := by
  rw [Function.modRegion, List.map_map]
  refine List.map_congr_left fun r _ => ?_
  simp only [Function.comp_apply]
  split
  · exact hg r
  · rfl

theorem State.slotWrite_ends (f : Nat) (r : Region) (a : Nat) (bs : List Byte) (p : Bool) : CommandsEnd s (s.slotWrite f r a bs p) := by
  unfold State.slotWrite
  split
  · exact .refl s
  · exact .of_eq

theorem State.releaseSlot_ends (fn h slot : Nat) : CommandsEnd s (s.releaseSlot fn h slot) := by
  unfold State.releaseSlot
  split
  · exact .refl s
  · split
    · exact .refl s
    · refine CommandsEnd.trans ?_ (.modFn _ fn fun f => f.handles_modRegion h fun _ => rfl)
      split
      · exact .refl s
      · exact s.slotWrite_ends ..

theorem State.undoSequence_ends (t : Nat) (old : List Memory) (p : Pool) (j : Nat) : CommandsEnd s (s.undoSequence t old p j) := by
  unfold State.undoSequence
  exact .trans (CommandsEnd.foldl s (fun _ _ => .of_eq) _) (.foldl _ (fun u _ => u.releaseSlot_ends ..) _)

theorem State.undoAppends_ends (t : Nat) (w : Work) : CommandsEnd s (s.undoAppends t w) := by
  unfold State.undoAppends
  extract_lets back
  have hback (h : Nat) (old : List Memory) : CommandsEnd s (back h old) := by
    unfold back
    split
    · exact s.undoSequence_ends ..
    · exact .refl s
  split
  · split
    · exact .refl s
    · exact hback _ _
  · split
    · exact hback _ _
    · exact .refl s
  · split
    · split
      · exact .refl s
      · exact .modTrain_same s t
    · exact .refl s
  · exact .refl s

theorem State.undoFinished_ends (t : Nat) (w : Work) : CommandsEnd s (s.undoFinished t w) := by
  unfold State.undoFinished
  split
  · exact .refl s
  · exact s.undoAppends_ends t w

variable {s} in
theorem State.undoFinished_live {w : Work} (h : w.live = true) (t : Nat) : s.undoFinished t w = s := by
  simp [State.undoFinished, h]

/-! The ends. -/

/-- `u` is `s` with commands ended that have nothing to take back: functions and partitions stay. -/
structure LiveEnd (s u : State) : Prop where
  ends : CommandsEnd s u
  fns : u.fns = s.fns
  parts : u.parts = s.parts

variable {s} in
theorem LiveEnd.trans {u v : State} (h : LiveEnd s u) (k : LiveEnd u v) : LiveEnd s v :=
  ⟨h.ends.trans k.ends, k.fns.trans h.fns, k.parts.trans h.parts⟩

theorem LiveEnd.refl : LiveEnd s s := ⟨.refl s, rfl, rfl⟩

theorem State.notePositions_ends (w : Work) (h : Nat) : LiveEnd s (s.notePositions w h) := by
  unfold State.notePositions
  split
  · exact ⟨.modWork s _ _ ⟨fun _ => rfl, fun _ hw => hw⟩, rfl, rfl⟩
  · exact .refl s

theorem State.noteOwn_ends (w : Work) : LiveEnd s (s.noteOwn w) := by
  unfold State.noteOwn
  split
  · exact .refl s
  · split
    · exact s.notePositions_ends ..
    · exact s.notePositions_ends ..
    · exact .refl s

/-- One command ended by the failure of an access. -/
def State.endOne (t : Nat) (r : Refuse) (s : State) (w : Work) : State :=
  let u := if (s.train t).checkpoint.any (fun c => c.work == w.id) then s.modTrain t (fun x => { x with checkpoint := none }) else s
  let v := if u.dev.stopWork = some w.id then u.restartStopped else u
  (v.noteOwn w).endWork t w.id r

theorem State.endWorks_eq (t : Nat) (ws : List Work) (r : Refuse) :
    s.endWorks t ws r = ws.foldl (State.endOne t r) (ws.reverse.foldl (fun u w => u.undoFinished t w) s) := rfl

theorem State.restartStopped_ends : LiveEnd s s.restartStopped := by
  rw [State.restartStopped_eq]
  have hleaders : LiveEnd s (s.leaders.foldl (fun u k => u.modTrain k Train.restarted) s) :=
    List.foldlRecOn (motive := LiveEnd s) _ _ (.refl s) fun u hu k _ =>
      hu.trans ⟨.modTrain_same u k Train.restarted_works, rfl, rfl⟩
  exact hleaders.trans ⟨.of_eq, rfl, rfl⟩

/-- The end is that of the work itself, after what hangs on it has been ended. -/
theorem State.endOne_eq (t : Nat) (r : Refuse) (w : Work) : ∃ u, LiveEnd s u ∧ s.endOne t r w = u.endWork t w.id r := by
  unfold State.endOne
  extract_lets u v
  have hu : LiveEnd s u := by
    unfold u
    split
    · exact ⟨.modTrain_same s t, rfl, rfl⟩
    · exact .refl s
  have hv : LiveEnd u v := by
    unfold v
    split
    · exact u.restartStopped_ends
    · exact .refl u
  exact ⟨_, (hu.trans hv).trans (v.noteOwn_ends w), rfl⟩

theorem State.endOne_ends (t : Nat) (r : Refuse) (w : Work) : LiveEnd s (s.endOne t r w) := by
  obtain ⟨u, hu, h⟩ := s.endOne_eq t r w
  rw [h]
  exact hu.trans ⟨u.endWork_ends t w.id r, rfl, rfl⟩

theorem State.endOne_works {t : Nat} (h : t < s.trains.length) (r : Refuse) (w : Work) :
    ∀ v ∈ ((s.endOne t r w).train t).works, v.id = w.id → v.stage = .finished ∧ v.status = r.status := by
  obtain ⟨u, hu, he⟩ := s.endOne_eq t r w
  rw [he]
  exact u.works_endWork (hu.ends.trains ▸ h)

theorem State.endWorks_ends (t : Nat) (ws : List Work) (r : Refuse) : CommandsEnd s (s.endWorks t ws r) := by
  rw [State.endWorks_eq]
  exact (CommandsEnd.foldl s (fun u w => u.undoFinished_ends t w) _).trans (.foldl _ (fun u w => (u.endOne_ends t r w).ends) _)

/-! What a slot read that fails leaves (R168). -/

theorem Work.retireSlot_held (w : Work) (region slot gen : Nat) :
    ∃ h ∈ (w.retireSlot region slot gen).held, h.ref.region = region ∧ h.ref.slot = slot ∧ h.retired = true := by
  unfold Work.retireSlot
  extract_lets here ref
  split
  next hany =>
    obtain ⟨h, hmem, hhere⟩ := List.any_eq_true.1 hany
    have href : h.ref.region = region ∧ h.ref.slot = slot := by simpa [here] using hhere
    exact ⟨_, List.mem_map_of_mem hmem, by rw [if_pos hhere]; exact ⟨href.1, href.2, rfl⟩⟩
  next =>
    have href : ref.region = region ∧ ref.slot = slot := by
      unfold ref
      cases hfind : ((namedSlots w.refs).map (·.2)).find? (fun r => r.region == region && r.slot == slot) with
      | none => exact ⟨rfl, rfl⟩
      | some r => simpa using List.find?_some hfind
    exact ⟨_, List.mem_append_right _ List.mem_cons_self, href.1, href.2, rfl⟩

theorem Work.retireSlot_stage (w : Work) (region slot gen : Nat) : (w.retireSlot region slot gen).stage = w.stage := by
  unfold Work.retireSlot; dsimp only; split <;> rfl
theorem Work.retireSlot_status (w : Work) (region slot gen : Nat) : (w.retireSlot region slot gen).status = w.status := by
  unfold Work.retireSlot; dsimp only; split <;> rfl

/-- The works that needed the slot, as a failed read marks them. -/
def Work.slotFailed (region slot gen : Nat) (waited : Bool) (w : Work) : Work :=
  { w.retireSlot region slot gen with unexecuted := w.unexecuted || waited }

/-- A work of that id found after a change of the works of that id is one of them changed. -/
theorem Train.mem_modWork {x : Train} {id : Nat} {g : Work → Work} {v : Work}
    (h : v ∈ (x.modWork id g).works) (hv : v.id = id) : ∃ u ∈ x.works, u.id = id ∧ v = g u := by
  obtain ⟨u, hu, rfl⟩ := List.mem_map.1 h
  by_cases hid : u.id = id
  · exact ⟨u, hu, hid, by simp [hid]⟩
  · exact absurd hv (by simp [hid])

theorem State.bellowsFault_onlyEvents (fn region slot code : Nat) (b : Bool) :
    OnlyEvents { s with out := { s.out with aer := (fn, code) :: s.out.aer } } (s.bellowsFault fn region slot code b) :=
  State.raiseF_onlyEvents ..

section
variable (fn region slot code : Nat) (b : Bool)

theorem State.bellowsFault_clock : (s.bellowsFault fn region slot code b).clock = s.clock := (s.bellowsFault_onlyEvents ..).clock
theorem State.bellowsFault_parts : (s.bellowsFault fn region slot code b).parts = s.parts := (s.bellowsFault_onlyEvents ..).parts
theorem State.bellowsFault_train (k : Nat) : (s.bellowsFault fn region slot code b).train k = s.train k := by
  rw [State.train, (s.bellowsFault_onlyEvents ..).trains]; rfl
theorem State.bellowsFault_aer : (s.bellowsFault fn region slot code b).out.aer = (fn, code) :: s.out.aer := by
  rw [(s.bellowsFault_onlyEvents ..).rest]
theorem State.bellowsFault_regions (i : Nat) : ((s.bellowsFault fn region slot code b).fn i).regions = (s.fn i).regions := by
  rw [(s.bellowsFault_onlyEvents ..).fn i]; rfl
end

variable {s}

theorem exec_slotReadFailed (poison : Bool) (fn region slot : Nat) :
    exec (if poison then .bellowsPoisonedCompletion fn region slot else .bellowsCompletionTimeout fn region slot) s =
      .next (s.slotReadFailed fn region slot (if poison then 1 else 2)) := by
  cases poison <;> rfl

section
variable {fn region slot : Nat} {r : Region} {w : Work} (hr : (s.fn fn).region? region = some r)
  (hspill : r.spill = false ∨ r.claim? slot = none)
  (hw : s.allWorks.find? (fun w => w.fn == fn && w.slots.contains (region, slot)) = some w) (hends : w.live = true ∨ w.status = 0)
include hr hspill hw hends

/-- R168 of a slot that no spill region has claimed: the command that needed it ends, also one that has finished without an error
(DEDUCED, assumption 52), its slot is marked, the error is reported. -/
theorem State.slotReadFailed_eq (code : Nat) : s.slotReadFailed fn region slot code =
      (((s.undoFinished w.train w).endOne w.train (bellowsBad 0x0508 region slot) w).modWork w.train w.id
        (Work.slotFailed region slot ((r.last slot + 1) % 256) (w.stage == .waiting))).bellowsFault fn region slot code false := by
  have hclaimed : (r.spill && (r.claim? slot).isSome) = false := by rcases hspill with h | h <;> simp [h]
  have hends' : (w.live || decide (w.status = 0)) = true := by simpa using hends
  simp only [State.slotReadFailed, hr, Option.any_some, hclaimed, Bool.false_eq_true, if_false, hw, if_pos hends']
  rfl

/-- The works that are marked have ended with BAD_PARAM; of a command in progress nothing was taken back. -/
theorem State.slotReadFailed_ends (code : Nat) (ht : w.train < s.trains.length) :
    ∃ u : State, s.slotReadFailed fn region slot code = (u.modWork w.train w.id (Work.slotFailed region slot ((r.last slot + 1) % 256)
        (w.stage == .waiting))).bellowsFault fn region slot code false ∧ CommandsEnd s u
      ∧ (∀ v ∈ (u.train w.train).works, v.id = w.id → v.stage = .finished ∧ v.status = 0x12) ∧ (w.live = true → LiveEnd s u) := by
  have hundo := s.undoFinished_ends w.train w
  have hend := (s.undoFinished w.train w).endOne_ends w.train (bellowsBad 0x0508 region slot) w
  refine ⟨_, State.slotReadFailed_eq hr hspill hw hends code, hundo.trans hend.ends,
    State.endOne_works _ (hundo.trains ▸ ht) (bellowsBad 0x0508 region slot) w, fun hlive => ?_⟩
  rw [State.undoFinished_live hlive]
  exact s.endOne_ends ..

/-- R168 complete: the works of the command that needed the slot, the report, and what is left alone. -/
theorem State.slotReadFailed_outcome (code : Nat) (ht : w.train < s.trains.length) :
    let t := s.slotReadFailed fn region slot code
    (∀ v ∈ (t.train w.train).works, v.id = w.id → v.stage = .finished ∧ v.status = 0x12
      ∧ ∃ h ∈ v.held, h.ref.region = region ∧ h.ref.slot = slot ∧ h.retired = true)
    ∧ t.out.aer = (fn, code) :: s.out.aer ∧ t.clock = s.clock
    ∧ (w.live = true → (t.fn fn).regions = (s.fn fn).regions ∧ t.parts = s.parts) := by
  obtain ⟨u, heq, hend, hworks, hlive⟩ := State.slotReadFailed_ends hr hspill hw hends code ht
  rw [heq]
  dsimp only
  rw [State.bellowsFault_train, State.bellowsFault_aer, State.bellowsFault_clock, State.bellowsFault_regions,
    State.bellowsFault_parts, State.train_modWork _ _ _ _ (hend.trains ▸ ht)]
  refine ⟨fun v hv hid => ?_, congrArg _ hend.aer, hend.clock, fun h => ⟨?_, (hlive h).parts⟩⟩
  · obtain ⟨x, hx, hxid, rfl⟩ := Train.mem_modWork hv hid
    obtain ⟨hstage, hstatus⟩ := hworks x hx hxid
    exact ⟨(x.retireSlot_stage ..).trans hstage, (x.retireSlot_status ..).trans hstatus, x.retireSlot_held ..⟩
  · rw [State.modWork_fn_at, State.fn, (hlive h).fns]; rfl

end

/-! What a failed request to a region leaves (R169). -/

/-- The command names the region by a slot, or by a spill window that it reads or writes. -/
def Work.NamesRegion (w : Work) (fn region : Nat) : Prop :=
  (w.fn = fn ∧ w.slots.any (·.1 == region) = true)
    ∨ (w.train + 1 = fn ∧ (w.reads ++ w.writes).any (fun x => isSpill x.start && spillHandle x.start == region) = true)

theorem Work.NamesRegion.namesRegion {w : Work} {fn region : Nat} (h : w.NamesRegion fn region) (s : State) :
    s.namesRegion w fn region = true := by
  unfold State.namesRegion
  rcases h with ⟨hfn, hslots⟩ | ⟨htrain, hspill⟩
  · simp [hfn, hslots]
  · rw [htrain, hspill]
    simp

theorem EndChange.namesRegion {f : Work → Work} (hf : EndChange f) {w : Work} {fn region : Nat}
    (h : (f w).NamesRegion fn region) : w.NamesRegion fn region := by
  rw [hf.rest] at h
  exact h

/-- The ends of other commands leave a finished work finished. -/
theorem CommandsEnd.finished {u : State} (h : CommandsEnd s u) {P : Work → Prop} (hP : ∀ f, EndChange f → ∀ w, P (f w) → P w)
    {k : Nat} (hs : ∀ w ∈ (s.train k).works, P w → w.stage = .finished) : ∀ w ∈ (u.train k).works, P w → w.stage = .finished := by
  obtain ⟨f, hf, hworks⟩ := h.works k
  rw [hworks]
  intro w hw hPw
  obtain ⟨x, hx, rfl⟩ := List.mem_map.1 hw
  exact hf.finished x (hs x hx (hP f hf x hPw))

/-- Every command of a list is ended by its number. -/
theorem State.endWorks_finished {t : Nat} (ht : t < s.trains.length) {ws : List Work} (r : Refuse) {w : Work} (hw : w ∈ ws) :
    ∀ v ∈ ((s.endWorks t ws r).train t).works, v.id = w.id → v.stage = .finished := by
  obtain ⟨as, bs, rfl⟩ := List.append_of_mem hw
  rw [State.endWorks_eq, List.foldl_append, List.foldl_cons]
  have hbefore : CommandsEnd s (as.foldl (State.endOne t r) ((as ++ w :: bs).reverse.foldl (fun u w => u.undoFinished t w) s)) :=
    (CommandsEnd.foldl s (fun u w => u.undoFinished_ends t w) _).trans (.foldl _ (fun u w => (u.endOne_ends t r w).ends) _)
  refine (CommandsEnd.foldl _ (fun u w => (u.endOne_ends t r w).ends) bs).finished (P := fun v => v.id = w.id)
    (fun f hf v h => (hf.id v).symm.trans h) fun v hv hid => ?_
  exact (State.endOne_works _ (hbefore.trains ▸ ht) r w v hv hid).1

/-- The commands of one train that hold or name a slot of the region are ended. -/
def State.endNaming (fn h : Nat) (r : Refuse) (s : State) (t : Nat) : State :=
  s.endWorks t ((s.train t).works.filter (fun w => s.namesRegion w fn h)) r

theorem State.endNaming_ends (fn h : Nat) (r : Refuse) (t : Nat) : CommandsEnd s (s.endNaming fn h r t) := s.endWorks_ends ..

theorem State.endNaming_finished (fn h : Nat) (r : Refuse) (t : Nat) :
    ∀ v ∈ ((s.endNaming fn h r t).train t).works, v.NamesRegion fn h → v.stage = .finished := by
  intro v hv hnames
  obtain ⟨f, hf, hworks⟩ := (s.endNaming_ends fn h r t).works t
  obtain ⟨w, hw, rfl⟩ := List.mem_map.1 (hworks ▸ hv)
  have hmem : w ∈ (s.train t).works.filter (fun w => s.namesRegion w fn h) :=
    List.mem_filter.2 ⟨hw, (hf.namesRegion hnames).namesRegion s⟩
  exact State.endWorks_finished (State.lt_of_mem_works hw) r hmem _ hv (hf.id w)

theorem State.endRegionWorks_eq (fn h reason slot : Nat) :
    (s.endRegionWorks fn h reason slot).1 = s.activeTrains.foldl (State.endNaming fn h (bellowsBad reason h slot)) s :=
  (List.foldl_hom Prod.fst fun _ _ => rfl).symm

theorem State.endRegionWorks_ends (fn h reason slot : Nat) : CommandsEnd s (s.endRegionWorks fn h reason slot).1 := by
  rw [State.endRegionWorks_eq]
  exact .foldl s (fun u t => u.endNaming_ends ..) _

theorem State.endRegionWorks_finished (fn h reason slot : Nat) {k : Nat} (hk : k ∈ s.activeTrains) :
    ∀ v ∈ ((s.endRegionWorks fn h reason slot).1.train k).works, v.NamesRegion fn h → v.stage = .finished := by
  rw [State.endRegionWorks_eq]
  obtain ⟨as, bs, hsplit⟩ := List.append_of_mem hk
  rw [hsplit, List.foldl_append, List.foldl_cons]
  exact (CommandsEnd.foldl _ (fun u t => u.endNaming_ends ..) bs).finished (P := (·.NamesRegion fn h)) (fun f hf v => hf.namesRegion)
    (State.endNaming_finished fn h _ k)

theorem exec_unsupportedRequest {fn region : Nat} {r : Region} (hr : (s.fn fn).region? region = some r) (abort : Bool) :
    exec (.bellowsUnsupportedRequest fn region abort) s =
      .next (((s.endRegionWorks fn region 0x0509 0xFFFF).1.withdraw fn region).bellowsFault fn region 0xFFFF
        (if abort then 4 else 3) true) := by
  simp only [exec, execBellowsUnsupportedRequest, hr]

theorem State.handles_withdraw {fn h : Nat} (hf : fn < s.fns.length) :
    ((s.withdraw fn h).fn fn).regions.map (·.handle) = ((s.fn fn).regions.map (·.handle)).filter (· != h) := by
  rw [State.regions_withdraw hf, List.filter_map]; rfl

/-- Settles O47: a slot read by `slotReadFailed_outcome`, an Unsupported Request or Completer Abort by the ends of the region's works. -/
theorem bellowsAccessFailures : Obligations.BellowsAccessFailures := by
  refine ⟨fun s fn region slot r w poison hwf ht hr hspill hw _ hends => ?_, fun s fn region abort r hwf hfn hr => ?_⟩
  · exact ⟨_, exec_slotReadFailed .., State.slotReadFailed_outcome hr hspill hw hends _ (s.wf_trains hwf ▸ ht)⟩
  · have hend := State.endRegionWorks_ends (s := s) fn region 0x0509 0xFFFF
    refine ⟨_, exec_unsupportedRequest hr abort, ?_, ?_, fun k hk v hv => ?_⟩
    · rw [State.bellowsFault_regions, State.handles_withdraw (hend.fns ▸ s.wf_fns hwf ▸ hfn), hend.handles]
    · rw [State.bellowsFault_aer]
      exact congrArg _ hend.aer
    · rw [State.bellowsFault_train] at hv
      exact State.endRegionWorks_finished fn region 0x0509 0xFFFF hk v hv

end Sys2Proof.Machine
end

section
/-! PROOFS. Writes and fills of a group's HBM (R183, R216, R473, R492). -/

namespace Sys2Proof.Machine

/-! The place of a group-local address (R473). -/

theorem mapHbm_page (k n x : Nat) : (mapHbm k n x).2 / pageBytes = x / pageBytes / n := by
  simp only [mapHbm, pageBytes]
  omega

theorem mapHbm_offset (k n x : Nat) : (mapHbm k n x).2 % pageBytes = x % pageBytes := by
  simp only [mapHbm, pageBytes]
  omega

/-- The page of an address in its partition begins at the address's own page of the group. -/
theorem unmapHbm_page (k n x : Nat) :
    unmapHbm k n (mapHbm k n x).1 ((mapHbm k n x).2 / pageBytes * pageBytes) = x / pageBytes * pageBytes := by
  have hpart : (mapHbm k n x).1 - k = x / pageBytes % n := Nat.add_sub_cancel_left ..
  rw [mapHbm_page, unmapHbm, hpart, Nat.mul_div_cancel _ (by decide), Nat.mul_mod_left, Nat.div_add_mod', Nat.add_zero]

theorem unmapHbm_mapHbm (k n x : Nat) : unmapHbm k n (mapHbm k n x).1 (mapHbm k n x).2 = x := by
  have hpart : (mapHbm k n x).1 - k = x / pageBytes % n := Nat.add_sub_cancel_left ..
  rw [unmapHbm, hpart, mapHbm_page, mapHbm_offset, Nat.div_add_mod', Nat.div_add_mod']

theorem mapHbm_inj {k n x y : Nat} (h : mapHbm k n x = mapHbm k n y) : x = y := by
  rw [← unmapHbm_mapHbm k n x, h, unmapHbm_mapHbm]

/-! What a write of HBM leaves as it is. -/

/-- `u` has the device, the consort and the partitions of `s`, these but for the bytes of their HBM. -/
structure OnlyHbm (s u : State) : Prop where
  dev : u.dev = s.dev
  consort : u.consort = s.consort
  part : ∀ p, u.part p = { s.part p with hbm := (u.part p).hbm }

theorem OnlyHbm.refl (s : State) : OnlyHbm s s := ⟨rfl, rfl, fun _ => rfl⟩

theorem OnlyHbm.trans {s u v : State} (h : OnlyHbm s u) (k : OnlyHbm u v) : OnlyHbm s v :=
  ⟨k.dev.trans h.dev, k.consort.trans h.consort, fun p => by rw [k.part p, h.part p]⟩

section
variable {s u : State} (h : OnlyHbm s u)
include h

theorem OnlyHbm.groupSize (t : Nat) : u.groupSize t = s.groupSize t := by rw [State.groupSize, h.part t]; rfl

theorem OnlyHbm.pageRetired (p q : Nat) : u.pageRetired p q = s.pageRetired p q := by
  rw [State.pageRetired, State.pageRetired, h.dev, h.part p]

theorem OnlyHbm.members (t : Nat) : u.members t = s.members t := by rw [State.members, State.members, h.part t]

theorem OnlyHbm.onCard (a : Nat) : u.onCard a = s.onCard a := by rw [State.onCard, State.onCard, h.consort]

theorem OnlyHbm.localAddr (a : Nat) : u.localAddr a = s.localAddr a := by rw [State.localAddr, State.localAddr, h.consort]

theorem OnlyHbm.rangeRetired (t a len : Nat) : u.rangeRetired t a len = s.rangeRetired t a len := by
  simp only [State.rangeRetired, h.onCard, h.localAddr, h.dev, h.members, h.pageRetired, h.groupSize]

end

/-- A change of one partition's memory is no other change. -/
theorem State.modHbm_onlyHbm (s : State) (p : Nat) (m : Memory → Memory) :
    OnlyHbm s (s.modPart p fun x => { x with hbm := m x.hbm }) := by
  refine ⟨rfl, rfl, fun q => ?_⟩
  rcases s.part_modPart_any p (fun x => { x with hbm := m x.hbm }) q with h | ⟨_, h⟩ <;> rw [h]

theorem State.hbmPut_onlyHbm (s : State) (t a : Nat) (b : Byte) : OnlyHbm s (s.hbmPut t a b) := by
  unfold State.hbmPut
  split
  · dsimp only
    split
    · exact .refl s
    · exact (s.modHbm_onlyHbm _ fun m => m.put _ b).trans ⟨rfl, rfl, fun _ => rfl⟩
  · exact ⟨rfl, rfl, fun _ => rfl⟩

theorem State.hbmWrite_onlyHbm (s : State) (t a : Nat) (bs : List Byte) : OnlyHbm s (s.hbmWrite t a bs) := by
  induction bs generalizing s a with
  | nil => exact .refl s
  | cons b bs ih => exact (s.hbmPut_onlyHbm t a b).trans (ih _ _)

/-! Reading a group on this card. -/

/-- A sound state in which `t` leads a group of partitions that this card holds alone. -/
structure OwnGroup (s : State) (t : Nat) : Prop where
  sound : s.wf = true
  alone : s.consort.member = false
  leader : t < 16
  size : 0 < s.groupSize t
  fits : t + s.groupSize t ≤ 16

/-- The byte's page of its partition is retired (R492). -/
def State.byteRetired (s : State) (t x : Nat) : Bool :=
  let place := mapHbm t (s.groupSize t) x
  s.pageRetired place.1 (place.2 / pageBytes)

section
variable {s : State} {t : Nat} (hg : OwnGroup s t)
include hg

theorem OwnGroup.onCard (x : Nat) : s.onCard x = true := by simp [State.onCard, hg.alone]
theorem OwnGroup.localAddr (x : Nat) : s.localAddr x = x := by simp [State.localAddr, hg.alone]

theorem OwnGroup.part_lt (x : Nat) : (mapHbm t (s.groupSize t) x).1 < t + s.groupSize t :=
  Nat.add_lt_add_left (Nat.mod_lt _ hg.size) t

theorem OwnGroup.part_held (x : Nat) : (mapHbm t (s.groupSize t) x).1 < s.parts.length := by
  rw [s.wf_parts hg.sound]
  exact Nat.lt_of_lt_of_le (hg.part_lt x) hg.fits

theorem OwnGroup.part_mem (x : Nat) : (mapHbm t (s.groupSize t) x).1 ∈ s.members t := by
  rw [State.members, if_pos hg.leader]
  exact List.mem_map.2 ⟨_, List.mem_range.2 (Nat.mod_lt _ hg.size), Nat.add_comm ..⟩

theorem OwnGroup.hbm_wf (x : Nat) : (s.part (mapHbm t (s.groupSize t) x).1).hbm.wf = true := by
  have hparts : s.parts.all Part.wf = true := by
    have h := hg.sound
    rw [State.wf, Bool.and_eq_true] at h
    exact h.2
  have hpart := List.all_eq_true.1 hparts _ (List.getElem_mem (hg.part_held x))
  simp only [Part.wf, Bool.and_eq_true, decide_eq_true_eq] at hpart
  obtain ⟨⟨_, hhbm⟩, _⟩ := hpart
  rw [State.part, getD_of_lt (hg.part_held x)]
  exact hhbm

theorem OwnGroup.hbmByte (x : Nat) : s.hbmByte t x = if s.byteRetired t x then 0
    else (s.part (mapHbm t (s.groupSize t) x).1).hbm.get (mapHbm t (s.groupSize t) x).2 := by
  simp only [State.hbmByte, hg.onCard, hg.localAddr, if_true]
  rfl

theorem OwnGroup.of_onlyHbm {u : State} (h : OnlyHbm s u) (hu : u.wf = true) : OwnGroup u t :=
  ⟨hu, h.consort ▸ hg.alone, hg.leader, h.groupSize t ▸ hg.size, h.groupSize t ▸ hg.fits⟩

theorem OwnGroup.hbmPut (a : Nat) (b : Byte) : OwnGroup (s.hbmPut t a b) t :=
  hg.of_onlyHbm (s.hbmPut_onlyHbm t a b) (State.hbmPut_kept (K := Kept.sound) t a b hg.sound)

theorem OwnGroup.hbmWrite (a : Nat) (bs : List Byte) : OwnGroup (s.hbmWrite t a bs) t :=
  hg.of_onlyHbm (s.hbmWrite_onlyHbm t a bs) (State.hbmWrite_kept (K := Kept.sound) t a bs hg.sound)

end

theorem OnlyHbm.byteRetired {s u : State} (h : OnlyHbm s u) (t x : Nat) : u.byteRetired t x = s.byteRetired t x := by
  simp only [State.byteRetired, h.groupSize, h.pageRetired]

/-! Bytes stored. -/

section
variable {s : State} {t : Nat} (hg : OwnGroup s t)
include hg

/-- The partition's memory after a byte is stored: a retired page is not written (R492). -/
theorem OwnGroup.part_hbmPut (a : Nat) (b : Byte) (p : Nat) : ((s.hbmPut t a b).part p).hbm =
    if s.byteRetired t a = false ∧ p = (mapHbm t (s.groupSize t) a).1 then
      (s.part p).hbm.put (mapHbm t (s.groupSize t) a).2 b
    else (s.part p).hbm := by
  simp only [State.hbmPut, hg.onCard, hg.localAddr, if_true]
  change ((if s.byteRetired t a = true then s else _ : State).part p).hbm = _
  cases hr : s.byteRetired t a with
  | true => simp
  | false =>
    simp only [Bool.false_eq_true, if_false, true_and, State.modTrain_part_at]
    by_cases hp : p = (mapHbm t (s.groupSize t) a).1
    · rw [if_pos hp, hp, State.part_modPart _ _ _ (hg.part_held a)]
    · rw [if_neg hp, State.part_modPart_other _ _ _ _ hp]

/-- A byte stored is read back where its page is not retired, and every other byte of the group is as before. -/
theorem OwnGroup.hbmByte_hbmPut (a : Nat) (b : Byte) (x : Nat) : (s.hbmPut t a b).hbmByte t x =
    if s.byteRetired t x then 0 else if x = a then b else s.hbmByte t x := by
  have hframe := s.hbmPut_onlyHbm t a b
  rw [(hg.hbmPut a b).hbmByte, hframe.byteRetired, hframe.groupSize]
  cases hr : s.byteRetired t x with
  | true => rfl
  | false =>
    simp only [Bool.false_eq_true, if_false, hg.part_hbmPut, hg.hbmByte x, hr]
    by_cases hx : x = a
    · subst hx
      rw [if_pos ⟨hr, rfl⟩, if_pos rfl, Memory.get_put (hg.hbm_wf x), if_pos rfl]
    · rw [if_neg hx]
      split
      · next h =>
        have hplace : (mapHbm t (s.groupSize t) x).2 ≠ (mapHbm t (s.groupSize t) a).2 :=
          fun h2 => hx (mapHbm_inj (Prod.ext h.2 h2))
        rw [Memory.get_put (hg.hbm_wf x), if_neg hplace]
      · rfl

theorem OwnGroup.hbmByte_retired {x : Nat} (hr : s.byteRetired t x = true) : s.hbmByte t x = 0 := by
  rw [hg.hbmByte, if_pos hr]

/-- Bytes stored are read back where their pages are not retired, and every other byte of the group is as before. -/
theorem OwnGroup.hbmByte_hbmWrite (a : Nat) (bs : List Byte) (x : Nat) : (s.hbmWrite t a bs).hbmByte t x =
    if s.byteRetired t x then 0 else if a ≤ x ∧ x < a + bs.length then bs.getD (x - a) 0 else s.hbmByte t x := by
  induction bs generalizing s a with
  | nil =>
    have hout : ¬ (a ≤ x ∧ x < a + ([] : List Byte).length) := by simp
    rw [if_neg hout, State.hbmWrite]
    split
    · next hr => exact hg.hbmByte_retired hr
    · rfl
  | cons b bs ih =>
    rw [State.hbmWrite, ih (hg.hbmPut a b), (s.hbmPut_onlyHbm t a b).byteRetired, hg.hbmByte_hbmPut]
    cases hr : s.byteRetired t x with
    | true => rfl
    | false =>
      simp only [Bool.false_eq_true, if_false, List.length_cons]
      obtain hbelow | rfl | habove := Nat.lt_trichotomy x a
      · rw [if_neg (by omega), if_neg (by omega), if_neg (by omega)]
      · rw [if_neg (by omega), if_pos rfl, if_pos (by omega), Nat.sub_self]
        rfl
      · obtain ⟨k, rfl⟩ := Nat.exists_eq_add_of_lt habove
        have hnext : a + k + 1 - a = a + k + 1 - (a + 1) + 1 := by omega
        rw [if_neg (show a + k + 1 ≠ a by omega), hnext, List.getD_cons_succ]
        exact if_congr (by omega) rfl rfl

end

/-- Settles O19: the bytes by `hbmByte_hbmWrite`, which holds of every address. -/
theorem hbmWriteThenRead : Obligations.HbmWriteThenRead :=
  fun _ _ a bs hwf halone ht hsize hfits _ x _ => OwnGroup.hbmByte_hbmWrite ⟨hwf, halone, ht, hsize, hfits⟩ a bs x

/-! Fills (R216). -/

theorem length_patternBytes (p n : Nat) : (patternBytes p n).length = n := by simp [patternBytes]

theorem patternBytes_getD {p n k : Nat} (h : k < n) : (patternBytes p n).getD k 0 = byte (p / 256 ^ (k % 4)) := by
  simp [patternBytes, List.getD_eq_getElem?_getD, h]

/-- A range in no retired page holds no byte of one. -/
theorem OwnGroup.byteRetired_of_rangeRetired {s : State} {t a len x : Nat} (hg : OwnGroup s t) (h : s.rangeRetired t a len = false)
    (hlo : a ≤ x) (hhi : x < a + len) : s.byteRetired t x = false := by
  by_contra hret
  rw [Bool.not_eq_false] at hret
  have hlisted := (Bool.and_eq_true_iff.1 hret).1
  have hpage := Nat.div_add_mod' x pageBytes
  have hoff : x % pageBytes < pageBytes := Nat.mod_lt _ (by decide)
  refine Bool.eq_false_iff.1 h ?_
  rw [State.rangeRetired, hg.onCard, Bool.true_and, List.any_eq_true]
  refine ⟨_, List.contains_iff_mem.1 hlisted, ?_⟩
  simp only [hg.localAddr, unmapHbm_page, Bool.and_eq_true, decide_eq_true_eq, List.contains_iff_mem]
  exact ⟨⟨hg.part_mem x, hret⟩, by omega, by omega⟩

/-- One unit of a fill: a unit that meets a retired page is passed over. -/
def fillUnit (t p a : Nat) (r : State × Nat) (i : Nat) : State × Nat :=
  if r.1.rangeRetired t (a + 64 * i) 64 then r else (r.1.hbmWrite t (a + 64 * i) (patternBytes p 64), r.2 + 64)

theorem State.fillHbm_units (s : State) (t p a n : Nat) :
    s.fillHbm t p a (64 * n) = (List.range n).foldl (fillUnit t p a) (s, 0) := by
  have hn : ceilDiv (64 * n) 64 = n := by
    unfold ceilDiv
    omega
  rw [State.fillHbm, hn]
  rfl

/-- What a fill of `n` units from `a` leaves. -/
structure Filled (s : State) (t p a n : Nat) (r : State × Nat) : Prop where
  group : OwnGroup r.1 t
  only : OnlyHbm s r.1
  pattern : ∀ i, i < n → s.rangeRetired t (a + 64 * i) 64 = false →
    ∀ k, k < 64 → r.1.hbmByte t (a + 64 * i + k) = byte (p / 256 ^ (k % 4))
  others : ∀ x, x < a ∨ a + 64 * n ≤ x → r.1.hbmByte t x = s.hbmByte t x
  count : r.2 = 64 * ((List.range n).filter (fun i => !s.rangeRetired t (a + 64 * i) 64)).length

/-- A write of HBM leaves the bytes outside its range as they were. -/
theorem OwnGroup.hbmByte_hbmWrite_outside {s : State} {t a x : Nat} {bs : List Byte} (hg : OwnGroup s t)
    (h : x < a ∨ a + bs.length ≤ x) : (s.hbmWrite t a bs).hbmByte t x = s.hbmByte t x := by
  have hout : ¬ (a ≤ x ∧ x < a + bs.length) := by omega
  rw [hg.hbmByte_hbmWrite, if_neg hout]
  split
  · next hr => exact (hg.hbmByte_retired hr).symm
  · rfl

theorem Filled.next {s : State} {t p a n : Nat} {r : State × Nat} (h : Filled s t p a n r) :
    Filled s t p a (n + 1) (fillUnit t p a r n) := by
  obtain ⟨hgroup, honly, hpattern, hothers, hcount⟩ := h
  have hlen := length_patternBytes p 64
  rw [fillUnit, honly.rangeRetired]
  cases hr : s.rangeRetired t (a + 64 * n) 64 with
  | true =>
    rw [if_pos rfl]
    refine ⟨hgroup, honly, fun i hi hgood => hpattern i ?_ hgood, fun x hx => hothers x (by omega), ?_⟩
    · have hne : i ≠ n := fun e => by rw [e, hr] at hgood; cases hgood
      omega
    · simp [hcount, List.range_succ, hr]
  | false =>
    rw [if_neg Bool.false_ne_true]
    have hbytes (k : Nat) (hk : k < 64) : (patternBytes p 64).getD k 0 = byte (p / 256 ^ (k % 4)) := patternBytes_getD hk
    -- Of the unit's bytes only their number and values matter; kept opaque, they are not computed.
    generalize patternBytes p 64 = bs at hlen hbytes
    refine ⟨hgroup.hbmWrite (a + 64 * n) bs, honly.trans (r.1.hbmWrite_onlyHbm t (a + 64 * n) bs), fun i hi hgood k hk => ?_,
      fun x hx => ?_, ?_⟩
    · obtain hlt | rfl := Nat.lt_succ_iff_lt_or_eq.1 hi
      · rw [hgroup.hbmByte_hbmWrite_outside (by omega)]
        exact hpattern i hlt hgood k hk
      · have hbyte : r.1.byteRetired t (a + 64 * i + k) = false :=
          hgroup.byteRetired_of_rangeRetired ((honly.rangeRetired ..).trans hr) (Nat.le_add_right ..) (Nat.add_lt_add_left hk _)
        rw [hgroup.hbmByte_hbmWrite, hbyte, if_neg Bool.false_ne_true, if_pos (by omega), Nat.add_sub_cancel_left,
          hbytes k hk]
    · rw [hgroup.hbmByte_hbmWrite_outside (by omega)]
      exact hothers x (by omega)
    · simp [hcount, List.range_succ, hr, Nat.mul_add]

theorem OwnGroup.fillHbm_filled {s : State} {t : Nat} (hg : OwnGroup s t) (p a n : Nat) :
    Filled s t p a n (s.fillHbm t p a (64 * n)) := by
  rw [s.fillHbm_units]
  induction n with
  | zero => exact ⟨hg, .refl s, fun i hi => absurd hi (Nat.not_lt_zero i), fun _ _ => rfl, rfl⟩
  | succ n ih =>
    rw [List.range_succ, List.foldl_append]
    exact ih.next

/-- Settles O20: unit by unit, each keeping what the ones before it have written. -/
theorem fillWritesThePattern : Obligations.FillWritesThePattern := by
  intro s t p a n hwf halone ht hsize hfits _ _
  have hfilled := OwnGroup.fillHbm_filled ⟨hwf, halone, ht, hsize, hfits⟩ p a n
  exact ⟨hfilled.pattern, fun x _ => hfilled.others x, hfilled.count⟩

end Sys2Proof.Machine
end

section
/-! PROOFS. The seal loop and its latch (R281, R675, R676, R810). -/

namespace Sys2Proof.Machine

variable {s : State}

/-- Events leave a change of the presence state as it is. -/
theorem OnlyEvents.modPresence {t : State} (h : OnlyEvents s t) (g : Presence → Presence) :
    OnlyEvents (s.modPresence g) (t.modPresence g) := by
  refine ⟨?_, h.fn⟩
  unfold State.modPresence
  rw [h.rest]

/-- A window that closes changes its own field of the presence state and reports the cause (R673). -/
theorem State.closeWindow_onlyEvents (s : State) (cause : Nat) :
    OnlyEvents (s.modPresence fun p => { p with window := none }) (s.closeWindow cause) := by
  unfold State.closeWindow
  split
  · next hnone =>
    have hsame : (s.modPresence fun p => { p with window := none }) = s := by rw [← hnone]; rfl
    rw [hsame]
    exact .refl s
  · exact State.raiseD_onlyEvents ..

/-- The latch set by a break with power; one that is set already keeps its time and flag (R676). -/
def Presence.broken (p : Presence) (now : Nat) : Presence :=
  { p with latch := true, unpowered := p.latch && p.unpowered, latchTime := if p.latch then p.latchTime else now }

/-- A break with power: the latch, and its report where it was not set. -/
def State.latchBreak (s : State) : State :=
  if s.presence.latch then s
  else (s.modPresence fun p => { p with latch := true, unpowered := false, latchTime := s.clock.time }).loopBreak

/-- The break as the model tests it: whether the latch is still to be set. -/
theorem State.latchBreak_eq (s : State) : s.latchBreak =
    if (!s.presence.latch) = true then
      (s.modPresence fun p => { p with latch := true, unpowered := false, latchTime := s.clock.time }).loopBreak
    else s := by
  unfold State.latchBreak
  cases s.presence.latch <;> rfl

theorem State.latchBreak_onlyEvents (s : State) : OnlyEvents (s.modPresence (·.broken s.clock.time)) s.latchBreak := by
  unfold State.latchBreak
  split
  · next hset =>
    have hsame : (s.modPresence (·.broken s.clock.time)) = s := by
      simp only [State.modPresence, Presence.broken, hset, Bool.true_and, if_true]
      rw [← hset]
    rw [hsame]
    exact .refl s
  · next hclear =>
    have hnew : (s.modPresence (·.broken s.clock.time)) =
        s.modPresence fun p => { p with latch := true, unpowered := false, latchTime := s.clock.time } := by
      simp only [State.modPresence, Presence.broken, hclear, Bool.false_and, Bool.false_eq_true, if_false]
    rw [hnew]
    exact State.loopBreak_onlyEvents _

/-- What an interruption of the powered loop changes beside events: the notes of the waiting SEAL_CLEARs, the latch, the window and the
loop itself. -/
def State.interrupted (s : State) (stays : Bool) : State :=
  (((s.modPresence fun p => { p with loop := !stays }).noteInterruption (!s.presence.latch)).modPresence
    (·.broken s.clock.time)).modPresence fun p => { p with window := none }

theorem State.noteInterruption_train (s : State) (raised : Bool) {k : Nat} (hk : k ≠ 16) :
    (s.noteInterruption raised).train k = s.train k := s.train_modTrain_other adminTrain k _ hk

theorem State.interrupted_train (s : State) (stays : Bool) {k : Nat} (hk : k ≠ 16) : (s.interrupted stays).train k = s.train k :=
  State.noteInterruption_train (s.modPresence fun p => { p with loop := !stays }) _ hk

theorem exec_sealLoopInterruption_powered {long stays : Bool} (hp : s.powered = true) (hloop : s.presence.loop = true)
    (hlong : (long || stays) = true) :
    ∃ t, exec (.sealLoopInterruption long stays) s = .next t ∧ OnlyEvents (s.interrupted stays) t := by
  have hpowered : (s.modPresence fun p => { p with loop := !stays }).powered = true := hp
  refine ⟨_, ?_, ((State.latchBreak_onlyEvents _).modPresence _).trans (State.closeWindow_onlyEvents _ 3)⟩
  rw [State.latchBreak_eq]
  simp only [exec, execSealLoopInterruption, hlong, hloop, hpowered, Bool.not_true, Bool.or_self, Bool.false_eq_true, if_false, if_true]
  rfl

theorem exec_sealLoopInterruption_unpowered {stays : Bool} (hp : s.powered = false) (hloop : s.presence.loop = true) :
    exec (.sealLoopInterruption true stays) s = .next (s.modPresence fun p => { p with loop := !stays }).latchUnpowered := by
  have hunpowered : (s.modPresence fun p => { p with loop := !stays }).powered = false := hp
  simp only [exec, execSealLoopInterruption, hloop, hunpowered, Bool.true_or, Bool.not_true, Bool.or_self, Bool.false_eq_true, if_false]

/-- The latch set without power: its time is 0 and its report is owed (R676). -/
theorem State.latchUnpowered_eq (s : State) : s.latchUnpowered = { s with presence :=
    if s.presence.latch then s.presence
    else { s.presence with latch := true, unpowered := true, latchTime := 0, breakOwed := true } } := by
  unfold State.latchUnpowered
  split <;> rfl

/-- Settles O50: with power by what `interrupted` leaves besides events, without it by `latchUnpowered_eq`. -/
theorem sealLoopSetsTheLatch : Obligations.SealLoopSetsTheLatch := by
  refine ⟨fun s long stays hp hloop hlong => ?_, fun s => rfl, fun s stays hp hloop => ?_, fun s => rfl, fun s hlatch => ?_⟩
  · obtain ⟨t, hexec, hevents⟩ := exec_sealLoopInterruption_powered hp hloop hlong
    refine ⟨t, hexec, hevents.presence, fun k hk => ?_, hevents.clock, hevents.parts, hevents.ledger, hevents.dev⟩
    rw [State.train, hevents.trains]
    exact s.interrupted_train stays hk
  · rw [exec_sealLoopInterruption_unpowered hp hloop, State.latchUnpowered_eq]
    rfl
  · simp only [exec, execBackupCellLow, State.latchUnpowered_eq, hlatch, Bool.false_eq_true, if_false]
    split <;> rfl

end Sys2Proof.Machine
end

section
/-! PROOFS. Group-local addresses and pseudo-channels (R472, R473). -/

namespace Sys2Proof.Machine

/-! The place of a group-local address (R473). -/

theorem mapHbm_part_lt (k : Nat) {n : Nat} (hn : 0 < n) (a : Nat) : (mapHbm k n a).1 < k + n :=
  Nat.add_lt_add_left (Nat.mod_lt _ hn) k

/-- An address within the group's HBM has its place within the partition's. -/
theorem mapHbm_addr_lt (k : Nat) {n a : Nat} (h : a < n * partBytes) : (mapHbm k n a).2 < partBytes := by
  have hpage : a / pageBytes / n < 196608 := by
    refine Nat.div_lt_of_lt_mul (Nat.div_lt_of_lt_mul ?_)
    rw [partBytes] at h
    rw [pageBytes]
    omega
  have hoffset : a % pageBytes < pageBytes := Nat.mod_lt _ (by decide)
  rw [mapHbm]
  rw [pageBytes] at *
  rw [partBytes]
  omega

/-- A group of one partition has its partition's addresses. -/
theorem mapHbm_single (k a : Nat) : (mapHbm k 1 a).2 = a := by
  rw [mapHbm, Nat.div_one, Nat.div_add_mod']

/-- Settles O17: bounds of quotient and remainder, and the page and offset of the place lead back. -/
theorem groupAddressMap : Obligations.GroupAddressMap := by
  intro k n a hn ha
  exact ⟨rfl, mapHbm_part_lt k hn a, mapHbm_addr_lt k ha, unmapHbm_mapHbm k n a, fun h => by rw [h]; exact mapHbm_single k a⟩

/-! Pseudo-channels (R472). -/

theorem channelOf_eq (l : Nat) : channelOf l = (l / 2048 % 16) ^^^ (l / 2048 / 16 % 16) := rfl

theorem channelOf_lt (l : Nat) : channelOf l < 16 :=
  Nat.xor_lt_two_pow (n := 4) (Nat.mod_lt _ (by decide)) (Nat.mod_lt _ (by decide))

/-- The pseudo-channel and the place there tell the address: the place gives the upper number, which undoes the exclusive or. -/
theorem channel_inj {l m : Nat} (hchannel : channelOf l = channelOf m) (haddr : channelAddr l = channelAddr m) : l = m := by
  rw [channelAddr, channelAddr] at haddr
  have hrow : l / 2048 / 16 = m / 2048 / 16 := by omega
  rw [channelOf_eq, channelOf_eq, hrow] at hchannel
  have hgranule : l / 2048 % 16 = m / 2048 % 16 := Nat.xor_left_injective hchannel
  omega

/-- Granule `g` of the `h`-th half of a page. -/
theorem channelOf_granule (q h : Nat) {g : Nat} (hg : g < 16) :
    channelOf (65536 * q + 2048 * (16 * h + g)) = g ^^^ ((2 * q + h) % 16) := by
  have hgranule : (65536 * q + 2048 * (16 * h + g)) / 2048 = 16 * (2 * q + h) + g := by omega
  have hrow : (16 * (2 * q + h) + g) / 16 = 2 * q + h := by omega
  have hlow : (16 * (2 * q + h) + g) % 16 = g := by omega
  rw [channelOf_eq, hgranule, hrow, hlow]

/-- Of the sixteen granules of half a page exactly one lies in each pseudo-channel: the one that the exclusive or leads back to. -/
theorem granules_halfPage (q h : Nat) {c : Nat} (hc : c < 16) :
    ((List.range 16).filter (fun g => channelOf (65536 * q + 2048 * (16 * h + g)) == c)).length = 1 := by
  have hrow : (2 * q + h) % 16 < 16 := Nat.mod_lt _ (by decide)
  have hone : c ^^^ ((2 * q + h) % 16) ∈ List.range 16 := List.mem_range.2 (Nat.xor_lt_two_pow (n := 4) hc hrow)
  have hpick : ∀ g ∈ List.range 16, (channelOf (65536 * q + 2048 * (16 * h + g)) == c) = (g == c ^^^ ((2 * q + h) % 16)) := by
    intro g hg
    rw [channelOf_granule q h (List.mem_range.1 hg), Bool.eq_iff_iff, beq_iff_eq, beq_iff_eq]
    constructor
    · rintro rfl
      rw [Nat.xor_xor_cancel_right]
    · rintro rfl
      rw [Nat.xor_xor_cancel_right]
  rw [List.filter_congr hpick, ← List.countP_eq_length_filter]
  exact List.count_eq_one_of_mem List.nodup_range hone

/-- Settles O18: a page has two halves of sixteen granules, and each half has one in every pseudo-channel. -/
theorem granulesSpreadOverChannels : Obligations.GranulesSpreadOverChannels := by
  refine ⟨fun l => ⟨rfl, channelOf_lt l, rfl⟩, fun _ _ => channel_inj, fun q c hc => ?_⟩
  have hhalves : List.range 32 = List.range 16 ++ (List.range 16).map (16 + ·) := rfl
  have hfirst := granules_halfPage q 0 hc
  have hsecond := granules_halfPage q 1 hc
  simp only [Nat.mul_zero, Nat.zero_add] at hfirst
  rw [hhalves, List.filter_append, List.length_append, hfirst, List.filter_map, List.length_map]
  exact congrArg (1 + ·) hsecond

end Sys2Proof.Machine
end

section
/-! PROOFS. The BAR2 aperture (R492, R538, R683, R765). -/

namespace Sys2Proof.Machine

section
variable {s : State}

/-- What may happen once a second leaves all but the device's note of it. -/
theorem State.once_dev (s : State) (code unit : Nat) : (s.once code unit).2 = s.modDev fun _ => (s.once code unit).2.dev := by
  unfold State.once
  split <;> rfl

theorem State.bar2Refused_onlyEvents (s : State) (write : Bool) (off : Nat) :
    ∃ d, OnlyEvents (s.modDev fun _ => d) (s.bar2Refused write off) := by
  refine ⟨(s.once 0x0209 (flag write)).2.dev, ?_⟩
  rw [← s.once_dev]
  unfold State.bar2Refused
  dsimp only
  split
  · exact State.raiseD_onlyEvents ..
  · exact .refl _

/-- The PF's window selects its partition; a VF's is that of its own. -/
theorem State.apertureAt_eq (s : State) (fn off : Nat) :
    s.apertureAt fn off = (if fn = 0 then (s.fn 0).windowPart else fn - 1, (s.fn fn).windowBase + off) := by
  by_cases h : fn = 0
  · subst h
    rfl
  · simp only [State.apertureAt, h, if_false]

theorem exec_bar2Read_intact (fn off size : Nat) (hready : s.beforeReady = false) (hloop : s.presence.loop = true)
    (hlatch : s.presence.latch = false) :
    exec (.bar2Read fn off size) s = .next { s with out := { s.out with
      poisoned := false
      read := (List.range size).map fun i => s.apertureByte (s.apertureAt fn off).1 ((s.apertureAt fn off).2 + i) } } := by
  simp only [exec, execBar2Read, hready, hloop, hlatch, Bool.false_eq_true, if_false, Bool.not_false, Bool.and_self, if_true]

theorem exec_bar2Read_broken (fn off size : Nat) (hready : s.beforeReady = false)
    (hbroken : s.presence.loop = false ∨ s.presence.latch = true) :
    exec (.bar2Read fn off size) s = .next { s.bar2Refused false off with out :=
      { (s.bar2Refused false off).out with read := zeros size, poisoned := false } } := by
  have hrefused : (s.presence.loop && !s.presence.latch) = false := by
    rcases hbroken with h | h <;> simp [h]
  simp only [exec, execBar2Read, hready, hrefused, Bool.false_eq_true, if_false]

theorem exec_bar2Write_held {fn off : Nat} {data : List Byte} (hready : s.beforeReady = false) (hpresence : s.presenceProblem false = none)
    {p a : Nat} (hplace : s.apertureAt fn off = (p, a)) (hend : a + data.length ≤ partBytes)
    (hretired : s.dev.retired.contains (p, a / pageBytes) = false)
    (hprotected : (s.protectedRanges (s.leaderOf p)).any
      (·.meets ⟨unmapHbm (s.leaderOf p) (s.groupSize (s.leaderOf p)) p a, data.length⟩) = false)
    (hheld : s.dev.heldWrites.foldl (fun n h => n + h.data.length) 0 + data.length ≤ 65536) :
    exec (.bar2Write fn off data) s =
      .next (s.modDev fun d => { d with heldWrites := d.heldWrites ++ [{ part := p, addr := a, data := data }] }) := by
  simp only [exec, execBar2Write, hplace, hready, hpresence, hretired, hprotected, Option.isSome_none, Nat.not_lt.2 hend,
    Nat.not_lt.2 hheld, Bool.false_eq_true, or_self, if_false]

end

/-- Settles O32: each access by its branch of the model; a refusal is an event beside the note that one happened. -/
theorem bar2Accesses : Obligations.Bar2Accesses := by
  refine ⟨?_, ?_, ?_⟩
  · intro s fn off size hready hloop hlatch p
    rw [exec_bar2Read_intact fn off size hready hloop hlatch, State.apertureAt_eq]
    rfl
  · intro s fn off size hready hbroken
    obtain ⟨d, hevents⟩ := s.bar2Refused_onlyEvents false off
    exact ⟨_, exec_bar2Read_broken fn off size hready hbroken, rfl, hevents.parts, hevents.presence⟩
  · intro s fn off data hready hpresence p a t hend hretired hprotected hheld
    exact exec_bar2Write_held hready hpresence (s.apertureAt_eq fn off) hend hretired hprotected hheld

end Sys2Proof.Machine
end

section
/-! PROOFS. HBM read outcomes (R485 to R490, Table 13.5): what an outcome counts, marks and poisons, and that no byte of HBM changes. -/

namespace Sys2Proof.Machine

/-! The counters of a pseudo-channel (R485). -/

/-- The pseudo-channel with one error more: 0 corrected, 1 uncorrectable, any other parity. -/
def Channel.counted (x : Channel) (which : Nat) : Channel :=
  if which = 0 then { x with corrected := satAdd 32 x.corrected 1 }
  else if which = 1 then { x with uncorrectable := satAdd 32 x.uncorrectable 1 }
  else { x with parity := satAdd 32 x.parity 1 }

/-- The pseudo-channel after a read outcome (Table 13.5). -/
def Channel.afterRead (x : Channel) : Nat → Channel
  | 1 | 2 => x.counted 0
  | 3 => x.counted 1
  | 4 | 5 | 6 => x.counted 2
  | 7 => { x.counted 2 with failed := true }
  | _ => x

theorem Channel.afterRead_corrected (x : Channel) (outcome : Nat) : (x.afterRead outcome).corrected =
    if outcome = 1 ∨ outcome = 2 then min (x.corrected + 1) 0xFFFFFFFF else x.corrected := by
  match outcome with
  | 0 | 1 | 2 | 3 | 4 | 5 | 6 | 7 | _ + 8 => rfl

theorem Channel.afterRead_uncorrectable (x : Channel) (outcome : Nat) : (x.afterRead outcome).uncorrectable =
    if outcome = 3 then min (x.uncorrectable + 1) 0xFFFFFFFF else x.uncorrectable := by
  match outcome with
  | 0 | 1 | 2 | 3 | 4 | 5 | 6 | 7 | _ + 8 => rfl

theorem Channel.afterRead_parity (x : Channel) (outcome : Nat) : (x.afterRead outcome).parity =
    if 4 ≤ outcome ∧ outcome ≤ 7 then min (x.parity + 1) 0xFFFFFFFF else x.parity := by
  match outcome with
  | 0 | 1 | 2 | 3 | 4 | 5 | 6 | 7 | _ + 8 => rfl

/-! What a read outcome does to its partition. -/

/-- `t` is `s` with pseudo-channel `c` of partition `p` changed by `f`: clock, HBM and the other partitions are as before. -/
structure ReadFrom (p c : Nat) (f : Channel → Channel) (s t : State) : Prop where
  clock : t.clock = s.clock
  held : t.parts.length = s.parts.length
  channels : (t.part p).channels.length = (s.part p).channels.length
  channel : t.channel p c = f (s.channel p c)
  hbm : (t.part p).hbm = (s.part p).hbm
  others : ∀ q, q ≠ p → t.part q = s.part q

/-- The state has the pseudo-channel. -/
structure HasChannel (s : State) (p c : Nat) : Prop where
  part : p < s.parts.length
  channel : c < (s.part p).channels.length

theorem State.hasChannel {s : State} (hs : s.wf = true) {p c : Nat} (hp : p < 16) (hc : c < 16) : HasChannel s p c := by
  have hpart : p < s.parts.length := by rwa [s.wf_parts hs]
  have hsound : (s.part p).wf = true := by
    simp only [State.wf, Bool.and_eq_true] at hs
    obtain ⟨_, hparts⟩ := hs
    rw [State.part, getD_of_lt hpart]
    exact List.all_eq_true.1 hparts _ (List.getElem_mem hpart)
  simp only [Part.wf, Bool.and_eq_true, decide_eq_true_eq] at hsound
  obtain ⟨⟨⟨_, hchannels⟩, _⟩, _⟩ := hsound
  exact ⟨hpart, by rwa [hchannels]⟩

section
variable {p c : Nat} {s t u : State} {f g : Channel → Channel}

theorem ReadFrom.hasChannel (h : ReadFrom p c f s t) (hs : HasChannel s p c) : HasChannel t p c :=
  ⟨h.held ▸ hs.part, h.channels ▸ hs.channel⟩

theorem ReadFrom.trans (h : ReadFrom p c f s t) (k : ReadFrom p c g t u) : ReadFrom p c (fun x => g (f x)) s u :=
  ⟨k.clock.trans h.clock, k.held.trans h.held, k.channels.trans h.channels, by rw [k.channel, h.channel], k.hbm.trans h.hbm,
    fun q hq => (k.others q hq).trans (h.others q hq)⟩

/-- What leaves clock and partitions as they are. -/
theorem ReadFrom.of_parts (clock : t.clock = s.clock) (parts : t.parts = s.parts) : ReadFrom p c (fun x => x) s t := by
  have hpart (q : Nat) : t.part q = s.part q := by rw [State.part, parts]; rfl
  refine ⟨clock, by rw [parts], by rw [hpart], ?_, by rw [hpart], fun q _ => hpart q⟩
  rw [State.channel, hpart]
  rfl

theorem OnlyEvents.readFrom (h : OnlyEvents s t) : ReadFrom p c (fun x => x) s t := .of_parts h.clock h.parts

/-- A change of the partition that touches neither its pseudo-channels nor its HBM. -/
theorem State.modPart_readFrom {k : Part → Part} (hs : HasChannel s p c) (hchannels : ∀ x, (k x).channels = x.channels)
    (hhbm : ∀ x, (k x).hbm = x.hbm) : ReadFrom p c (fun x => x) s (s.modPart p k) := by
  have hpart := s.part_modPart p k hs.part
  refine ⟨rfl, List.length_set .., ?_, ?_, ?_, fun q => s.part_modPart_other p q k⟩
  · rw [hpart, hchannels]
  · rw [State.channel, hpart, hchannels]
    rfl
  · rw [hpart, hhbm]

theorem State.modChannel_readFrom (hs : HasChannel s p c) (f : Channel → Channel) : ReadFrom p c f s (s.modChannel p c f) := by
  have hpart : (s.modChannel p c f).part p = { s.part p with channels := modAt (s.part p).channels c f } := s.part_modPart p _ hs.part
  refine ⟨rfl, List.length_set .., ?_, ?_, ?_, fun q => s.part_modPart_other p q _⟩
  · rw [hpart]
    exact length_modAt ..
  · rw [State.channel, hpart]
    exact getD_modAt hs.channel f {}
  · rw [hpart]

end

/-! The operations of the outcomes. -/

section
variable {s : State} {p c : Nat}

/-- The count is made, and the end of the counter reported (R742). -/
theorem State.countChannel_onlyEvents (s : State) (p c which : Nat) :
    ∃ f, OnlyEvents (s.modChannel p c f) (s.countChannel p c which) ∧ f (s.channel p c) = (s.channel p c).counted which := by
  unfold State.countChannel
  extract_lets x old n
  refine ⟨_, State.saturated_onlyEvents .., ?_⟩
  simp only [Channel.counted, n, old, x]
  split
  · rfl
  · split <;> rfl

theorem State.countChannel_readFrom (hs : HasChannel s p c) (which : Nat) :
    ReadFrom p c (·.counted which) s (s.countChannel p c which) := by
  obtain ⟨f, hevents, hf⟩ := s.countChannel_onlyEvents p c which
  have hcount := (State.modChannel_readFrom hs f).trans hevents.readFrom
  exact { hcount with channel := hcount.channel.trans hf }

theorem State.trackPage_readFrom (hs : HasChannel s p c) (page : Nat) : ReadFrom p c (fun x => x) s (s.trackPage p c page) := by
  unfold State.trackPage
  extract_lets now xs times full u
  have htrack : ReadFrom p c (fun x => x) s u := State.modPart_readFrom hs (fun _ => rfl) fun _ => rfl
  split
  · exact htrack.trans (State.raiseO_onlyEvents ..).readFrom
  · exact htrack

/-- MEM_CORRECTED, at most once a second for each pseudo-channel (R725, Table 13.5). -/
def State.reportMultiBit (s : State) (p c page : Nat) : State :=
  let (first, s) := s.once 0x0202 (16 * p + c)
  if first then s.raiseO 0x0202 0 p 0xFFFF c 0 (s.pagePayload p page) else s

theorem State.once_readFrom (code unit : Nat) : ReadFrom p c (fun x => x) s (s.once code unit).2 := by
  rw [State.once_dev]
  exact .of_parts rfl rfl

theorem State.reportMultiBit_readFrom (page : Nat) : ReadFrom p c (fun x => x) s (s.reportMultiBit p c page) := by
  unfold State.reportMultiBit
  dsimp only
  split
  · exact (State.once_readFrom _ _).trans (State.raiseO_onlyEvents ..).readFrom
  · exact State.once_readFrom _ _

/-- Poisoned data that no command reads breaks at most a residency: works and objects of a train, no partition. -/
theorem State.breakResidency_readFrom (t : Nat) (r : Residency) (e : Refuse) :
    ReadFrom p c (fun x => x) s (s.breakResidency t r e) := by
  unfold State.breakResidency
  extract_lets mark u
  exact List.foldlRecOn (motive := ReadFrom p c (fun x => x) s) _ _ (.of_parts rfl rfl) fun v hv w _ =>
    hv.trans (.of_parts rfl rfl)

/-- The page lies in what a repair reads (R374). -/
def State.pageRepair (s : State) (p page : Nat) : Option Residency :=
  s.repairHit (s.leaderOf p) (unmapHbm (s.leaderOf p) (s.groupSize (s.leaderOf p)) p (page * pageBytes))

/-- The completion of a read that nothing on the card needs (R487, R490). -/
def State.completePoisoned (s : State) (p c page : Nat) : State :=
  State.raise { s with out := { s.out with poisoned := true } } 0 (s.event 0x0203 2 p 0xFFFF c 1 (s.pagePayload p page))

theorem State.poisoned_ofRepair {page : Nat} {r : Residency} (reason : Nat) (h : s.pageRepair p page = some r) :
    s.poisoned p c page reason none =
      (s.breakResidency (s.leaderOf p) r (s.poisonRefuse reason p page c)).raiseO 0x0203 2 p 0xFFFF c 0 (s.pagePayload p page) := by
  rw [State.pageRepair] at h
  simp only [State.poisoned, Option.bind_none, h]

theorem State.poisoned_ofUnused {page : Nat} (reason : Nat) (h : s.pageRepair p page = none) :
    s.poisoned p c page reason none = s.completePoisoned p c page := by
  rw [State.pageRepair] at h
  simp only [State.poisoned, Option.bind_none, h, State.completePoisoned]

theorem State.completePoisoned_onlyEvents (s : State) (p c page : Nat) :
    OnlyEvents { s with out := { s.out with poisoned := true } } (s.completePoisoned p c page) := State.raise_onlyEvents ..

theorem State.poisoned_readFrom (page reason : Nat) : ReadFrom p c (fun x => x) s (s.poisoned p c page reason none) := by
  cases h : s.pageRepair p page with
  | none =>
    rw [State.poisoned_ofUnused reason h]
    have hevents := s.completePoisoned_onlyEvents p c page
    exact .of_parts hevents.clock hevents.parts
  | some r =>
    rw [State.poisoned_ofRepair reason h]
    exact (State.breakResidency_readFrom ..).trans (State.raiseO_onlyEvents ..).readFrom

theorem State.poisoned_out {page : Nat} (reason : Nat) (h : s.pageRepair p page = none) :
    (s.poisoned p c page reason none).out.poisoned = true := by
  rw [State.poisoned_ofUnused reason h, (s.completePoisoned_onlyEvents p c page).rest]

/-- A counted error is no part of what a repair reads. -/
theorem State.countChannel_pageRepair (s : State) (p c which page : Nat) :
    (s.countChannel p c which).pageRepair p page = s.pageRepair p page := by
  obtain ⟨f, hevents, _⟩ := s.countChannel_onlyEvents p c which
  have hpart (q : Nat) : ∃ xs, (s.countChannel p c which).part q = { s.part q with channels := xs } := by
    rw [State.part, hevents.parts]
    rcases s.part_modPart_any p (fun x => { x with channels := modAt x.channels c f }) q with h | ⟨_, h⟩
    · exact ⟨_, h⟩
    · exact ⟨_, h⟩
  have hleader (q : Nat) : (s.countChannel p c which).leaderOf q = s.leaderOf q := by
    obtain ⟨xs, h⟩ := hpart q
    rw [State.leaderOf, h]
    rfl
  have hsize (q : Nat) : (s.countChannel p c which).groupSize q = s.groupSize q := by
    obtain ⟨xs, h⟩ := hpart q
    rw [State.groupSize, h]
    rfl
  have hcore (t k : Nat) : (s.countChannel p c which).groupCore t k = s.groupCore t k := by
    rw [State.groupCore, State.groupCore, hevents.consort, hsize]
    rfl
  have htrain (t : Nat) : (s.countChannel p c which).train t = s.train t := by
    rw [State.train, hevents.trains]
    rfl
  simp only [State.pageRepair, State.repairHit, hleader, hsize, hcore, htrain]

/-- A pseudo-channel marked failed: training must be done again (Table 13.5). -/
def State.channelMarked (s : State) (p c : Nat) : State :=
  (s.modChannel p c fun x => { x with failed := true }).modDev fun d => { d with trained := false }

/-- Its partition faulted as well, before the event. -/
def State.channelFailed (s : State) (p c : Nat) : State :=
  (s.channelMarked p c).modPart p fun x => { x with fault := if x.fault = 0 then 4 else x.fault }

theorem State.channelMarked_readFrom (hs : HasChannel s p c) :
    ReadFrom p c (fun x => { x with failed := true }) s (s.channelMarked p c) := by
  have huntrained : ReadFrom p c (fun x => x) (s.modChannel p c fun x => { x with failed := true }) (s.channelMarked p c) :=
    .of_parts rfl rfl
  exact (State.modChannel_readFrom hs _).trans huntrained

theorem State.failChannel_onlyEvents (s : State) (p c : Nat) : OnlyEvents (s.channelFailed p c) (s.failChannel p c) :=
  State.raiseO_onlyEvents ..

theorem State.failChannel_readFrom (hs : HasChannel s p c) :
    ReadFrom p c (fun x => { x with failed := true }) s (s.failChannel p c) := by
  have hmarked := State.channelMarked_readFrom hs
  have hfault : ReadFrom p c (fun x => x) (s.channelMarked p c) (s.channelFailed p c) :=
    State.modPart_readFrom (hmarked.hasChannel hs) (fun _ => rfl) fun _ => rfl
  exact (hmarked.trans hfault).trans (s.failChannel_onlyEvents p c).readFrom

theorem State.failChannel_fault (hs : HasChannel s p c) : ((s.failChannel p c).part p).fault ≠ 0 := by
  have hmarked := (State.channelMarked_readFrom hs).hasChannel hs
  rw [State.part, (s.failChannel_onlyEvents p c).parts]
  change ((s.channelFailed p c).part p).fault ≠ 0
  rw [State.channelFailed, State.part_modPart _ p _ hmarked.part]
  dsimp only
  split
  · decide
  · assumption

end

/-! The row. -/

section
variable {s : State} {p c : Nat}

/-- The state that a read outcome leaves, where no command is named. -/
def State.afterRead (s : State) (p c page : Nat) : Nat → State
  | 1 => (s.countChannel p c 0).trackPage p c page
  | 2 => ((s.countChannel p c 0).trackPage p c page).reportMultiBit p c page
  | 3 => (s.countChannel p c 1).poisoned p c page 0x0D01 none
  | 4 | 6 => s.countChannel p c 2
  | 5 => (s.countChannel p c 2).poisoned p c page 0x0D02 none
  | 7 => (s.countChannel p c 2).failChannel p c
  | _ => s

theorem exec_hbmReadOutcome (hpower : s.powered = true) (hp : p < 16) (hc : c < 16) (page outcome : Nat) :
    exec (.hbmReadOutcome p c page outcome none) s = .next (s.afterRead p c page outcome) := by
  have hserved : (!s.powered || decide (16 ≤ p ∨ 16 ≤ c)) = false := by simp [hpower, hp, hc]
  simp only [exec, execHbmReadOutcome, hserved, Bool.false_eq_true, if_false]
  match outcome with
  | 0 | 1 | 2 | 3 | 4 | 5 | 6 | 7 | _ + 8 => rfl

theorem State.afterRead_readFrom (hs : HasChannel s p c) (page outcome : Nat) :
    ReadFrom p c (·.afterRead outcome) s (s.afterRead p c page outcome) := by
  have hcount (which : Nat) := State.countChannel_readFrom hs which
  have hheld (which : Nat) := (hcount which).hasChannel hs
  match outcome with
  | 1 => exact (hcount 0).trans (State.trackPage_readFrom (hheld 0) page)
  | 2 => exact ((hcount 0).trans (State.trackPage_readFrom (hheld 0) page)).trans (State.reportMultiBit_readFrom page)
  | 3 => exact (hcount 1).trans (State.poisoned_readFrom page _)
  | 4 | 6 => exact hcount 2
  | 5 => exact (hcount 2).trans (State.poisoned_readFrom page _)
  | 7 => exact (hcount 2).trans (State.failChannel_readFrom (hheld 2))
  | 0 | _ + 8 => exact .of_parts rfl rfl

theorem State.afterRead_fault (hs : HasChannel s p c) (page : Nat) : ((s.afterRead p c page 7).part p).fault ≠ 0 :=
  State.failChannel_fault ((State.countChannel_readFrom hs 2).hasChannel hs)

theorem State.afterRead_poisoned {page outcome : Nat} (ho : outcome = 3 ∨ outcome = 5) (h : s.pageRepair p page = none) :
    (s.afterRead p c page outcome).out.poisoned = true := by
  rcases ho with rfl | rfl <;> exact State.poisoned_out _ (by rw [State.countChannel_pageRepair, h])

end

/-- Settles O42: the pseudo-channel by `Channel.afterRead`, the rest by what a read leaves. That a read which no command needs
completes poisoned is the model's reading (assumption 63). -/
theorem hbmReadOutcomes : Obligations.HbmReadOutcomes := by
  intro s p c page outcome hwf hpower hp hc old
  have hs := s.hasChannel hwf hp hc
  have hread := State.afterRead_readFrom hs page outcome
  refine ⟨_, exec_hbmReadOutcome hpower hp hc page outcome, fun h => ?_, ?_, ?_, ?_, fun h => ?_,
    fun ho h => State.afterRead_poisoned ho h, hread.hbm, hread.others, hread.clock⟩
  · subst h
    rfl
  · exact (congrArg Channel.corrected hread.channel).trans (Channel.afterRead_corrected _ outcome)
  · exact (congrArg Channel.uncorrectable hread.channel).trans (Channel.afterRead_uncorrectable _ outcome)
  · exact (congrArg Channel.parity hread.channel).trans (Channel.afterRead_parity _ outcome)
  · subst h
    exact ⟨congrArg Channel.failed hread.channel, State.afterRead_fault hs page⟩

end Sys2Proof.Machine
end

section
/-! PROOFS. The CLM scrub's findings (R549, R551, Table 15.2) and the decode engine's time limit (R521). -/

namespace Sys2Proof.Machine

/-! A core changed. -/

section
variable {s t u : State} {c : Nat}

theorem State.wf_cores (hwf : s.wf = true) {p : Nat} (hp : p < 16) : (s.part p).cores.length = 16 := by
  have hheld : p < s.parts.length := (s.wf_parts hwf).symm ▸ hp
  rw [State.wf, Bool.and_eq_true] at hwf
  have hpart := List.all_eq_true.1 hwf.2 _ (List.getElem_mem hheld)
  simp only [Part.wf, Bool.and_eq_true, decide_eq_true_eq] at hpart
  obtain ⟨⟨⟨hcores, _⟩, _⟩, _⟩ := hpart
  rw [State.part, getD_of_lt hheld, hcores]

theorem State.core_modCore (hwf : s.wf = true) (hc : c < 256) (g : Core → Core) : (s.modCore c g).core c = g (s.core c) := by
  have hp : c / 16 < 16 := by omega
  have hslot : c % 16 < (s.part (c / 16)).cores.length := by
    rw [State.wf_cores hwf hp]
    omega
  rw [State.core, State.modCore, s.part_modPart _ _ ((s.wf_parts hwf).symm ▸ hp)]
  exact getD_set_self _ _ _ _ hslot

theorem State.core_modCore_any (s : State) (c : Nat) (g : Core → Core) :
    (s.modCore c g).core c = s.core c ∨ (s.modCore c g).core c = g (s.core c) := by
  rw [State.core, State.modCore]
  rcases s.part_modPart_any (c / 16) (fun p => { p with cores := p.cores.set (c % 16) (g (p.cores.getD (c % 16) {})) }) (c / 16)
    with h | ⟨_, h⟩
  · exact .inl (by rw [h]; rfl)
  · rw [h]
    by_cases hslot : c % 16 < (s.part (c / 16)).cores.length
    · exact .inr (getD_set_self _ _ _ _ hslot)
    · exact .inl (by rw [List.set_eq_of_length_le (Nat.le_of_not_lt hslot)]; rfl)

/-- `t` is `s` but for events and what core `c` has not reported yet: trains and the core's memories and counters stay. -/
structure Reports (c : Nat) (s t : State) : Prop where
  trains : t.trains = s.trains
  core : ∃ n, t.core c = { s.core c with correctedSince := n }

theorem Reports.trans (h : Reports c s t) (k : Reports c t u) : Reports c s u := by
  obtain ⟨m, hm⟩ := h.core
  obtain ⟨n, hn⟩ := k.core
  exact ⟨k.trains.trans h.trains, n, by rw [hn, hm]⟩

theorem Reports.of_parts (trains : t.trains = s.trains) (parts : t.parts = s.parts) : Reports c s t :=
  ⟨trains, (s.core c).correctedSince, by rw [State.core, State.part, parts]; rfl⟩

theorem OnlyEvents.reports (h : OnlyEvents s t) : Reports c s t := .of_parts h.trains h.parts

theorem Reports.once (s : State) (code unit : Nat) : Reports c s (s.once code unit).2 := by
  rw [State.once_dev]
  exact .of_parts rfl rfl

theorem Reports.restart (s : State) : Reports c s (s.modCore c fun x => { x with correctedSince := 0 }) := by
  refine ⟨rfl, ?_⟩
  rcases s.core_modCore_any c fun x => { x with correctedSince := 0 } with h | h
  · exact ⟨_, h⟩
  · exact ⟨_, h⟩

end

/-! A corrected bit (R549). -/

/-- A core with one correction more. -/
def Core.corrected (x : Core) : Core :=
  { x with corrections := satAdd 32 x.corrections 1, correctedSince := x.correctedSince + 1 }

/-- The correction counted, and the end of the counter reported (R742). -/
def State.countCorrection (s : State) (c : Nat) : State :=
  (s.modCore c Core.corrected).saturated (c / 16) (blockBase (c / 16) + 0x3100 + 8 * (c % 16)) (s.core c).corrections
    (s.core c).corrected.corrections

/-- CLM_CORRECTED, at most once a second for each core (R725). -/
def State.reportCorrections (s : State) (c off : Nat) : State :=
  let (first, s) := s.once 0x0402 c
  if first then
    (s.raiseO 0x0402 0 (c / 16) c (clmBank off) 0 (leBytes 4 (s.core c).correctedSince)).modCore c
      fun x => { x with correctedSince := 0 }
  else s

section
variable {s : State} {c : Nat}

theorem exec_clmScrub_corrected (hpower : s.powered = true) (hc : c < 256) (off : Nat) (work : Option Nat) :
    exec (.clmScrub c off true work) s = .next ((s.countCorrection c).reportCorrections c off) := by
  have hserved : (!s.powered || decide (256 ≤ c)) = false := by simp [hpower, hc]
  simp only [exec, execClmScrub, hserved, Bool.false_eq_true, if_false, if_true]
  rfl

theorem State.countCorrection_trains : (s.countCorrection c).trains = s.trains := (State.saturated_onlyEvents ..).trains

theorem State.countCorrection_core (hwf : s.wf = true) (hc : c < 256) : (s.countCorrection c).core c = (s.core c).corrected := by
  have hparts : (s.countCorrection c).parts = _ := (State.saturated_onlyEvents ..).parts
  rw [State.core, State.part, hparts]
  exact s.core_modCore hwf hc _

theorem State.reportCorrections_reports (s : State) (c off : Nat) : Reports c s (s.reportCorrections c off) := by
  unfold State.reportCorrections
  dsimp only
  split
  · exact ((Reports.once s _ _).trans (State.raiseO_onlyEvents ..).reports).trans (Reports.restart _)
  · exact .once s _ _

end

/-! An uncorrectable line (R551). -/

/-- The work is struck if its copy lies in the line. -/
def Work.strike (id : Nat) (w : Work) : Work := if w.id = id then { w with struck := true } else w

/-- The line fails the Breath in progress: it holds the copy of one of its works (cause bit 10, Table 15.2). -/
def Train.failsBy (x : Train) (id : Nat) : Bool :=
  (x.phase == .working || x.phase == .sealing) && !x.closing && x.works.any (fun w => w.id == id)

/-- The train after an uncorrectable line of a core. -/
def Train.lineLost (x : Train) (core unit id : Nat) : Train :=
  { x with
    works := x.works.map (Work.strike id)
    causes := if x.failsBy id then Nat.lor x.causes 1024 else x.causes
    core := if x.failsBy id then core else x.core
    unit := if x.failsBy id then unit else x.unit }

theorem Train.failsBy_of_mem {x : Train} {id : Nat} (hphase : x.phase = .working) (hopen : x.closing = false)
    (hcopy : ∃ w ∈ x.works, w.id = id) : x.failsBy id = true := by
  simpa [Train.failsBy, hphase, hopen] using hcopy

theorem exec_clmScrub_uncorrected {s : State} {c : Nat} (hpower : s.powered = true) (hc : c < 256) (off id : Nat) :
    exec (.clmScrub c off false (some id)) s = .next ((s.modTrain (s.leaderOf (c / 16)) (·.lineLost c (clmBank off) id)).raiseO
      0x0403 2 (c / 16) c (clmBank off) 0 (leBytes 4 off)) := by
  have hserved : (!s.powered || decide (256 ≤ c)) = false := by simp [hpower, hc]
  have hstrike : (fun w : Work => if (some w.id == some id) = true then { w with struck := true } else w) = Work.strike id := by
    funext w
    simp [Work.strike]
  simp only [exec, execClmScrub, hserved, Bool.false_eq_true, if_false, hstrike]
  rfl

/-! A decode over its engine time (R521). -/

/-- The work is a VID_DECODE of the session in progress. -/
def Work.decodes (session : Nat) (w : Work) : Bool :=
  w.stage == .running && (match w.cmd with
    | .vidDecode h _ _ => h == session
    | _ => false)

/-- The picture buffer flushed. -/
def Session.flushed (z : Session) : Session := { z with waiting := [], ready := [], decoded := z.decoded ++ [[]] }

/-- The session flushed and the event raised, before the command ends. -/
def State.flushSession (s : State) (k session : Nat) (z : Session) : State :=
  (s.setSession k z.flushed).raiseL k 0x0502 2 0xFFFF z.engine 0 (leBytes 4 session ++ leBytes 4 z.frames)

section
variable {s : State} {k : Nat}

theorem exec_engineTimeout {session : Nat} {w : Work} {z : Session} (hpower : s.powered = true)
    (hphase : (s.train k).phase = .working)
    (hw : (s.train k).works.find? (·.decodes session) = some w)
    (hz : (s.train k).objects.sessions.find? (fun x => x.handle == session) = some z) :
    exec (.engineTimeout k session) s =
      .next ((s.flushSession k session z).endWork k w.id { status := 0x7F, reason := 0x0E30 }) := by
  simp only [exec]
  unfold execEngineTimeout
  extract_lets x running
  have hrunning : x.works.find? running = some w := hw
  have hsession : x.objects.sessions.find? (·.handle == session) = some z := hz
  have hserved : ¬(x.phase ≠ .working ∨ (!s.powered) = true) := by simp [x, hphase, hpower]
  simp only [hrunning, hsession, if_neg hserved]
  rfl

/-- A change of a train that leaves its objects. -/
theorem State.objects_modTrain (s : State) (t : Nat) {g : Train → Train} (hg : ∀ x, (g x).objects = x.objects) (k : Nat) :
    ((s.modTrain t g).train k).objects = (s.train k).objects := by
  rcases s.train_modTrain_any t g k with h | ⟨_, h⟩
  · rw [h]
  · rw [h, hg]

theorem State.objects_endWork (s : State) (t id : Nat) (r : Refuse) (k : Nat) :
    ((s.endWork t id r).train k).objects = (s.train k).objects := by
  have hdrop : ((s.dropPieces t id).train k).objects = (s.train k).objects := s.objects_modTrain t (by exact fun _ => rfl) k
  exact (State.objects_modTrain _ t (by exact fun _ => rfl) k).trans hdrop

theorem State.sessions_setSession (hk : k < s.trains.length) (z : Session) : ((s.setSession k z).train k).objects.sessions =
    (s.train k).objects.sessions.map (fun y => if y.handle == z.handle then z else y) := by
  rw [State.setSession, s.train_modTrain k _ hk]

/-- A session of the handle found after a session was set is that one. -/
theorem State.eq_of_mem_setSession (hk : k < s.trains.length) {z x : Session}
    (hx : x ∈ ((s.setSession k z).train k).objects.sessions) (hhandle : x.handle = z.handle) : x = z := by
  rw [s.sessions_setSession hk] at hx
  obtain ⟨y, _, rfl⟩ := List.mem_map.1 hx
  by_cases hy : y.handle = z.handle
  · simp [hy]
  · exact absurd hhandle (by simp [hy])

theorem State.flushSession_onlyEvents (k session : Nat) (z : Session) :
    OnlyEvents (s.setSession k z.flushed) (s.flushSession k session z) := State.raiseL_onlyEvents ..

theorem State.flushSession_waiting (hk : k < s.trains.length) {session : Nat} {z x : Session} (hz : z.handle = session)
    (hx : x ∈ ((s.flushSession k session z).train k).objects.sessions) (hhandle : x.handle = session) : x.waiting = [] := by
  rw [State.train, (s.flushSession_onlyEvents k session z).trains] at hx
  rw [State.eq_of_mem_setSession hk hx (hhandle.trans hz.symm)]
  rfl

end

/-- Settles O43: a corrected bit by `Core.corrected`, which its report leaves; an uncorrectable line by `Train.lineLost`; the
overrun decode by what flushing its session and ending its command do. -/
theorem scrubAndEngineTimeout : Obligations.ScrubAndEngineTimeout := by
  refine ⟨?_, ?_, ?_⟩
  · intro s c off work hwf hpower hc
    have hreports := (s.countCorrection c).reportCorrections_reports c off
    obtain ⟨n, hcore⟩ := hreports.core
    rw [State.countCorrection_core hwf hc] at hcore
    exact ⟨_, exec_clmScrub_corrected hpower hc off work, congrArg Core.corrections hcore, by rw [hcore]; rfl, by rw [hcore]; rfl,
      hreports.trains.trans State.countCorrection_trains⟩
  · intro s c off id hwf hpower hc hleader
    have hevents := State.raiseO_onlyEvents (s.modTrain (s.leaderOf (c / 16)) (·.lineLost c (clmBank off) id)) 0x0403 2 (c / 16) c
      (clmBank off) 0 (leBytes 4 off)
    have htrain := s.train_modTrain (s.leaderOf (c / 16)) (·.lineLost c (clmBank off) id) (by rw [s.wf_trains hwf]; omega)
    refine ⟨_, exec_clmScrub_uncorrected hpower hc off id, hevents.parts, ?_, fun hphase hopen hcopy => ?_⟩
    · rw [State.train, hevents.trains]
      exact congrArg Train.works htrain
    · rw [State.train, hevents.trains]
      exact (congrArg Train.causes htrain).trans (if_pos (Train.failsBy_of_mem hphase hopen hcopy))
  · intro s k session w z hwf hk hpower hphase hw hz
    have hheld : k < s.trains.length := by rw [s.wf_trains hwf]; omega
    have hevents := s.flushSession_onlyEvents k session z
    have hhandle : z.handle = session := by simpa using List.find?_some hz
    refine ⟨_, exec_engineTimeout hpower hphase hw hz, State.works_endWork _ ?_, fun x hx => ?_, hevents.parts, hevents.clock⟩
    · rw [hevents.trains, State.setSession, s.length_modTrain]
      exact hheld
    · rw [State.objects_endWork] at hx
      exact State.flushSession_waiting hheld hhandle hx

end Sys2Proof.Machine
end

section
/-! PROOFS. A check failure latched with its attribution (R534, R536). -/

namespace Sys2Proof.Machine

/-- The train with a failed check latched; a Stop macro of this card is noted for repair (R372). -/
def Train.latched (x : Train) (cause core unit : Nat) : Train :=
  let stop := decide (5 ≤ cause ∧ cause ≤ 7) && decide (unit < 8) && decide (core < 256)
  { x with
    causes := Nat.lor x.causes (2 ^ cause), core := core, unit := unit
    repairs := if stop && !x.repairs.contains (core, unit) then x.repairs ++ [(core, unit)] else x.repairs }

/-- The state with that failure latched and `n` the index of the next free value, before events. -/
def State.latched (s : State) (t cause core unit n : Nat) : State :=
  (s.modTrain t (·.latched cause core unit)).modDev fun d => { d with freeIndex := n }

/-- What events leave, with everything that the card puts out left open. -/
theorem OnlyEvents.frame {s t : State} (h : OnlyEvents s t) :
    t = { s with fns := t.fns, host := t.host, out := t.out, board := { s.board with alert := t.board.alert } } := by
  have hout := congrArg State.out h.rest
  exact h.rest.trans (by rw [hout])

/-- A latched failure reports a known-sum test or a CLM line at once, with a free value (R371, R551); no other does. -/
theorem State.latchFailure_onlyEvents (s : State) (k cause core unit : Nat) (vector : Option Nat) :
    ∃ n, OnlyEvents (s.latched k cause core unit n) (s.latchFailure k cause core unit vector) := by
  unfold State.latchFailure
  dsimp only
  split
  · exact ⟨s.dev.freeIndex + 1, State.raiseO_onlyEvents ..⟩
  · split
    · exact ⟨s.dev.freeIndex + 1, State.raiseO_onlyEvents ..⟩
    · exact ⟨s.dev.freeIndex, .refl _⟩

/-- A check that fires is latched with the unit as it is reported, but for the known-sum test of a pin or of a restore, which is
that command's own (R356, R600). -/
theorem exec_checkFailure_latches {s : State} {k cause core unit : Nat} (hpower : s.powered = true)
    (hserved : k ∈ s.activeTrains) (hk : k < 16) (hcause : cause < 16)
    (hphase : (s.train k).phase = .working ∨ (s.train k).phase = .sealing) (hopen : (s.train k).closing = false)
    (hfires : s.checkFires k cause core unit = true) (hown : cause = 7 → s.pinning k core = none ∧ s.repinning k core = none) :
    exec (.checkFailure k cause core unit) s = .next (s.latchFailure k cause core (reportedUnit cause unit)) := by
  have hbusy : ¬((s.train k).phase ≠ .working ∧ (s.train k).phase ≠ .sealing) := fun ⟨hw, hs⟩ => hphase.elim hw hs
  have hadmin : k ≠ adminTrain := Nat.ne_of_lt hk
  have hreal : ¬15 < cause := by omega
  simp only [exec, execCheckFailure]
  rw [if_neg (by simp [hbusy, hpower, hreal, hopen, hadmin, hserved, hfires])]
  by_cases h : cause = 7
  · subst h
    obtain ⟨hpin, hrepin⟩ := hown rfl
    simp only [hpin, hrepin]
    rfl
  · rw [if_pos h]

/-- Settles O41: a check of no command's own is latched, and the train it leaves is `Train.latched`; its event touches no train. -/
theorem checkFailureIsLatched : Obligations.CheckFailureIsLatched := by
  intro s k cause core unit hwf hpower hserved hk hcause hphase hopen hfires hown
  have hheld : k < s.trains.length := by rw [s.wf_trains hwf]; omega
  obtain ⟨n, hevents⟩ := s.latchFailure_onlyEvents k cause core (reportedUnit cause unit) none
  have htrains (j : Nat) : (s.latchFailure k cause core (reportedUnit cause unit)).train j =
      (s.modTrain k (·.latched cause core (reportedUnit cause unit))).train j := by
    rw [State.train, hevents.trains]
    rfl
  have htrain := (htrains k).trans (s.train_modTrain k _ hheld)
  refine ⟨_, exec_checkFailure_latches hpower hserved hk hcause hphase hopen hfires hown, ?_⟩
  rw [htrain, hevents.dev, hevents.trains]
  exact ⟨rfl, rfl, rfl, rfl, fun j hj => (htrains j).trans (s.train_modTrain_other k j _ hj), hevents.frame⟩

end Sys2Proof.Machine
end

section
/-! PROOFS. The links (R559, R560): a frame that passes its link checks moves its port's sequence alone; one that fails them changes no
group; what is sent leaves by the links and the outputs. -/

namespace Sys2Proof.Machine

variable {s : State}

/-! Link checks. -/

/-- A frame that passes its link checks, at a port of a sound and powered card (R559). -/
structure Received (s : State) (l : FrameLink) : Prop where
  wf : s.wf = true
  powered : s.powered = true
  port : l.port < 6
  trained : (s.link l.port).state = 2
  crc : l.crcGood = true
  seq : l.linkSeq = (s.link l.port).expect

/-- The port of a frame that has been taken awaits the next sequence. -/
def State.afterFrame (s : State) (l : FrameLink) : State :=
  s.setLink l.port { s.link l.port with expect := ((s.link l.port).expect + 1) % 65536, tries := 0 }

theorem Received.held {l : FrameLink} (h : Received s l) : l.port < s.links.length := by
  rw [s.wf_links h.wf]
  exact h.port

theorem Received.takeFrame {l : FrameLink} (h : Received s l) : s.takeFrame l = (true, s.afterFrame l) := by
  unfold State.takeFrame
  simp [h.powered, h.trained, h.crc, h.seq, State.afterFrame]

theorem Received.link {l : FrameLink} (h : Received s l) : (s.afterFrame l).link l.port =
    { s.link l.port with expect := ((s.link l.port).expect + 1) % 65536, tries := 0 } := s.link_setLink l.port _ h.held

section
variable (s) (l : FrameLink)
@[simp] theorem State.afterFrame_clock : (s.afterFrame l).clock = s.clock := rfl
@[simp] theorem State.afterFrame_trains : (s.afterFrame l).trains = s.trains := rfl
@[simp] theorem State.afterFrame_consort : (s.afterFrame l).consort = s.consort := rfl
@[simp] theorem State.afterFrame_follows : (s.afterFrame l).follows = s.follows := rfl
@[simp] theorem State.afterFrame_others : (s.afterFrame l).others = s.others := rfl
@[simp] theorem State.afterFrame_leaders : (s.afterFrame l).leaders = s.leaders := rfl
@[simp] theorem State.afterFrame_leaderOf (p : Nat) : (s.afterFrame l).leaderOf p = s.leaderOf p := rfl
@[simp] theorem State.afterFrame_train (k : Nat) : (s.afterFrame l).train k = s.train k := rfl
@[simp] theorem State.afterFrame_verdictsOf (k : Nat) : (s.afterFrame l).verdictsOf k = s.verdictsOf k := rfl
@[simp] theorem State.afterFrame_verdictDue (k : Nat) : (s.afterFrame l).verdictDue k = s.verdictDue k := rfl
@[simp] theorem State.length_links_afterFrame : (s.afterFrame l).links.length = s.links.length := List.length_set ..
end

/-! A frame that fails its link checks. -/

/-- `u` has the trains, the partitions and the consort of `s`. -/
structure SameGroups (s u : State) : Prop where
  trains : u.trains = s.trains
  parts : u.parts = s.parts
  consort : u.consort = s.consort

theorem SameGroups.trans {u v : State} (h : SameGroups s u) (k : SameGroups u v) : SameGroups s v :=
  ⟨k.trains.trans h.trains, k.parts.trans h.parts, k.consort.trans h.consort⟩

theorem State.once_snd (s : State) (code unit : Nat) :
    ∃ o, (s.once code unit).2 = s.modDev fun d => { d with onceThisSecond := o } := by
  unfold State.once
  split
  · exact ⟨s.dev.onceThisSecond, rfl⟩
  · exact ⟨_, rfl⟩

/-- An event of a port is remembered for the second, and is an event. -/
theorem State.linkEvent_onlyEvents (s : State) (code sev port : Nat) (payload : List Byte) :
    ∃ o, OnlyEvents (s.modDev fun d => { d with onceThisSecond := o }) (s.linkEvent code sev port payload) := by
  obtain ⟨o, ho⟩ := s.once_snd code port
  refine ⟨o, ?_⟩
  rw [← ho]
  unfold State.linkEvent
  generalize s.once code port = first
  dsimp only
  split
  · exact State.raiseD_onlyEvents ..
  · exact .refl _

theorem State.linkEvent_sameGroups (s : State) (code sev port : Nat) (payload : List Byte) :
    SameGroups s (s.linkEvent code sev port payload) := by
  obtain ⟨o, h⟩ := s.linkEvent_onlyEvents code sev port payload
  exact ⟨h.trains, h.parts, h.consort⟩

theorem State.modLink_sameGroups (s : State) (p : Nat) (g : Link → Link) : SameGroups s (s.modLink p g) := ⟨rfl, rfl, rfl⟩

theorem State.countReplay_onlyEvents (s : State) (p : Nat) : ∃ x, OnlyEvents (s.setLink p x) (s.countReplay p) := by
  unfold State.countReplay
  extract_lets x n
  exact ⟨_, State.saturated_onlyEvents ..⟩

theorem State.countReplay_sameGroups (s : State) (p : Nat) : SameGroups s (s.countReplay p) := by
  obtain ⟨x, h⟩ := s.countReplay_onlyEvents p
  exact ⟨h.trains, h.parts, h.consort⟩

theorem State.replayFrame_sameGroups (s : State) (p : Nat) : SameGroups s (s.replayFrame p) := by
  unfold State.replayFrame
  split
  · exact s.modLink_sameGroups p _
  · extract_lets counted
    have hcounted : SameGroups s counted := (s.countReplay_sameGroups p).trans (State.modLink_sameGroups _ p _)
    split
    · exact hcounted
    · exact (hcounted.trans (State.linkEvent_sameGroups _ _ _ _ _)).trans (State.modLink_sameGroups _ p _)

theorem State.takeFrame_fails {l : FrameLink} (h : (s.link l.port).state ≠ 2 ∨ l.crcGood = false ∨ l.linkSeq ≠ (s.link l.port).expect) :
    ∃ u, s.takeFrame l = (false, u) ∧ SameGroups s u := by
  unfold State.takeFrame
  extract_lets x
  split
  next => exact ⟨s, rfl, rfl, rfl, rfl⟩
  next hready =>
    have hbad : (!l.crcGood || l.linkSeq != x.expect) = true := by
      rcases h with h | h | h
      · exact absurd (.inl h) hready
      · simp [h]
      · simp [x, h]
    rw [if_pos hbad]
    exact ⟨_, rfl, s.replayFrame_sameGroups l.port⟩

/-! Sending (R558, R559). -/

/-- `u` is `s` with frames sent: each port has moved its own send sequence. -/
structure SentFrames (s u : State) : Prop where
  rest : u = { s with links := u.links, out := { s.out with frames := u.out.frames } }
  link : ∀ p, u.link p = { s.link p with sendSeq := (u.link p).sendSeq }

theorem SentFrames.refl (s : State) : SentFrames s s := ⟨rfl, fun _ => rfl⟩

theorem SentFrames.trans {u v : State} (h : SentFrames s u) (k : SentFrames u v) : SentFrames s v :=
  ⟨by rw [k.rest, h.rest], fun p => by rw [k.link p, h.link p]⟩

theorem State.sendPort_sent (s : State) (p kind : Nat) (fields : List Nat) (bs : List Byte) :
    SentFrames s (s.sendPort p kind fields bs) := by
  refine ⟨rfl, fun q => ?_⟩
  by_cases hq : q = p
  · subst hq
    by_cases hl : q < s.links.length
    · exact (s.link_setLink q _ hl).trans (by rw [show (s.sendPort q kind fields bs).link q = _ from s.link_setLink q _ hl])
    · have hsame : (s.sendPort q kind fields bs).link q = s.link q := by
        simp [State.link, State.sendPort, List.getD_eq_getElem?_getD, Nat.le_of_not_lt hl]
      rw [hsame]
  · have hsame : (s.sendPort p kind fields bs).link q = s.link q := s.link_setLink_other p q _ hq
    rw [hsame]

theorem State.sendTo_sent (s : State) (d kind : Nat) (fields : List Nat) (bs : List Byte) :
    SentFrames s (s.sendTo d kind fields bs) := by
  unfold State.sendTo
  split
  · exact s.sendPort_sent ..
  · exact .refl s

theorem State.sendAll_sent (s : State) (kind : Nat) (fields : List Nat) (bs : List Byte) : SentFrames s (s.sendAll kind fields bs) :=
  List.foldlRecOn (motive := SentFrames s) _ _ (.refl s) fun u hu d _ => hu.trans (u.sendTo_sent d kind fields bs)

theorem SentFrames.consort {u : State} (h : SentFrames s u) : u.consort = s.consort := by rw [h.rest]
theorem SentFrames.trains {u : State} (h : SentFrames s u) : u.trains = s.trains := by rw [h.rest]
theorem SentFrames.ground {u : State} (h : SentFrames s u) : u.ground = s.ground := by
  rw [h.rest]
  rfl

end Sys2Proof.Machine
end

section
/-! PROOFS. Formation (R562 to R565): HELLO and TIME frames, the state that a formed card begins in, the end that the timeout brings, and
the retraining of a link. -/

namespace Sys2Proof.Machine

variable {s : State}

/-! HELLO and TIME frames (R563, R573, R574). -/

/-- A card heard and its port agreed. -/
def Consort.hear (c : Consort) (card port : Nat) : Consort :=
  { c with
    heard := if c.heard.contains card then c.heard else card :: c.heard
    agreed := if c.agreed.contains port then c.agreed else port :: c.agreed }

theorem mem_rememberOnce (xs : List Nat) (x : Nat) : x ∈ (if xs.contains x then xs else x :: xs) := by
  split
  next h => exact List.contains_iff_mem.1 h
  next => exact List.mem_cons_self

/-- A HELLO that agrees is remembered, with the card at the far end of its port (R563). -/
theorem exec_hello_agrees {l : FrameLink} {card members topology id : Nat} {block : List Byte} (h : Received s l)
    (hforming : s.consort.forming = some id) (hnamed : (s.link l.port).named = true)
    (hagrees : s.helloProblem l.port card members topology block = none) :
    exec (.hello l card members topology l.port block) s =
      .next (((s.afterFrame l).modLink l.port fun x => { x with farCard := card }).modConsort (·.hear card l.port)) := by
  have hnamed' : ((s.afterFrame l).link l.port).named = true := by rw [h.link]; exact hnamed
  have hagrees' : (s.afterFrame l).helloProblem l.port card members topology block = none := hagrees
  simp only [exec, execHello, h.takeFrame, State.afterFrame_consort, hforming, hnamed', hagrees']
  rfl

/-- A phase error measured during formation. -/
def Consort.measure (c : Consort) (err : Int) : Consort :=
  { c with phase := err, phaseGood := if err.natAbs ≤ 200 then c.phaseGood + 1 else 0 }

/-- During formation a TIME frame steps the timebase until the phase has settled (R563; DEDUCED, assumption 35). -/
theorem exec_time_forming {l : FrameLink} {base delay id : Nat} {err : Int} (h : Received s l) (hforming : s.consort.forming = some id)
    (hfollower : s.consort.card ≠ 0) :
    exec (.time l base delay err) s = .next { (s.afterFrame l).modConsort (·.measure err) with
      clock := if err.natAbs ≤ 200 then s.clock else { s.clock with timebase := base + delay / 10 } } := by
  have hsteps : (s.consort.forming.isSome && s.consort.card != 0) = true := by simp [hforming, hfollower]
  simp only [exec, execTime, h.takeFrame, State.afterFrame_consort, Bool.not_true, Bool.false_eq_true, if_false, if_pos hsteps]
  by_cases herr : err.natAbs ≤ 200
  · simp only [Consort.measure, herr, if_true]
    rfl
  · simp only [Consort.measure, herr, if_false]
    rfl

theorem exec_time_follower {l : FrameLink} {base delay : Nat} {err : Int} (h : Received s l) (hforming : s.consort.forming = none)
    (hfollows : s.follows = true) (herr : err.natAbs ≤ 200) :
    exec (.time l base delay err) s = .next ((s.afterFrame l).modConsort fun c => { c with phase := err, phaseBad := 0 }) := by
  simp only [exec, execTime, h.takeFrame, State.afterFrame_consort, State.afterFrame_follows, hforming, hfollows,
    Option.isSome_none, Bool.false_and, Bool.not_true, Bool.false_eq_true, if_false, if_neg (Nat.not_lt.2 herr),
    if_neg (show ¬1000 < err.natAbs by omega)]
  rfl

/-! A formed card (R563 to R565). -/

/-- `u` is `s` but for trains, functions and partitions, and the bytes of HBM are those of `s`. -/
structure OnlyGroups (s u : State) : Prop where
  rest : u = { s with fns := u.fns, parts := u.parts, trains := u.trains }
  hbm : u.parts.map (·.hbm) = s.parts.map (·.hbm)

theorem OnlyGroups.refl (s : State) : OnlyGroups s s := ⟨rfl, rfl⟩

theorem OnlyGroups.trans {u v : State} (h : OnlyGroups s u) (k : OnlyGroups u v) : OnlyGroups s v :=
  ⟨by rw [k.rest, h.rest], k.hbm.trans h.hbm⟩

theorem OnlyGroups.foldl {α : Type} {f : State → α → State} (hf : ∀ u a, OnlyGroups u (f u a)) (xs : List α) (s : State) :
    OnlyGroups s (xs.foldl f s) :=
  List.foldlRecOn (motive := OnlyGroups s) xs f (.refl s) fun u hu a _ => hu.trans (hf u a)

theorem OnlyGroups.consort {u : State} (h : OnlyGroups s u) : u.consort = s.consort := by rw [h.rest]
theorem OnlyGroups.clock {u : State} (h : OnlyGroups s u) : u.clock = s.clock := by rw [h.rest]

theorem State.modTrain_onlyGroups (s : State) (t : Nat) (g : Train → Train) : OnlyGroups s (s.modTrain t g) := ⟨rfl, rfl⟩
theorem State.modPart_onlyGroups (s : State) (i : Nat) {g : Part → Part} (hg : ∀ x, (g x).hbm = x.hbm := by exact fun _ => rfl) :
    OnlyGroups s (s.modPart i g) := ⟨rfl, s.hbm_modPart i hg⟩
theorem State.modFn_onlyGroups (s : State) (i : Nat) (g : Function → Function) : OnlyGroups s (s.modFn i g) := ⟨rfl, rfl⟩

/-- The train of a group that is cleared (Table 3.5). -/
def Train.cleared (x : Train) : Train := { x.dropWork with objects := x.objects.emptied }

/-- A group cleared changes no train but its own. -/
theorem State.clearGroup_eq (s : State) (t : Nat) :
    ∃ u, OnlyGroups s u ∧ u.trains = s.trains ∧ s.clearGroup t = u.modTrain t Train.cleared := by
  have hcores : OnlyGroups (s.dropClaims t) ((s.dropClaims t).clearCores t) := by
    unfold State.clearCores
    exact .foldl (fun u p => u.modPart_onlyGroups p) _ _
  refine ⟨_, ((s.modFn_onlyGroups 0 _).trans hcores).trans (.foldl (fun u p => u.modFn_onlyGroups (p + 1) _) _ _), ?_, rfl⟩
  refine List.foldlRecOn (motive := fun u : State => u.trains = s.trains) _ _ ?_ fun u hu p _ => hu
  exact List.foldlRecOn (motive := fun u : State => u.trains = s.trains) _ _ rfl fun u hu p _ => hu

/-- The train of a group that begins in a consort, by the announced counters. -/
def Train.joined (t : Nat) (counters : List Nat) (x : Train) : Train :=
  { x with next := max x.next (counters.getD t x.next), halt := .none, stopFor := .none, phase := .stopped, closed := false }

def State.joinGroup (counters : List Nat) (s : State) (t : Nat) : State := (s.clearGroup t).modTrain t (·.joined t counters)

theorem State.joinGroup_onlyGroups (s : State) (counters : List Nat) (t : Nat) : OnlyGroups s (s.joinGroup counters t) := by
  obtain ⟨u, hu, _, heq⟩ := s.clearGroup_eq t
  rw [State.joinGroup, heq]
  exact (hu.trans (u.modTrain_onlyGroups t _)).trans (State.modTrain_onlyGroups _ t _)

theorem State.length_joinGroup (s : State) (counters : List Nat) (t : Nat) :
    (s.joinGroup counters t).trains.length = s.trains.length := by
  obtain ⟨u, _, htrains, heq⟩ := s.clearGroup_eq t
  rw [State.joinGroup, heq, State.length_modTrain, State.length_modTrain, htrains]

theorem State.train_joinGroup {counters : List Nat} {t : Nat} (h : t < s.trains.length) :
    (s.joinGroup counters t).train t = (s.train t).cleared.joined t counters := by
  obtain ⟨u, _, htrains, heq⟩ := s.clearGroup_eq t
  rw [State.joinGroup, heq, State.train_modTrain _ t _ (by rwa [State.length_modTrain, htrains]), u.train_modTrain t _ (by rwa [htrains]),
    State.train, htrains]
  rfl

theorem State.train_joinGroup_other (s : State) (counters : List Nat) {t k : Nat} (h : k ≠ t) :
    (s.joinGroup counters t).train k = s.train k := by
  obtain ⟨u, _, htrains, heq⟩ := s.clearGroup_eq t
  rw [State.joinGroup, heq, State.train_modTrain_other _ t k _ h, u.train_modTrain_other t k _ h, State.train, htrains]
  rfl

/-- Every group of the card begins in the consort. -/
def State.joinAll (s : State) (counters : List Nat) : State := s.leaders.foldl (State.joinGroup counters) s

theorem State.joinAll_onlyGroups (s : State) (counters : List Nat) : OnlyGroups s (s.joinAll counters) :=
  .foldl (fun u t => u.joinGroup_onlyGroups counters t) _ s

theorem State.length_joinAll (s : State) (counters : List Nat) : (s.joinAll counters).trains.length = s.trains.length :=
  List.foldlRecOn (motive := fun u : State => u.trains.length = s.trains.length) _ _ rfl
    fun u hu t _ => (u.length_joinGroup counters t).trans hu

theorem State.train_joinAll {counters : List Nat} (hlen : s.trains.length = 17) (k : Nat) :
    (s.joinAll counters).train k = if k ∈ s.leaders then (s.train k).cleared.joined k counters else s.train k :=
  foldl_read (f := State.joinGroup counters) (read := State.train) (g := fun t x => x.cleared.joined t counters)
    (ok := fun u => u.trains.length = 17) s.nodup_leaders (fun u t _ hu => (u.length_joinGroup counters t).trans hu)
    (fun u t ht hu => u.train_joinGroup (by rw [hu]; exact Nat.lt_succ_of_lt (State.lt_of_mem_leaders ht)))
    (fun u t q hq => u.train_joinGroup_other counters hq) hlen k

theorem Train.cleared_joined (x : Train) (t : Nat) (counters : List Nat) :
    (x.cleared.joined t counters).halt = .none ∧ (x.cleared.joined t counters).works = []
      ∧ (x.cleared.joined t counters).next = max x.next (counters.getD t x.next) := by
  refine ⟨rfl, rfl, ?_⟩
  have hnext : x.cleared.next = x.next := x.dropWork_next
  simp only [Train.joined, hnext]

/-- The administrative train of a formed card goes on with the announced Breath. -/
def Train.resumed (n : Nat) (x : Train) : Train := { x with next := n, halt := .none, stopFor := .none, phase := .stopped }

/-- A card that has formed at T0 `start`. -/
def Consort.formed (c : Consort) (start : Nat) : Consort :=
  { c with member := true, forming := none, start := start, phaseGood := 0, phaseBad := 0 }

theorem State.form_eq (s : State) (id start breath : Nat) (counters : List Nat) :
    ∃ detail, s.form id start breath counters =
      (((s.joinAll counters).modTrain adminTrain (·.resumed breath)).modConsort (·.formed start)).finishWork adminTrain id 0 detail :=
  ⟨_, rfl⟩

theorem exec_formationComplete {id start breath : Nat} {counters : List Nat} (hpower : s.powered = true)
    (hforming : s.consort.forming = some id) (hstopped : ∀ k ∈ s.activeTrains, (s.train k).halt = .formation)
    (htrained : ∀ p ∈ s.namedPorts, (s.link p).state = 2) (hphase : s.consort.card = 0 ∨ 16 ≤ s.consort.phaseGood)
    (hbreath : (s.train 16).next ≤ breath) (hstart : s.clock.timebase ≤ start) :
    exec (.formationComplete start breath counters) s = .next (s.form id start breath counters) := by
  have hstopped' : s.activeTrains.all (fun t => [Halt.formation, .faulted].contains (s.train t).halt) = true := by
    rw [List.all_eq_true]
    intro k hk
    rw [hstopped k hk]
    rfl
  have htrained' : s.namedPorts.all (fun p => (s.link p).state == 2) = true := by
    rw [List.all_eq_true]
    intro p hp
    rw [htrained p hp]
    rfl
  have hadmin : (s.train adminTrain).next ≤ breath := hbreath
  simp only [exec, execFormationComplete, hforming, hstopped', htrained', hphase, hadmin, hstart, hpower, decide_true, Bool.and_true,
    and_self, if_true]

/-- What the completion of a formation leaves of the groups, of the administrative train and of the consort. -/
theorem State.form_spec (hwf : s.wf = true) (id start breath : Nat) (counters : List Nat) :
    let t := s.form id start breath counters
    t.consort = s.consort.formed start ∧ (t.train 16).next = breath
      ∧ (∀ k ∈ s.leaders, (t.train k).halt = .none ∧ (t.train k).works = []
          ∧ (t.train k).next = max (s.train k).next (counters.getD k (s.train k).next))
      ∧ (∀ v ∈ (t.train 16).works, v.id = id → v.stage = .finished ∧ v.status = 0)
      ∧ t.clock = s.clock ∧ t.parts.map (·.hbm) = s.parts.map (·.hbm) := by
  have hlen : (s.joinAll counters).trains.length = 17 := (s.length_joinAll counters).trans (s.wf_trains hwf)
  have hgroups := s.joinAll_onlyGroups counters
  have hadmin : adminTrain < (s.joinAll counters).trains.length := by rw [hlen]; decide
  obtain ⟨detail, heq⟩ := s.form_eq id start breath counters
  rw [heq]
  set u := ((s.joinAll counters).modTrain adminTrain (·.resumed breath)).modConsort (·.formed start) with hu
  have hheld : adminTrain < u.trains.length := by simpa [hu] using hadmin
  refine ⟨by simp [hu, State.finishWork, State.modConsort, hgroups.consort], ?_, fun k hk => ?_, fun v hv hid => ?_, hgroups.clock,
    hgroups.hbm⟩
  · have hnext : (u.train adminTrain).next = breath := by
      rw [show u.train adminTrain = _ from State.train_modTrain _ adminTrain _ hadmin]
      rfl
    exact (congrArg Train.next (u.train_modWork adminTrain id _ hheld)).trans hnext
  · have hother : k ≠ adminTrain := Nat.ne_of_lt (State.lt_of_mem_leaders hk)
    have htrain : (u.finishWork adminTrain id 0 detail).train k = (s.train k).cleared.joined k counters := by
      rw [show (u.finishWork adminTrain id 0 detail).train k = u.train k from u.train_modTrain_other adminTrain k _ hother,
        show u.train k = (s.joinAll counters).train k from State.train_modTrain_other _ adminTrain k _ hother,
        State.train_joinAll (s.wf_trains hwf), if_pos hk]
    rw [htrain]
    exact (s.train k).cleared_joined k counters
  · exact State.works_finishWork_ended hheld v hv hid

/-! The end that the timeout brings (R563). -/

/-- A link of no consort. -/
def Link.unnamed (l : Link) : Link := { l with named := false, state := 0 }

/-- A card of no consort. -/
def State.unnamed (s : State) : State := { s with consort := {}, links := s.links.map Link.unnamed }

theorem State.link_unnamed (s : State) (p : Nat) : s.unnamed.link p = (s.link p).unnamed := by
  simp only [State.link, State.unnamed, List.getD_eq_getElem?_getD, List.getElem?_map]
  cases s.links[p]? <;> rfl

/-- A train that stops for formation no longer. -/
def Train.unstopped (x : Train) : Train :=
  { x with
    halt := if x.halt = .formation then .none else x.halt, stopFor := if x.stopFor = .formation then .none else x.stopFor }

theorem State.endFormation_eq {id : Nat} (h : s.consort.forming = some id) (r : Refuse) :
    s.endFormation r =
      (s.failWork adminTrain id r).unnamed.activeTrains.foldl (fun u t => u.modTrain t Train.unstopped) (s.failWork adminTrain id r).unnamed := by
  simp only [State.endFormation, h]
  rfl

/-- The trains stop for formation no longer, and keep their works. -/
theorem State.unstopped_rest (s : State) (ks : List Nat) :
    let t := ks.foldl (fun u k => u.modTrain k Train.unstopped) s
    t = { s with trains := t.trains } ∧ ∀ k, (t.train k).works = (s.train k).works := by
  refine List.foldlRecOn (motive := fun t : State => t = { s with trains := t.trains } ∧ ∀ k, (t.train k).works = (s.train k).works)
    _ _ ⟨rfl, fun _ => rfl⟩ fun u ⟨hu, hworks⟩ a _ => ⟨?_, fun k => ?_⟩
  · rw [hu]
    rfl
  · rcases u.train_modTrain_any a Train.unstopped k with h | ⟨_, h⟩
    · rw [h, hworks]
    · rw [h, ← hworks]
      rfl

/-- A formation that fails at this card is told to the other members, then ends. -/
theorem State.failFormation_eq {id : Nat} (h : s.consort.forming = some id) (r : Refuse) :
    ∃ u, SentFrames s u ∧ s.failFormation r = u.endFormation r := by
  unfold State.failFormation
  rw [h, if_neg (by simp)]
  exact ⟨_, s.sendAll_sent .., rfl⟩

theorem exec_formationTimeout (heard : Nat) (hpower : s.powered = true) (hover : s.formationOver = true) :
    exec (.formationTimeout heard) s = .next (s.failFormation (mismatch 0x1006 (zeros 8 ++ leBytes 2 heard))) := by
  simp only [exec, execFormationTimeout, hpower, hover, Bool.and_self, if_true]

/-- The end of a formation ends its command, unnames the ports and leaves every train free to run. -/
theorem State.endFormation_spec {u : State} {id : Nat} {r : Refuse} (hwf : s.wf = true) (hforming : s.consort.forming = some id)
    (hsent : SentFrames s u) :
    let t := u.endFormation r
    t.consort = {} ∧ (∀ v ∈ (t.train 16).works, v.id = id → v.stage = .finished ∧ v.status = r.status)
      ∧ (∀ p, t.link p = { s.link p with named := (t.link p).named, state := (t.link p).state, sendSeq := (t.link p).sendSeq })
      ∧ (∀ p, (t.link p).named = false ∧ (t.link p).state = 0)
      ∧ t = { s with consort := {}, trains := t.trains, links := t.links, out := { s.out with frames := t.out.frames } } := by
  rw [State.endFormation_eq (hsent.consort ▸ hforming)]
  obtain ⟨hrest, hworks⟩ := (u.failWork adminTrain id r).unnamed.unstopped_rest (u.failWork adminTrain id r).unnamed.activeTrains
  set t := (u.failWork adminTrain id r).unnamed.activeTrains.foldl (fun u t => u.modTrain t Train.unstopped)
    (u.failWork adminTrain id r).unnamed
  have hlink (p : Nat) : t.link p = (u.link p).unnamed := by
    rw [hrest]
    exact (u.failWork adminTrain id r).link_unnamed p
  have hheld : adminTrain < u.trains.length := by rw [hsent.trains, s.wf_trains hwf]; decide
  refine ⟨by rw [hrest]; rfl, fun v hv hid => ?_, fun p => ?_, fun p => ?_, ?_⟩
  · rw [hworks] at hv
    exact State.works_failWork hheld v hv hid
  · rw [hlink, hsent.link p]
    rfl
  · rw [hlink]
    exact ⟨rfl, rfl⟩
  · obtain ⟨ls, fs, rfl⟩ : ∃ ls fs, u = { s with links := ls, out := { s.out with frames := fs } } := ⟨_, _, hsent.rest⟩
    rw [hrest]
    rfl

/-! Retraining (R560). -/

/-- Events leave a change of the links and of the device as it is. -/
theorem OnlyEvents.setLinksDev {u : State} (h : OnlyEvents s u) (ls : List Link) (d : Device) :
    OnlyEvents { s with links := ls, dev := d } { u with links := ls, dev := d } := by
  refine ⟨?_, h.fn⟩
  conv_lhs => rw [h.rest]

/-- A trained link. -/
def Link.retrained (l : Link) : Link := { l with state := 2, failedAt := [] }

theorem exec_linkRetrain {p : Nat} (hpower : s.powered = true) (hnamed : (s.link p).named = true) (htraining : (s.link p).state = 1)
    (husable : (s.link p).usable = true) (hforming : s.consort.forming = none) :
    exec (.linkRetrain p true) s = .next (((s.countRetrain p).linkEvent 0x0602 1 p [byte (flag false)]).modLink p Link.retrained) := by
  simp only [exec, execLinkRetrain, hpower, hnamed, htraining, husable, hforming]
  rfl

theorem State.link_of_links {u : State} (h : u.links = s.links) (p : Nat) : u.link p = s.link p := by rw [State.link, h]; rfl

theorem linkRetrain_counts {p : Nat} (hwf : s.wf = true) (hp : p < 6) (hpower : s.powered = true) (hnamed : (s.link p).named = true)
    (htraining : (s.link p).state = 1) (husable : (s.link p).usable = true) (hforming : s.consort.forming = none) :
    ∃ t, exec (.linkRetrain p true) s = .next t
      ∧ t.link p = { s.link p with state := 2, failedAt := [], retrains := min ((s.link p).retrains + 1) 0xFFFFFFFF }
      ∧ (∀ q, q ≠ p → t.link q = s.link q)
      ∧ OnlyEvents { s with links := t.links, dev := { s.dev with onceThisSecond := t.dev.onceThisSecond } } t := by
  refine ⟨_, exec_linkRetrain hpower hnamed htraining husable hforming, ?_⟩
  have hl : p < s.links.length := by rw [s.wf_links hwf]; exact hp
  set counted := s.setLink p { s.link p with retrains := satAdd 32 (s.link p).retrains 1 } with hcounted
  have hcount : OnlyEvents counted (s.countRetrain p) := by
    unfold State.countRetrain
    extract_lets x n
    exact State.saturated_onlyEvents ..
  obtain ⟨o, hevent⟩ := (s.countRetrain p).linkEvent_onlyEvents 0x0602 1 p [byte (flag false)]
  set u := (s.countRetrain p).linkEvent 0x0602 1 p [byte (flag false)]
  have hlinks : u.links = counted.links := hevent.links.trans hcount.links
  have hlink (q : Nat) : u.link q = counted.link q := State.link_of_links hlinks q
  refine ⟨?_, fun q hq => ?_, ?_⟩
  · rw [u.link_modLink p _ (by rw [hlinks, hcounted]; simpa [State.setLink] using hl), hlink, s.link_setLink p _ hl]
    rfl
  · rw [u.link_modLink_other p q _ hq, hlink, s.link_setLink_other p q _ hq]
  · have hdev : u.dev = { s.dev with onceThisSecond := o } := by
      rw [hevent.dev, State.modDev, hcount.dev]
      rfl
    have hall := (hcount.setLinksDev (u.modLink p Link.retrained).links u.dev).trans
      (hevent.setLinksDev (u.modLink p Link.retrained).links u.dev)
    have hsame : { s.dev with onceThisSecond := u.dev.onceThisSecond } = u.dev := by rw [hdev]
    change OnlyEvents { s with links := _, dev := { s.dev with onceThisSecond := u.dev.onceThisSecond } } _
    rw [hsame]
    exact hall

/-- Settles O55: each frame by its equation; a formed card by `form_spec`, one whose time is over by `endFormation_spec`. -/
theorem consortFormation : Obligations.ConsortFormation := by
  unfold Obligations.ConsortFormation
  intro taken
  have received {s : State} {l : FrameLink} (h : taken s l) : Received s l := by
    obtain ⟨hwf, hpower, hport, htrained, hcrc, hseq⟩ := h
    exact ⟨hwf, hpower, hport, htrained, hcrc, hseq⟩
  refine ⟨fun s l card members topology id block htaken hforming hnamed hagrees => ?_,
    fun s l base delay id err htaken hforming hcard => ?_,
    fun s l base delay err htaken hforming hfollows herr => ⟨_, exec_time_follower (received htaken) hforming hfollows herr, rfl⟩,
    fun s id start breath counters hwf hpower hforming hstopped htrained hphase hbreath hstart => ?_,
    fun s id heard hwf hpower hforming hover => ?_,
    fun s p hwf hp hpower hnamed htraining husable hforming =>
      linkRetrain_counts hwf hp hpower hnamed htraining husable hforming⟩
  · have h := received htaken
    refine ⟨_, exec_hello_agrees h hforming hnamed hagrees, ?_, mem_rememberOnce _ card, mem_rememberOnce _ l.port, rfl⟩
    rw [State.modConsort_link_at, State.link_modLink _ _ _ (by simpa using h.held), h.link]
  · exact ⟨_, exec_time_forming (received htaken) hforming hcard, rfl, rfl⟩
  · exact ⟨_, exec_formationComplete hpower hforming hstopped htrained hphase hbreath hstart, s.form_spec hwf id start breath counters⟩
  · obtain ⟨u, hsent, heq⟩ := State.failFormation_eq hforming (mismatch 0x1006 (zeros 8 ++ leBytes 2 heard))
    obtain ⟨hconsort, hended, hlink, hidle, hrest⟩ := State.endFormation_spec hwf hforming hsent
    exact ⟨_, (exec_formationTimeout heard hpower hover).trans (congrArg _ heq), hconsort, hended, hlink, fun p _ => hidle p, hrest⟩

end Sys2Proof.Machine
end

section
/-! PROOFS. The end of a consort group's Breath at a follower that ejects itself (R548, R577, R580, R581): replies, records, frames and a
decided seal keep the consort and the ground; what leaves a consort leaves the clock and the rings as they are. -/

namespace Sys2Proof.Machine

variable (s : State)

/-! The consort through the release of replies (R123, R125). -/

@[simp] theorem State.ite_consort (c : Prop) [Decidable c] (a b : State) : (if c then a else b).consort = if c then a.consort else b.consort :=
  apply_ite State.consort c a b

@[simp] theorem State.raiseF_consort (n c v f : Nat) (p : List Byte) : (s.raiseF n c v f p).consort = s.consort := (s.raiseF_onlyEvents ..).consort
@[simp] theorem State.signal_consort (f v : Nat) : (s.signal f v).consort = s.consort := (s.signal_onlyEvents f v).consort
@[simp] theorem State.tryGap_consort : s.tryGap.consort = s.consort := s.tryGap_onlyRecords.consort
@[simp] theorem State.stage_consort (o : Bool) (n : Nat) (rs : List (List Byte)) (p b : Nat) : (s.stage o n rs p b).2.consort = s.consort :=
  (s.stage_onlyRecords o n rs p b).consort
@[simp] theorem State.writeReply_consort (f : Nat) (r : Reply) : (s.writeReply f r).consort = s.consort := rfl

@[simp] theorem State.postHeld_consort (n f : Nat) : (State.postHeld n s f).consort = s.consort := by
  induction n generalizing s with
  | zero => rfl
  | succ n ih =>
    unfold State.postHeld
    dsimp only
    split
    · rfl
    · split
      · rfl
      · rw [ih, State.writeReply_consort, State.modFn_consort]

@[simp] theorem State.noteFull_consort (f : Nat) : (s.noteFull f).consort = s.consort := by
  unfold State.noteFull
  simp

@[simp] theorem State.postReplies_consort (f : Nat) (rs : List Reply) : (s.postReplies f rs).consort = s.consort := by
  simp [State.postReplies]

@[simp] theorem State.stageDue_consort (d : DueReply) (b : Nat) : (s.stageDue d b).2.2.consort = s.consort := by
  unfold State.stageDue
  split
  · rfl
  · split
    · rfl
    · simp [apply_ite, State.fresh]

@[simp] theorem State.countReply_consort (t : Nat) (d : DueReply) (b : Bool) : (s.countReply t d b).consort = s.consort := by
  simp [State.countReply]

@[simp] theorem State.stageAll_consort (t b : Nat) (ds : List DueReply) (acc : List (Nat × Reply)) :
    (s.stageAll t b ds acc).2.consort = s.consort := by
  induction ds generalizing s acc with
  | nil => rfl
  | cons d ds ih => simp [State.stageAll, ih]

/-! What keeps the consort and the ground. -/

/-- `u` has the consort and the ground of `s`. -/
structure Aside (s u : State) : Prop where
  ground : u.ground = s.ground
  consort : u.consort = s.consort

theorem Aside.refl : Aside s s := ⟨rfl, rfl⟩

variable {s} in
theorem Aside.trans {u v : State} (h : Aside s u) (k : Aside u v) : Aside s v := ⟨k.ground.trans h.ground, k.consort.trans h.consort⟩

theorem Aside.foldl {α : Type} {f : State → α → State} (hf : ∀ u a, Aside u (f u a)) (xs : List α) : Aside s (xs.foldl f s) :=
  List.foldlRecOn (motive := Aside s) xs f (.refl s) fun u hu a _ => hu.trans (hf u a)

variable {s} in
theorem OnlyRecords.aside {u : State} (h : OnlyRecords s u) : Aside s u := ⟨h.ground, h.consort⟩

variable {s} in
theorem OnlyEvents.aside {u : State} (h : OnlyEvents s u) : Aside s u := h.records.aside

theorem State.modTrain_aside (t : Nat) (g : Train → Train) : Aside s (s.modTrain t g) := ⟨rfl, rfl⟩

theorem State.finishWork_aside (t id st : Nat) (d : List Byte) : Aside s (s.finishWork t id st d) := ⟨rfl, rfl⟩

theorem State.modFn_aside (i : Nat) {g : Function → Function} (h : ∀ f, (g f).quietRings = f.quietRings := by exact fun _ => rfl) :
    Aside s (s.modFn i g) := ⟨s.modFn_ground i h, rfl⟩

theorem State.modPart_aside (i : Nat) {g : Part → Part} (hh : ∀ p, (g p).hbm = p.hbm := by exact fun _ => rfl)
    (hc : ∀ p, (g p).cores = p.cores := by exact fun _ => rfl) : Aside s (s.modPart i g) := ⟨s.modPart_ground i hh hc, rfl⟩

theorem State.release_aside (t b : Nat) (ds : List DueReply) : Aside s (s.release t b ds) := by
  refine ⟨s.release_ground t b ds, ?_⟩
  unfold State.release
  dsimp only
  refine List.foldlRecOn (motive := fun u : State => u.consort = s.consort) _ _ (s.stageAll_consort ..) fun u hu f _ => ?_
  rw [State.ite_consort, State.postReplies_consort, ite_self, hu]

theorem State.returnSlot_aside (f g p st b : Nat) (h : HeldSlot) : Aside s (s.returnSlot f g p st b h) := by
  have hwrite (u : State) (r : Region) (a : Nat) (bs : List Byte) : Aside u (u.slotWrite f r a bs false) := by
    unfold State.slotWrite
    split
    · exact .refl u
    · exact ⟨rfl, rfl⟩
  unfold State.returnSlot
  split
  · exact .refl s
  · exact ((hwrite s _ _ _).trans (hwrite _ _ _ _)).trans (State.modFn_aside _ f)

theorem State.faultDiag_aside (w : Work) : Aside s (s.faultDiag w) := by
  unfold State.faultDiag
  split
  · exact .foldl s (fun u c => u.modPart_aside (c / 16)) _
  · exact .refl s

theorem State.countDrained_aside (t : Nat) (done : List Work) : Aside s (s.countDrained t done) := by
  unfold State.countDrained
  split
  · exact .refl s
  · exact s.modTrain_aside adminTrain _

theorem State.releaseFinished_aside (t : Nat) : Aside s (s.releaseFinished t) := by
  unfold State.releaseFinished
  extract_lets b done returned dues emptied
  have hreturned : Aside s returned := (s.countDrained_aside t done).trans
    (.foldl _ (fun u w => .foldl u (fun v h => v.returnSlot_aside ..) _) done)
  exact ((hreturned.trans (returned.modTrain_aside t _)).trans (emptied.release_aside t b dues)).trans
    (.foldl _ (fun u w => u.faultDiag_aside w) done)

/-! A decided seal. -/

theorem State.failSeal_aside (t : Nat) : Aside s (s.failSeal t) := by
  refine ⟨?_, (s.failSeal_sameReplies t).consort⟩
  unfold State.failSeal
  extract_lets x n failed reverted noted counted flagged raised
  have hreverted : reverted.ground = s.ground := by
    unfold reverted State.revertPolicy
    (repeat' split) <;> rfl
  have hcounted : counted.ground = noted.ground :=
    State.foldl_ground _ _ _ fun u p => (State.saturated_ground ..).trans (u.modPart_ground p)
  have hflagged : flagged.ground = counted.ground := by
    unfold flagged
    split
    · exact State.foldl_ground _ _ _ fun u p => u.modFn_ground (p + 1)
    · rfl
  have hraised : raised.ground = flagged.ground := (flagged.raiseL_onlyEvents ..).ground
  exact (raised.stageEvent_onlyRecords ..).ground.trans (hraised.trans (hflagged.trans (hcounted.trans hreverted)))

theorem State.closeSeal_aside (t : Nat) : Aside s (s.closeSeal t) := by
  unfold State.closeSeal
  extract_lets x abort inSet reason ended shown released aborted opened
  have hreleased : Aside s released :=
    ((s.modTrain_aside t _).trans (ended.modTrain_aside t _)).trans (shown.releaseFinished_aside t)
  have haborted : Aside released aborted := by
    unfold aborted
    split
    · exact (released.stageEvent_onlyRecords ..).aside
    · exact .refl released
  have hopened : Aside s opened := (hreleased.trans haborted).trans (aborted.modTrain_aside t _)
  split
  · exact (hopened.trans (.foldl opened (fun u p => u.modPart_aside p) _)).trans (State.modTrain_aside _ t _)
  · exact hopened

theorem State.noteRestart_aside : Aside s s.noteRestart := by
  unfold State.noteRestart
  split
  · exact Aside.trans (u := s.modDev _) ⟨rfl, rfl⟩ (State.raiseD_onlyEvents ..).aside
  · exact .refl s

theorem State.settle_aside (t : Nat) : Aside s (s.settle t) := by
  unfold State.settle
  extract_lets x stop
  have hstop (h : Halt) : Aside s (stop h) := (s.modTrain_aside t _).trans (State.noteRestart_aside _)
  (repeat' split) <;> simp only [hstop, Aside.refl, State.noteRestart_aside]

theorem State.enterHalted_aside : Aside s s.enterHalted := by
  unfold State.enterHalted
  dsimp only
  split
  · have hclosed : Aside s ((s.closeFolio 4).modDev fun d => { d with state := .halted, shutdownWork := none }) :=
      (s.closeFolio_onlyRecords 4 none).aside.trans ⟨rfl, rfl⟩
    exact hclosed.trans (.foldl _ (fun u t => u.modTrain_aside t _) _)
  · exact .refl s

/-! Departures (R580, R581). -/

theorem State.noteGone_aside (card cause kind : Nat) : Aside s (s.noteGone card cause kind) := by
  unfold State.noteGone
  extract_lets raised
  have hraised : Aside s raised := (s.raiseD_onlyEvents ..).aside
  split
  · exact hraised.trans (raised.stageEvent_onlyRecords ..).aside
  · exact hraised

theorem State.closeGroups_aside (r : Refuse) : Aside s (s.closeGroups r) := .foldl s (fun u t => u.modTrain_aside t _) _

/-- A card that leaves clears its groups, and is of no consort. -/
theorem State.leaveConsort_clears :
    ∃ u, ClearedIn (fun _ => True) s u ∧ Aside u.unnamed s.leaveConsort := by
  unfold State.leaveConsort
  extract_lets quarantined left b cleared unnamed faulted
  refine ⟨cleared, .foldl fun u t _ _ => ?_, ?_⟩
  · exact (u.clearGroup_clearedIn trivial fun _ _ => trivial).trans (State.modTrain_clearedIn _ trivial)
  · have hfaulted : Aside unnamed faulted := by
      unfold faulted
      split
      · exact .foldl unnamed (fun u p => u.modPart_aside p) _
      · exact .refl unnamed
    exact hfaulted.trans (.foldl faulted (fun u x => u.finishWork_aside adminTrain x.1 0 _) left)

variable {s}

/-- The clock of `s`, no unread packet, and the card of `s` gone for a missing verdict (cause 2), or a member no more. -/
structure Departed (s u : State) : Prop where
  clock : u.clock = s.clock
  rings : u.ringsEmpty = true
  gone : (s.consort.card, 2) ∈ u.consort.gone ∨ u.consort.member = false

theorem Departed.after {u v : State} (h : Departed s u) (k : Aside u v) : Departed s v :=
  ⟨(congrArg (·.card.clock) k.ground).trans h.clock, (State.ringsEmpty_of_ground k.ground).trans h.rings, k.consort ▸ h.gone⟩

theorem Departed.tryLeave {u : State} (h : Departed s u) : Departed s u.tryLeave := by
  unfold State.tryLeave
  split
  · obtain ⟨v, hcleared, hleft⟩ := u.leaveConsort_clears
    have hv : Departed s u.leaveConsort :=
      .after (u := v.unnamed) ⟨hcleared.clock.trans h.clock, hcleared.rings h.rings, .inr rfl⟩ hleft
    rwa [State.checkRings_empty _ hv.rings]
  · exact h

/-- A member that has not gone yet and is ejected for a missing verdict has departed. -/
theorem State.memberGone_departed (hmember : s.consort.member = true) (hcard : s.consort.card < s.consort.members)
    (hgone : ∀ x ∈ s.consort.gone, x.1 ≠ s.consort.card) (hrings : s.ringsEmpty = true) :
    Departed s (s.memberGone s.consort.card 2 3) := by
  have hstays : s.consort.gone.any (·.1 == s.consort.card) = false := by
    rw [List.any_eq_false]
    exact fun x hx => by simpa using hgone x hx
  unfold State.memberGone
  rw [if_neg (by simp [hmember, hstays, hcard])]
  extract_lets left noted
  have hleft : Departed s left := ⟨rfl, hrings, .inl (List.mem_append_right _ List.mem_cons_self)⟩
  have hnoted : Aside left noted := by
    unfold noted
    split
    · exact .refl left
    · exact left.noteGone_aside _ _ _
  exact ((hleft.after hnoted).after (noted.closeGroups_aside _)).tryLeave

/-- No seal brings a departed card back. -/
theorem Departed.actSeal {u : State} (h : Departed s u) (t causes : Nat) : Departed s (u.actSeal t false causes) := by
  unfold State.actSeal
  extract_lets latched cleared decided
  have hcleared : Departed s cleared := ⟨h.clock, h.rings, h.gone⟩
  have hdecided : Aside cleared decided := by
    unfold decided
    split
    · exact cleared.closeSeal_aside t
    · exact cleared.failSeal_aside t
  have hall := ((hcleared.after hdecided).after ((decided.settle_aside t).trans (State.enterHalted_aside _))).tryLeave
  rwa [State.checkRings_empty _ hall.rings]

/-- A follower whose verdict is missing ejects itself (R577). -/
theorem State.verdictMissing_departed (hmember : s.consort.member = true) (hfollower : s.consort.card ≠ 0)
    (hcard : s.consort.card < s.consort.members) (hgone : ∀ x ∈ s.consort.gone, x.1 ≠ s.consort.card) (hrings : s.ringsEmpty = true)
    (k : Nat) : Departed s (s.verdictMissing k) := by
  unfold State.verdictMissing
  extract_lets x act
  rw [if_neg hfollower]
  have hsent := s.sendAll_sent 6 [1, s.consort.card, 2, 0] []
  set u := s.sendAll 6 [1, s.consort.card, 2, 0] []
  have hconsort : u.consort = s.consort := hsent.consort
  have hu : Departed u (u.memberGone u.consort.card 2 3) := by
    refine State.memberGone_departed ?_ ?_ ?_ ((State.ringsEmpty_of_ground hsent.ground).trans hrings)
    all_goals rw [hconsort]; assumption
  have hs : Departed s (u.memberGone s.consort.card 2 3) := by
    rw [← hconsort]
    exact ⟨hu.clock.trans (congrArg (·.card.clock) hsent.ground), hu.rings, hconsort ▸ hu.gone⟩
  exact (hs.actSeal k _).after (State.modTrain_aside _ k _)

theorem exec_verdictDeadline {k : Nat} (hk : k < 16) (hmember : s.consort.member = true) (hfollower : s.consort.card ≠ 0)
    (hphase : (s.train k).phase = .sealing) (hdue : (s.train k).start + periodUnits (s.train k).n5 + 50 ≤ s.clock.timebase) :
    exec (.verdictDeadline k) s = .next (s.verdictMissing k) := by
  have hpast : s.verdictDue k ≤ s.clock.timebase := by simpa [State.verdictDue, hfollower] using hdue
  simp only [exec, execVerdictDeadline]
  rw [if_neg (by simp [hmember, hphase, hk, hpast])]

end Sys2Proof.Machine
end

section
/-! PROOFS. The frames of a formed consort (R571, R575 to R577, R582): each taken frame by its equation. -/

namespace Sys2Proof.Machine

variable {s : State} {l : FrameLink}

/-- The set that an ADMIT frame gives a train for Breath `b`. -/
def Train.admits (x : Train) (b : Nat) (steps : List AdmitStep) : Train :=
  { x with
    forming := steps.map (fun a => {
      work := a.work, step := a.step, cycles := a.cycles, breath := b
      energy := ((x.work? a.work).map (fun w => (w.stepCost a.step).energy)).getD 0 }) }

/-- A follower issues at its next Breath start what the leader has admitted (R571). -/
theorem exec_admitFrame {k : Nat} (steps : List AdmitStep) (h : Received s l) (hfollows : s.follows = true) (hk : k ∈ s.leaders) :
    exec (.admitFrame l k (s.train k).next steps) s = .next ((s.afterFrame l).modTrain k (·.admits (s.train k).next steps)) := by
  have htaken : ¬(!s.follows || !s.leaders.contains k || decide ((s.train k).next ≠ (s.train k).next)) = true := by simp [hfollows, hk]
  simp only [exec, execAdmitFrame, h.takeFrame, State.afterFrame_follows, State.afterFrame_leaders, State.afterFrame_train, if_neg htaken]
  rfl

theorem exec_admitFrame_fails {k b : Nat} (steps : List AdmitStep)
    (hfails : (s.link l.port).state ≠ 2 ∨ l.crcGood = false ∨ l.linkSeq ≠ (s.link l.port).expect) :
    ∃ t, exec (.admitFrame l k b steps) s = .next t ∧ SameGroups s t := by
  obtain ⟨u, heq, hu⟩ := State.takeFrame_fails hfails
  refine ⟨u, ?_, hu⟩
  simp only [exec, execAdmitFrame, heq]
  rfl

/-- A train that has received provisional bytes at its group-local address `g`. -/
def Train.provisional (x : Train) (g n : Nat) : Train :=
  { x with
    journal := x.journal ++ [⟨g, n⟩], marks := if x.marks.contains (g / pageBytes) then x.marks else g / pageBytes :: x.marks }

/-- A partition with provisional bytes at its address `addr`. -/
def Part.provisional (x : Part) (addr : Nat) (bytes : List Byte) : Part := { x with hbm := x.hbm.write addr bytes }

theorem exec_data {p addr : Nat} {bytes : List Byte} (h : Received s l) (hmember : s.consort.member = true)
    (hfits : addr + bytes.length ≤ partBytes)
    (hphase : (s.train (s.leaderOf p)).phase = .working ∨ (s.train (s.leaderOf p)).phase = .sealing) :
    exec (.data l (s.train (s.leaderOf p)).breath p addr bytes) s = .next (((s.afterFrame l).modTrain (s.leaderOf p)
      (·.provisional (unmapHbm (s.leaderOf p) (s.groupSize (s.leaderOf p)) p addr) bytes.length)).modPart p
        (·.provisional addr bytes)) := by
  have hopen : [Phase.working, .sealing].contains (s.train (s.leaderOf p)).phase = true := by
    rcases hphase with h | h <;> rw [h] <;> rfl
  simp only [exec, execData, h.takeFrame, State.afterFrame_consort, State.afterFrame_leaderOf, State.afterFrame_train, hmember, hopen,
    ne_eq, not_true_eq_false, false_or, Nat.not_lt.2 hfits, decide_false, Bool.not_true, Bool.or_self, Bool.false_eq_true, if_false]
  rfl

/-- The leader's consort with a verdict more. -/
def Consort.verdict (c : Consort) (v : Verdict) : Consort := { c with verdicts := v :: c.verdicts }

/-- The leader does not decide while a member's verdict is missing (R575). -/
theorem State.decideConsort_waits {k other : Nat} (hother : other ∈ s.others) (hnone : ∀ v ∈ s.verdictsOf k, v.card ≠ other) :
    s.decideConsort k = s := by
  unfold State.decideConsort
  extract_lets vs need
  have hmissing : need.all (fun c => vs.any (·.card == c)) = false := by
    rw [List.all_eq_false]
    refine ⟨other, List.mem_cons_of_mem _ hother, ?_⟩
    simpa [vs] using hnone
  rw [if_neg (by simp [hmissing])]

/-- A member's verdict is kept until the last one is there (R575, R576). -/
theorem exec_sealFrame_waits {card other k causes : Nat} {pass : Bool} {digest : List Byte} (h : Received s l)
    (hmember : s.consort.member = true) (hleader : s.consort.card = 0) (hk : k ∈ s.leaders) (hcard : card ∈ s.others)
    (hother : other ∈ s.others) (hne : other ≠ card) (hnone : ∀ v ∈ s.verdictsOf k, v.card ≠ card ∧ v.card ≠ other)
    (hdue : (s.train k).phase ≠ .sealing ∨ s.clock.timebase ≤ s.verdictDue k) :
    exec (.sealFrame l card k (s.train k).breath pass causes digest) s = .next ((s.afterFrame l).modConsort (·.verdict
      { card := card, group := k, breath := (s.train k).breath, pass := pass, causes := causes, digest := digest })) := by
  set v : Verdict := { card := card, group := k, breath := (s.train k).breath, pass := pass, causes := causes, digest := digest }
  have hserved : ¬(!s.consort.member || decide (16 ≤ k) || !s.leaders.contains k
      || decide ((s.train k).breath ≠ (s.train k).breath)) = true := by simp [hmember, hk, State.lt_of_mem_leaders hk]
  have hintime : ¬((s.train k).phase = .sealing ∧ s.verdictDue k < s.clock.timebase) := fun ⟨hseal, hlate⟩ =>
    hdue.elim (fun hn => hn hseal) (Nat.not_le.2 hlate)
  have hnew : ¬(!s.others.contains card || (s.verdictsOf k).any (·.card == card)) = true := by
    simpa [hcard] using fun v hv => (hnone v hv).1
  have hwaits : ((s.afterFrame l).modConsort (·.verdict v)).decideConsort k = (s.afterFrame l).modConsort (·.verdict v) := by
    refine State.decideConsort_waits (other := other) hother fun u hu => ?_
    obtain ⟨hmem, hof⟩ := List.mem_filter.1 hu
    rcases List.mem_cons.1 hmem with rfl | hmem
    · exact hne.symm
    · exact (hnone u (List.mem_filter.2 ⟨hmem, hof⟩)).2
  simp only [exec, execSealFrame, h.takeFrame, State.afterFrame_clock, State.afterFrame_consort, State.afterFrame_leaders,
    State.afterFrame_train, State.afterFrame_verdictDue, State.afterFrame_others, State.afterFrame_verdictsOf, if_neg hserved,
    if_neg hintime, if_pos hleader, if_neg hnew]
  exact congrArg Host.Outcome.next hwaits

/-- The codes of CONTROL frames are the model's (DESIGN CHOICE, assumption 36). -/
theorem exec_control_retrain {card cause value : Nat} (h : Received s l) :
    exec (.control l 4 card cause value) s = .next ((s.afterFrame l).retrain l.port) := by
  simp only [exec, execControl, h.takeFrame]
  rfl

/-- A leave announced by another member. -/
def Consort.announce (c : Consort) (card value : Nat) : Consort :=
  { c with leaves := (card, value) :: c.leaves.filter (· != (card, value)) }

theorem exec_control_leave {card cause value : Nat} (h : Received s l) (hmember : s.consort.member = true) (hcard : card < s.consort.members) :
    exec (.control l 0 card cause value) s = .next ((s.afterFrame l).modConsort (·.announce card value)) := by
  simp only [exec, execControl, h.takeFrame, State.afterFrame_consort, hmember, Nat.not_le.2 hcard, Bool.not_true, Bool.false_eq_true,
    if_false, false_and, OfNat.zero_ne_ofNat, zero_ne_one]
  rfl

theorem State.wf_hbm (hwf : s.wf = true) {p : Nat} (hp : p < 16) : (s.part p).hbm.wf = true := by
  have hheld : p < s.parts.length := (s.wf_parts hwf).symm ▸ hp
  rw [State.wf, Bool.and_eq_true] at hwf
  have hpart := List.all_eq_true.1 hwf.2 _ (List.getElem_mem hheld)
  simp only [Part.wf, Bool.and_eq_true, decide_eq_true_eq] at hpart
  obtain ⟨⟨_, hhbm⟩, _⟩ := hpart
  rw [State.part, getD_of_lt hheld, hhbm]

/-- Settles O56: each taken frame by its equation, a missing verdict by `verdictMissing_departed`. -/
theorem consortFrames : Obligations.ConsortFrames := by
  unfold Obligations.ConsortFrames
  intro taken
  have received {s : State} {l : FrameLink} (h : taken s l) : Received s l := by
    obtain ⟨hwf, hpower, hport, htrained, hcrc, hseq⟩ := h
    exact ⟨hwf, hpower, hport, htrained, hcrc, hseq⟩
  refine ⟨fun s l k steps htaken hfollows hk => ?_,
    fun s l p addr bytes htaken hmember hp hlead hfits hphase => ?_,
    fun s l card other k causes pass digest htaken hmember hleader hk hcard hother hne hnone hdue =>
      ⟨_, exec_sealFrame_waits (received htaken) hmember hleader hk hcard hother hne hnone hdue, rfl⟩,
    fun s k hwf hk hmember hfollower hcard hgone hphase hdue hrings => ?_,
    fun s l card cause value htaken => ?_,
    fun s l card cause value htaken hmember hcard =>
      ⟨_, exec_control_leave (received htaken) hmember hcard, rfl, List.mem_cons_self⟩,
    fun s l k b steps _ _ hfails => ?_⟩
  · have hheld : k < (s.afterFrame l).trains.length := by
      rw [State.afterFrame_trains, s.wf_trains (received htaken).wf]
      exact Nat.lt_succ_of_lt (State.lt_of_mem_leaders hk)
    exact ⟨_, exec_admitFrame steps (received htaken) hfollows hk, rfl, State.train_modTrain _ k _ hheld,
      fun j hj => State.train_modTrain_other _ k j _ hj⟩
  · have hwf := (received htaken).wf
    refine ⟨_, exec_data (received htaken) hmember hfits hphase, fun a => ?_, ?_, fun q hq => State.part_modPart_other _ p q _ hq, rfl⟩
    · have hheld : p < s.parts.length := by rw [s.wf_parts hwf]; exact hp
      rw [State.part_modPart ((s.afterFrame l).modTrain _ _) p _ hheld]
      exact Memory.get_write (State.wf_hbm hwf hp) addr a bytes
    · have hheld : s.leaderOf p < s.trains.length := by rw [s.wf_trains hwf]; exact Nat.lt_succ_of_lt hlead
      rw [State.modPart_train_at, State.train_modTrain (s.afterFrame l) _ _ hheld]
      rfl
  · have hdeparted := State.verdictMissing_departed hmember hfollower hcard hgone hrings k
    exact ⟨_, exec_verdictDeadline (State.lt_of_mem_leaders hk) hmember hfollower hphase hdue, hdeparted.gone, hdeparted.clock⟩
  · have h := received htaken
    refine ⟨_, exec_control_retrain h, rfl, ?_⟩
    rw [State.retrain, State.link_modLink _ _ _ (by simpa using h.held)]
  · obtain ⟨t, hexec, hsame⟩ := exec_admitFrame_fails (k := k) (b := b) steps hfails
    exact ⟨t, hexec, hsame.trains, hsame.parts, hsame.consort⟩

end Sys2Proof.Machine
end

section
/-! PROOFS. The end of a RESTORE (R600): it loads pages and clears or pins cores of its group, and of the trains it changes its own
alone; clock and grouping stand. -/

namespace Sys2Proof.Machine

/-- The grouping: leader and size of every partition. -/
def State.grouping (s : State) : List (Nat × Nat) := s.parts.map (fun p => (p.leader, p.size))

/-- `u` is `s` with no other train than `k` changed; clock and grouping stand. -/
structure OnlyTrain (k : Nat) (s u : State) : Prop where
  clock : u.clock = s.clock
  length : u.trains.length = s.trains.length
  others : ∀ j, j ≠ k → u.train j = s.train j
  grouping : u.grouping = s.grouping

/-- Likewise, and the works of train `k` stand too. -/
structure SameWorks (k : Nat) (s u : State) : Prop extends OnlyTrain k s u where
  works : (u.train k).works = (s.train k).works

variable {k : Nat} {s u v : State}

theorem OnlyTrain.trans (h : OnlyTrain k s u) (l : OnlyTrain k u v) : OnlyTrain k s v :=
  ⟨l.clock.trans h.clock, l.length.trans h.length, fun j hj => (l.others j hj).trans (h.others j hj), l.grouping.trans h.grouping⟩

theorem SameWorks.of_eq (clock : u.clock = s.clock) (trains : u.trains = s.trains) (grouping : u.grouping = s.grouping) :
    SameWorks k s u := by
  have htrain (j : Nat) : u.train j = s.train j := by rw [State.train, trains]; rfl
  exact ⟨⟨clock, by rw [trains], fun j _ => htrain j, grouping⟩, by rw [htrain]⟩

theorem SameWorks.refl (k : Nat) (s : State) : SameWorks k s s := .of_eq rfl rfl rfl

theorem SameWorks.trans (h : SameWorks k s u) (l : SameWorks k u v) : SameWorks k s v :=
  ⟨h.toOnlyTrain.trans l.toOnlyTrain, l.works.trans h.works⟩

theorem SameWorks.foldl {α : Type} {f : State → α → State} (hf : ∀ u a, SameWorks k u (f u a)) (xs : List α) (s : State) :
    SameWorks k s (xs.foldl f s) :=
  List.foldlRecOn (motive := SameWorks k s) xs f (.refl k s) fun u hu a _ => hu.trans (hf u a)

variable (s)

/-! Single changes. -/

theorem State.modTrain_onlyTrain (g : Train → Train) : OnlyTrain k s (s.modTrain k g) :=
  ⟨rfl, s.length_modTrain k g, fun j hj => s.train_modTrain_other k j g hj, rfl⟩

theorem State.modTrain_sameWorks (g : Train → Train) (hg : ∀ x, (g x).works = x.works := by exact fun _ => rfl) :
    SameWorks k s (s.modTrain k g) := by
  refine ⟨s.modTrain_onlyTrain g, ?_⟩
  rcases s.train_modTrain_any k g k with h | ⟨_, h⟩
  · rw [h]
  · rw [h, hg]

theorem State.modPart_sameWorks (i : Nat) (g : Part → Part)
    (hg : ∀ p, ((g p).leader, (g p).size) = (p.leader, p.size) := by exact fun _ => rfl) : SameWorks k s (s.modPart i g) :=
  .of_eq rfl rfl (map_set_getD s.parts i _ hg)

/-! Pages and cores (R600, Table 3.5). -/

theorem State.clearCores_sameWorks (t : Nat) : SameWorks k s (s.clearCores t) :=
  .foldl (fun u p => u.modPart_sameWorks p _) _ s

theorem State.loadPages_sameWorks (t : Nat) (pages : List (Nat × Nat × List Byte)) : SameWorks k s (s.loadPages t pages) :=
  .foldl (fun u p => u.modPart_sameWorks p _) _ s

theorem State.writeSlab_sameWorks (t : Nat) (m : Model) (c i : Nat) : SameWorks k s (s.writeSlab t m c i) := by
  unfold State.writeSlab
  split
  next core _ => exact s.modPart_sameWorks (core / 16) _
  · exact .refl k s

theorem State.repin_sameWorks (t : Nat) (o : Objects) (r : Residency) : SameWorks k s (s.repin t o r) := by
  unfold State.repin
  split
  · exact .refl k s
  · exact .foldl (fun u _ => u.writeSlab_sameWorks ..) _ s

/-! A RESTORE that fails. -/

theorem State.violate_parts (f : Nat) (x : Violation) : (s.violate f x).1.parts = s.parts := by
  unfold State.violate
  extract_lets _ _ _ _ _ counted raised
  split
  · rfl
  · have hraised : raised.parts = s.parts := ((State.saturated_onlyEvents ..).trans (State.raiseF_onlyEvents ..)).parts
    dsimp only
    split
    · exact (State.raiseF_onlyEvents ..).parts.trans hraised
    · exact hraised

theorem State.violation_parts (f : Nat) (b : Bool) (x : Violation) : (s.violation f b x).parts = s.parts := by
  unfold State.violation
  dsimp only
  split
  · exact (State.stageEvent_onlyRecords ..).parts.trans (s.violate_parts f x)
  · exact s.violate_parts f x

theorem State.violation_sameWorks (f : Nat) (b : Bool) (x : Violation) : SameWorks k s (s.violation f b x) :=
  have h := s.violation_posted (t := k) f b x
  .of_eq h.clock h.trains (congrArg (List.map _) (s.violation_parts f b x))

theorem State.endWork_onlyTrain (id : Nat) (r : Refuse) : OnlyTrain k s (s.endWork k id r) :=
  have hdropped : OnlyTrain k s (s.dropPieces k id) := s.modTrain_onlyTrain _
  hdropped.trans (State.modTrain_onlyTrain _ (·.modWork id (·.fail r)))

/-- A command ended by its own execution is ended after the violation it may count. -/
theorem State.failIssue_eq (w : Work) (r : Refuse) :
    ∃ u, SameWorks k s u ∧ s.failIssue w r = u.endWork w.train w.id r := by
  unfold State.failIssue
  split
  · exact ⟨_, s.violation_sameWorks .., rfl⟩
  · exact ⟨s, .refl k s, rfl⟩

theorem State.failIssue_onlyTrain (w : Work) (r : Refuse) : OnlyTrain w.train s (s.failIssue w r) := by
  obtain ⟨u, hsame, heq⟩ := s.failIssue_eq (k := w.train) w r
  rw [heq]
  exact hsame.toOnlyTrain.trans (u.endWork_onlyTrain w.id r)

theorem State.works_failIssue {w : Work} (r : Refuse) (h : w.train < s.trains.length) :
    ∀ v ∈ ((s.failIssue w r).train w.train).works, v.id = w.id → v.stage = .finished ∧ v.status = r.status := by
  obtain ⟨u, hsame, heq⟩ := s.failIssue_eq (k := w.train) w r
  rw [heq]
  exact u.works_endWork (by rwa [hsame.length])

/-- After its end with its error, a failed RESTORE clears its group but for its works. -/
theorem State.failRestore_sameWorks (w : Work) (im : List Byte) (r : Refuse) :
    SameWorks w.train (s.failIssue w r) (s.failRestore w im r) := by
  unfold State.failRestore
  extract_lets t cleared
  have hcleared : SameWorks w.train (s.failIssue w r) cleared :=
    (State.clearCores_sameWorks _ t).trans (State.modTrain_sameWorks _ _)
  split
  next written early _ =>
    extract_lets loaded
    have hloaded : SameWorks w.train cleared loaded := by
      unfold loaded
      split
      · exact .refl _ cleared
      · exact cleared.loadPages_sameWorks t written
    refine (hcleared.trans hloaded).trans (.foldl (fun u a => ?_) written loaded)
    dsimp only
    split
    · exact u.modPart_sameWorks _ _
    · exact .refl _ u

/-! A RESTORE that succeeds. -/

/-- The group with the pages of an image, its residencies pinned again. -/
def State.loadImage (k fn : Nat) (im : List Byte) : State :=
  let u := s.loadPages k (imagePages im)
  let o := u.restoredObjects k fn im
  o.residencies.foldl (fun u r => u.repin k o r) u

theorem State.loadImage_sameWorks (t fn : Nat) (im : List Byte) : SameWorks k s (s.loadImage t fn im) :=
  (s.loadPages_sameWorks t _).trans (.foldl (fun u _ => u.repin_sameWorks ..) _ _)

/-- A RESTORE that has loaded its image; the image stays with it until its seal passes. -/
def Work.restored (w : Work) (im : List Byte) : Work :=
  { w.finish 0 (leBytes 6 (field im 16 6)) with
    auxBytes := im, extra := leBytes 6 (field im 16 6) ++ zeros 2 ++ leBytes 8 (field im 8 8), digests := [(3, 0, slice im 128 32)] }

theorem Work.restored_stage (w : Work) (im : List Byte) : (w.restored im).stage = .finished := rfl

/-! The three ends. -/

section
variable {s} {w : Work} (hw : s.restoring k = some w)
include hw

theorem exec_restoreComplete_headerProblem {r : Refuse} (hr : s.headerProblem k w.stream = some r) :
    exec (.restoreComplete k) s = .next (s.failIssue w r) := by
  simp only [exec, execRestoreComplete, hw, hr]

theorem exec_restoreComplete_imageFault {r : Refuse} (hheader : s.headerProblem k w.stream = none)
    (hr : s.imageFault k w.stream = some r) : exec (.restoreComplete k) s = .next (s.failRestore w w.stream r) := by
  simp only [exec, execRestoreComplete, hw, hheader, hr]

theorem exec_restoreComplete_passes (hheader : s.headerProblem k w.stream = none) (himage : s.imageFault k w.stream = none) :
    exec (.restoreComplete k) s = .next ((s.loadImage k w.fn w.stream).modWork k w.id (·.restored w.stream)) := by
  simp only [exec, execRestoreComplete, hw, hheader, himage, State.loadImage, Work.restored]

end

/-- Settles O46: the error of a failed check ends the command and changes no other train; an image that passes ends it finished. -/
theorem restoreCompletes : Obligations.RestoreCompletes := by
  intro s k w hwf hk hw htrain
  subst htrain
  have hheld : w.train < s.trains.length := by rw [s.wf_trains hwf]; omega
  refine ⟨fun r hr => ?_, fun r hheader hr => ?_, fun hheader himage => ?_⟩
  · exact ⟨_, exec_restoreComplete_headerProblem hw hr, s.works_failIssue r hheld⟩
  · have hafter := s.failRestore_sameWorks w w.stream r
    obtain ⟨hclock, _, hothers, hgrouping⟩ := (s.failIssue_onlyTrain w r).trans hafter.toOnlyTrain
    refine ⟨_, exec_restoreComplete_imageFault hw hheader hr, ?_, hclock, hothers, hgrouping⟩
    rw [hafter.works]
    exact s.works_failIssue r hheld
  · have hloaded := s.loadImage_sameWorks (k := w.train) w.train w.fn w.stream
    obtain ⟨hclock, _, hothers, hgrouping⟩ := hloaded.toOnlyTrain.trans
      (State.modTrain_onlyTrain _ (·.modWork w.id (·.restored w.stream)))
    refine ⟨_, exec_restoreComplete_passes hw hheader himage, fun v hv hid => ?_, hclock, hothers, hgrouping⟩
    obtain ⟨x, rfl⟩ := State.works_modWork _ (hloaded.length ▸ hheld) hv hid
    exact x.restored_stage _

end Sys2Proof.Machine
end

section
/-! PROOFS. What every command keeps, those that may reset the device among them: soundness and the queue behind the command. Every
command answers. -/

namespace Sys2Proof.Machine

variable {K : Kept} {s : State}

/-! Resets of the device (R706). -/

/-- A property of states that a reset of the device does not break. -/
def Kept.OutlivesReset (K : Kept) : Prop := ∀ (s : State) (cold linkDown : Bool), K.holds s → K.holds (s.bootReset cold linkDown)

/-- The partitions that a reset leaves are sound, for the HBM contents that they may keep were. -/
theorem State.bootReset_parts_wf (cold linkDown : Bool) (h : s.wf = true) : (s.bootReset cold linkDown).parts.all Part.wf = true := by
  refine List.all_eq_true.2 fun x hx => ?_
  obtain ⟨p, hp, rfl⟩ := List.mem_map.1 hx
  have hhbm := s.wf_hbm h (List.mem_range.1 hp)
  simp only [Part.wf, Bool.and_eq_true]
  refine ⟨⟨⟨rfl, rfl⟩, ?_⟩, by decide⟩
  split
  · exact hhbm
  · rfl

theorem Kept.sound_outlivesReset : Kept.sound.OutlivesReset := by
  intro s cold linkDown h
  change s.wf = true at h
  change (s.bootReset cold linkDown).wf = true
  have hparts := s.bootReset_parts_wf cold linkDown h
  have hfns : State.reset.fns.all Function.wf = true := by decide
  simp only [State.wf, Bool.and_eq_true, decide_eq_true_eq] at h ⊢
  obtain ⟨⟨⟨⟨⟨-, hbays⟩, hlinks⟩, hhost⟩, -⟩, -⟩ := h
  exact ⟨⟨⟨⟨⟨⟨⟨rfl, rfl⟩, rfl⟩, (List.length_map ..).trans hbays⟩, (List.length_map ..).trans hlinks⟩, hhost⟩, hfns⟩, hparts⟩

theorem Kept.queue_outlivesReset (q : List Instr) : (Kept.queue q).OutlivesReset := fun _ _ _ h => h

/-! Boot attempts (R699). -/

/-- A boot attempt counted on the selected bank. -/
def State.countAttempt (s : State) (skipped : Bool) : State :=
  s.modBank s.dev.selector (fun k => { k with attempts := k.attempts + 1, skipped := skipped })

/-- Both banks have failed: the device is FAILED. -/
def State.bootFails (s : State) : State := s.modDev (fun d => { d with state := .failed, phase1 := false })

/-- The other bank is selected, its attempts beginning anew. -/
def State.fallBack (s : State) : State :=
  (s.modBank (1 - s.dev.selector) (fun k => { k with attempts := 0 })).modDev (fun d => { d with
    selector := 1 - s.dev.selector, fallback := true })

/-- The device resets for another attempt. -/
def State.bootAgain (s : State) : State := ({ s with dev := { s.dev with trained := false } } : State).bootReset false false

/-- What a failed attempt can do, once it is counted. -/
theorem State.attemptFailed_cases (s : State) (skipped : Bool) :
    s.attemptFailed skipped = (s.countAttempt skipped).bootFails ∨ s.attemptFailed skipped = (s.countAttempt skipped).bootAgain
      ∨ s.attemptFailed skipped = (s.countAttempt skipped).fallBack.bootAgain := by
  unfold State.attemptFailed
  dsimp only
  (repeat' split)
  · exact .inl rfl
  · exact .inr (.inl rfl)
  · exact .inl rfl
  · exact .inr (.inr rfl)

section
variable (hK : K.OutlivesReset)
include hK

theorem State.bootAgain_kept (h : K.holds s) : K.holds s.bootAgain := hK _ _ _ (K.dev _ _ h)

theorem State.attemptFailed_kept (skipped : Bool) (h : K.holds s) : K.holds (s.attemptFailed skipped) := by
  have hcount : K.holds (s.countAttempt skipped) := s.modBank_kept _ _ h
  obtain he | he | he := s.attemptFailed_cases skipped <;> rw [he]
  · exact State.modDev_kept _ hcount
  · exact State.bootAgain_kept hK hcount
  · exact State.bootAgain_kept hK (State.modDev_kept _ (State.modBank_kept _ _ hcount))

/-- Every command keeps what single writes keep and resets outlive. -/
theorem exec_kept_of_outlivesReset (i : Instr) (h : K.holds s) : K.after (exec i s) := by
  by_cases hi : mayReset i = false
  · exact exec_kept i hi h
  cases i
  case deviceReset linkDown =>
    have hreset := hK s false linkDown h
    dsimp only [exec, execDeviceReset]
    split <;> simp [h, hreset]
  case powerGood =>
    have hreset := hK s true true h
    dsimp only [exec, execPowerGood]
    split <;> simp [h, hreset]
  case powerAndRomComplete =>
    have hphase := s.modDev_kept (fun d => { d with phase1 := false, attemptStart := s.clock.timebase }) h
    have hfailed := State.attemptFailed_kept hK true hphase
    dsimp only [exec, execPowerAndRomComplete]
    (repeat' split) <;> simp [h, hphase, hfailed]
  case imageCheckComplete | bootAttemptTimeout =>
    have hfailed (skipped : Bool) := s.attemptFailed_kept hK skipped h
    dsimp only [exec, execImageCheckComplete, execBootAttemptTimeout]
    (repeat' split) <;> simp [h, hfailed]
  case recoveryComplete bank0Good bank1Good =>
    have hput := State.modBank_kept 1 (fun _ => if bank1Good then { image := s.dev.recoveryImage } else {})
      (s.modBank_kept 0 (fun _ => if bank0Good then { image := s.dev.recoveryImage } else {}) h)
    change K.after (execRecoveryComplete bank0Good bank1Good s)
    unfold execRecoveryComplete
    extract_lets
    split
    · simp [h]
    · split
      · exact (Kept.after_next _).2 (hK _ _ _ (K.dev _ _ hput))
      · exact (Kept.after_next _).2 (State.modDev_kept _ hput)
  all_goals exact absurd rfl hi

end

/-- Settles O5: soundness outlives a reset, so every command and a tick keep it. -/
theorem stepKeepsSoundness : Obligations.StepKeepsSoundness := by
  intro s t hwf hstep
  cases hq : s.pending with
  | nil =>
    rw [step, hq] at hstep
    cases hstep
    exact tick_kept (K := Kept.sound) hwf
  | cons i rest =>
    rw [step, hq] at hstep
    exact exec_kept_of_outlivesReset (s := { s with pending := rest }) Kept.sound_outlivesReset i hwf t hstep

/-- Settles O8: that the queue is what it was is a property that every command keeps. -/
theorem commandsLeaveTheQueue : Obligations.CommandsLeaveTheQueue :=
  fun i s t h => exec_kept_of_outlivesReset (Kept.queue_outlivesReset s.pending) i rfl t h

/-! Every command answers. -/

/-- An outcome that is neither a fault nor a refusal. -/
def Answers (o : Host.Outcome State Fault Refusal) : Prop := ∃ t, o = .next t

@[simp] theorem answers_next (t : State) : Answers (.next t) := ⟨t, rfl⟩

@[simp] theorem submitPacket_answers (h : PacketHeader) (c : Command) (s : State) : Answers (submitPacket h c s) := by
  unfold submitPacket
  dsimp only
  split <;> simp

/-! Registers that a plain register write also reaches. -/

section
variable (s : State) (fn blk o size value : Nat)

@[simp] theorem execRingCfgWrite_answers (bulk : Bool) : Answers (execRingCfgWrite fn blk bulk value s) := by
  dsimp only [execRingCfgWrite]
  (repeat' split) <;> simp

@[simp] theorem execDoorbell_answers (bulk : Bool) (stores : List Host.Cell) :
    Answers (execDoorbell fn blk bulk value size stores s) := by
  dsimp only [execDoorbell]
  (repeat' split) <;> simp

@[simp] theorem execReplyCfgWrite_answers : Answers (execReplyCfgWrite fn blk value s) := by
  dsimp only [execReplyCfgWrite]
  (repeat' split) <;> simp

@[simp] theorem execReplyHeadWrite_answers : Answers (execReplyHeadWrite fn blk value s) := by
  dsimp only [execReplyHeadWrite]
  (repeat' split) <;> simp

@[simp] theorem execEvqCfgWrite_answers : Answers (execEvqCfgWrite fn blk value s) := by
  dsimp only [execEvqCfgWrite]
  (repeat' split) <;> simp

@[simp] theorem execEvqHeadWrite_answers : Answers (execEvqHeadWrite fn blk value s) := by
  dsimp only [execEvqHeadWrite]
  (repeat' split) <;> simp

@[simp] theorem execEventStatusWrite_answers : Answers (execEventStatusWrite fn blk value s) := by
  unfold execEventStatusWrite
  (repeat' split) <;> simp

@[simp] theorem execUnfreeze_answers : Answers (execUnfreeze fn value s) := by
  dsimp only [execUnfreeze]
  (repeat' split) <;> simp

@[simp] theorem execGo_answers (image : List Byte) : Answers (execGo fn value image s) := by
  dsimp only [execGo]
  (repeat' split) <;> simp

@[simp] theorem execChanterRestart_answers : Answers (execChanterRestart fn value s) := by
  dsimp only [execChanterRestart]
  (repeat' split) <;> simp

@[simp] theorem State.writeRings_answers : Answers (s.writeRings fn blk o size value) := by
  dsimp only [State.writeRings]
  (repeat' split) <;> simp

@[simp] theorem State.writeEvq_answers : Answers (s.writeEvq fn blk o size value) := by
  dsimp only [State.writeEvq]
  (repeat' split) <;> simp

@[simp] theorem State.writeDevice_answers (a : Nat) : Answers (s.writeDevice fn a size value) := by
  unfold State.writeDevice
  (repeat' split) <;> simp

@[simp] theorem State.writeBlock_answers (p : Nat) : Answers (s.writeBlock fn p o size value) := by
  unfold State.writeBlock
  (repeat' split) <;> simp

theorem execRegisterWrite_answers (bar off : Nat) : Answers (execRegisterWrite fn bar off size value s) := by
  dsimp only [execRegisterWrite]
  (repeat' split) <;> simp

end

/-! Every command. -/

theorem exec_answers (i : Instr) (s : State) : Answers (exec i s) := by
  cases i
  case nop | devQuery | timeSet | shutdown | breathSet | partGroup | partQos | partPower | bellowsRegister | bellowsDeregister
      | bellowsRead | bellowsWrite | memFill | retirePage | modelLoad | stopPin | stopRelease | modelRelease | progRegister
      | progRelease | shapeSet | progRun | histPool | histOpen | histPrefill | histClose | score | jobSubmit | jobCancel | vidOpen
      | vidDecode | setConditioning | vidClose | snapshotShadow | snapshotStop | restore | consortForm | consortLeave | auditPolicy
      | cartRetire | ledgerFlush | ledgerNote | bayEject | fwUpdate | ownerKeyInstall | sealClear | presenceSet | attest | diagRun
      | droneCfg =>
    exact submitPacket_answers _ _ s
  case sealLoopRestored | backupCellLow | bellowsPoisonedCompletion | bellowsCompletionTimeout | drainLimit | formationTimeout
      | deviceReset | powerGood | perstDeassert | hbmTrainingComplete | shutdownDrainLimit | snap | clear | msixVectorUnmask
      | timeSlewComplete | ledgerNextRead | wideRegisterRead | halfRegisterRead | lastViolationRead | bar2WinWrite | powerFailWarning
      | holdUpEnd | auxPowerLoss | auxPowerReturn | pcieLinkRetrain | moduleInserted | getEndpointId | getEndpointUuid
      | getMctpVersionSupport | getMessageTypeSupport | getTid | getPldmVersion | getPldmTypes | getPldmCommands | getPdrRepositoryInfo
      | getPdr | readLastGasp | unsupportedSidebandMessage =>
    exact ⟨_, rfl⟩
  case ringCfgWrite | doorbell | replyCfgWrite | replyHeadWrite | evqCfgWrite | evqHeadWrite | eventStatusWrite | unfreeze | go
      | chanterRestart =>
    simp [exec]
  case registerWrite => exact execRegisterWrite_answers ..
  case ringSlotWrite | bar2Read | bar2Write =>
    dsimp only [exec, execRingSlotWrite, execBar2Read, execBar2Write]
    (repeat' split) <;> simp
  case folioCloseTimeout | folioCommitComplete | holdingFlashCommit | cardDetect | mountComplete | cardRemoved | ejectButton | bayRelease
      | releaseTimeout =>
    dsimp only [exec, execFolioCloseTimeout, execFolioCommitComplete, execHoldingFlashCommit, execCardDetect, execMountComplete,
      execCardRemoved, execEjectButton, execBayRelease, execReleaseTimeout]
    (repeat' split) <;> simp
  case keySwitch | presentHold | presenceWindowEnd | sealLoopInterruption | fwImageWritten | ownerKeyStored | attestQuoteSigned =>
    dsimp only [exec, execKeySwitch, execPresentHold, execPresenceWindowEnd, execSealLoopInterruption, execFwImageWritten,
      execOwnerKeyStored, execAttestQuoteSigned]
    (repeat' split) <;> simp
  case stopDrainComplete | restoreComplete | deregisterAccessesDone | bellowsUnsupportedRequest | workComplete | admissionPoint
      | engineTimeout | checkFailure | regroupApply | breathStart | sealDecision =>
    dsimp only [exec, execStopDrainComplete, execRestoreComplete, execDeregisterAccessesDone, execBellowsUnsupportedRequest,
      execWorkComplete, execAdmissionPoint, execEngineTimeout, execCheckFailure, execRegroupApply, execBreathStart, execSealDecision]
    (repeat' split) <;> simp
  case hello | formationComplete | time | admitFrame | data | sealFrame | verdictDeadline | control | linkRetrain =>
    dsimp only [exec, execHello, execFormationComplete, execTime, execAdmitFrame, execData, execSealFrame, execVerdictDeadline,
      execControl, execLinkRetrain]
    (repeat' split) <;> simp
  case hbmReadOutcome | retireFlashWriteDone | clmScrub =>
    dsimp only [exec, execHbmReadOutcome, execRetireFlashWriteDone, execClmScrub]
    (repeat' split) <;> simp
  case powerAndRomComplete | imageCheckComplete | bootAttemptTimeout | stagingRecoveryComplete | selfTestComplete
      | coreInitialisationComplete | ledgerMountComplete | recoveryComplete | functionLevelReset | partitionSelfTestComplete
      | shutdownCommitDone | chanterWatchdog | chanterReloadComplete =>
    unfold exec
    dsimp only [execPowerAndRomComplete, execImageCheckComplete, execBootAttemptTimeout, execStagingRecoveryComplete,
      execSelfTestComplete, execCoreInitialisationComplete, execLedgerMountComplete, execRecoveryComplete, execFunctionLevelReset,
      execPartitionSelfTestComplete, execShutdownCommitDone, execChanterWatchdog, execChanterReloadComplete]
    (repeat' split) <;> simp
  case msixModerationExpiry | eventSecondEnd | sensorReading | thermalTrip | setEndpointId | getSensorReading =>
    dsimp only [exec, execMsixModerationExpiry, execEventSecondEnd, execSensorReading, execThermalTrip, execSetEndpointId,
      execGetSensorReading]
    (repeat' split) <;> simp

/-- Settles O6: a queue that is not empty runs a command, each of which answers; an empty one ticks. -/
theorem stepAlwaysAnswers : Obligations.StepAlwaysAnswers := by
  intro s
  cases hq : s.pending with
  | nil => exact ⟨tick s, by rw [step, hq]⟩
  | cons i rest => rw [step, hq]; exact exec_answers i _

/-- Settles O4: the reset state is a closed term. -/
theorem resetIsSound : Obligations.ResetIsSound := by
  unfold Obligations.ResetIsSound
  decide

/-- Settles O1: the step's equation for a queue that is not empty. -/
theorem stepRunsFront : Obligations.StepRunsFront := fun c rest s h => by rw [step, h]

end Sys2Proof.Machine
end

section
/-! PROOFS. The tiers of the ledger and the cartridge bays: what the ledger's own writing leaves of the tiers, what the happenings of a
bay leave of every bay, and the rows of chapter 19. -/

namespace Sys2Proof.Machine

variable {s : State}

/-! What staging leaves of the tiers behind MRAM. -/

/-- The tiers behind MRAM: holding flash, whether it has failed, and what the cartridges hold; and whether the ledger has
its first record (R704). -/
def Ledger.tiers (l : Ledger) : List Folio × Bool × Nat × Bool := (l.flash, l.flashFailed, l.committed, l.genesis)

/-- `t` is `s` but for the ledger's writing into MRAM and the last-gasp file, and for what events change. -/
structure OnlyStaging (s t : State) : Prop extends OnlyRecords s t where
  tiers : t.ledger.tiers = s.ledger.tiers

theorem OnlyStaging.trans {t u : State} (h : OnlyStaging s t) (k : OnlyStaging t u) : OnlyStaging s u :=
  ⟨h.toOnlyRecords.trans k.toOnlyRecords, k.tiers.trans h.tiers⟩

theorem OnlyEvents.onlyStaging {t : State} (h : OnlyEvents s t) : OnlyStaging s t := ⟨h.records, by rw [h.ledger]⟩

theorem State.closeWith_tiers (flags : Nat) (bay : Option Nat) (time breath : Nat) (identity : List Byte) :
    (s.closeWith flags bay time breath identity).ledger.tiers = s.ledger.tiers := by
  unfold State.closeWith
  dsimp only
  split <;> rfl

theorem State.closeFolio_onlyStaging (flags : Nat) (bay : Option Nat) : OnlyStaging s (s.closeFolio flags bay) :=
  ⟨s.closeFolio_onlyRecords flags bay, s.closeWith_tiers ..⟩

theorem State.notePressure_onlyStaging : OnlyStaging s s.notePressure := by
  refine ⟨s.notePressure_onlyRecords, ?_⟩
  unfold State.notePressure
  dsimp only
  (repeat' split)
  · rfl
  · rw [(State.raiseD_onlyEvents _ _ _ _ _ _).ledger]; rfl
  · rfl
  · rfl

theorem State.append_tiers (o : Bool) (rs : List (List Byte)) : (s.append o rs).ledger.tiers = s.ledger.tiers := by
  unfold State.append
  dsimp only
  split
  · exact State.closeWith_tiers ..
  · rfl

theorem State.place_tiers {o : Bool} {rs : List (List Byte)} {t : State} (h : s.place o rs = some t) :
    t.ledger.tiers = s.ledger.tiers := by
  unfold State.place at h
  split at h
  · cases h; exact s.append_tiers o rs
  · dsimp only at h
    split at h
    · cases h; exact (State.append_tiers o rs).trans (s.closeWith_tiers ..)
    · cases h

theorem State.tryGap_onlyStaging : OnlyStaging s s.tryGap := by
  refine ⟨s.tryGap_onlyRecords, ?_⟩
  unfold State.tryGap
  dsimp only
  split
  · rfl
  · split
    · next t h =>
      change t.ledger.tiers = _
      obtain h | ⟨-, h⟩ := (Option.orElse_eq_some _ _ _).1 h <;> exact s.place_tiers h
    · rfl

theorem State.stage_tiers (o : Bool) (n : Nat) (rs : List (List Byte)) (p b : Nat) :
    (s.stage o n rs p b).2.ledger.tiers = s.ledger.tiers := by
  unfold State.stage
  extract_lets u v r
  have hv : v.ledger.tiers = s.ledger.tiers := u.tryGap_onlyStaging.tiers
  split
  · unfold State.toGasp
    dsimp only
    split <;> rfl
  · cases hr : r with
    | none => exact hv
    | some t =>
      change t.notePressure.ledger.tiers = _
      rw [t.notePressure_onlyStaging.tiers, ← hv]
      simp only [r] at hr
      split at hr
      · cases hr
      · split at hr
        · cases hr
        · obtain hr | ⟨-, hr⟩ := (Option.orElse_eq_some _ _ _).1 hr
          · exact v.place_tiers hr
          · split at hr
            · exact v.place_tiers hr
            · cases hr

theorem State.stageEvent_onlyStaging (type train part : Nat) (body : List Byte) : OnlyStaging s (s.stageEvent type train part body) := by
  refine ⟨s.stageEvent_onlyRecords .., ?_⟩
  unfold State.stageEvent State.stageOne
  dsimp only
  split
  · rfl
  · exact s.stage_tiers ..

theorem State.bayEventOf_onlyStaging (b code : Nat) (id : List Byte) : OnlyStaging s (s.bayEventOf b code id) :=
  s.stageEvent_onlyStaging .. |>.trans (State.raiseD_onlyEvents ..).onlyStaging

theorem State.bayEvent_onlyStaging (b code : Nat) : OnlyStaging s (s.bayEvent b code) := s.bayEventOf_onlyStaging ..

theorem State.mediumFault_onlyStaging (tier code : Nat) : OnlyStaging s (s.mediumFault tier code) :=
  s.stageEvent_onlyStaging .. |>.trans (State.raiseD_onlyEvents ..).onlyStaging

/-! The tiers (R622, R656, R664). -/

/-- A folio with its body's digest and its chain value (R621, R624). -/
def Folio.chained (f : Folio) : Folio :=
  let g := { f with body := sha256 f.blocks }
  { g with chain := chainValue g.previous g.body g.fixed }

/-- The open folio as it closes now, a full one or not. -/
def State.closingFolio (s : State) : Folio :=
  Folio.chained {
    number := s.ledger.nextFolio, firstSeq := s.ledger.nextSeq - s.ledger.open_.length, records := s.ledger.open_
    closeTime := s.clock.time, closeBreath := s.adminBreath
    closeFlags := 0 + (if s.ledger.open_.length < folioRecords ∧ 0 % 2 = 0 then 1 else 0)
    identity := s.identityBlock, body := [], previous := s.ledger.lastChain, chain := [], ordinary := s.ledger.openOrdinary
    bay := none }

theorem State.closeFolio_eq (h : s.ledger.open_ ≠ []) : s.closeFolio = { s with ledger := { s.ledger with
    mram := s.ledger.mram ++ [s.closingFolio], open_ := [], openOrdinary := false, nextFolio := s.ledger.nextFolio + 1
    lastChain := s.closingFolio.chain } } := by
  rw [State.closeFolio, State.closeWith, if_neg h]
  rfl

theorem exec_folioCloseTimeout (hc : s.commits = true) (ho : s.ledger.open_ ≠ [])
    (ht : s.ledger.openTime + 1000000000 ≤ s.clock.time) (hk : s.canTake = true) :
    exec .folioCloseTimeout s = .next s.closeFolio := by
  simp [exec, execFolioCloseTimeout, hc, ho, ht, hk]

/-- A folio moved from MRAM to holding flash (R656). -/
def Ledger.toFlash (l : Ledger) (f : Folio) : Ledger :=
  { l with mram := l.mram.filter (·.number != f.number), flash := l.flash ++ [f], flashNext := (l.flashNext + 1) % flashSlots }

theorem exec_holdingFlashCommit {f : Folio} (hc : s.commits = true) (hf : s.nextForFlash = some f) (good : Bool) :
    exec (.holdingFlashCommit good) s = .next (if good then (s.modLedger (·.toFlash f)).tryGap.notePressure
      else (s.modLedger (fun l => { l with flashFailed := true })).mediumFault 2 0x10) := by
  cases good <;> simp [exec, execHoldingFlashCommit, hc, hf, Ledger.toFlash]

/-! What the happenings of a bay leave: election may make a bay active that stands by (R642). -/

/-- `x` is `y`, or stood by with no eject asked and is now active. -/
def Bay.ElectedFrom (x y : Bay) : Prop := x = y ∨ y.state = .standby ∧ y.ejectAsked = false ∧ x = { y with state := .active }

theorem Bay.ElectedFrom.trans {x y z : Bay} (h : x.ElectedFrom y) (k : y.ElectedFrom z) : x.ElectedFrom z := by
  obtain rfl | ⟨hs, ha, rfl⟩ := h
  · exact k
  · obtain rfl | ⟨-, -, rfl⟩ := k
    · exact .inr ⟨hs, ‹_›, rfl⟩
    · cases hs

theorem Bay.ElectedFrom.of_state {x y : Bay} (h : x.ElectedFrom y) (hs : y.state ≠ .standby) : x = y := by
  obtain h | ⟨h, -, -⟩ := h
  · exact h
  · exact absurd h hs

theorem Bay.ElectedFrom.of_asked {x y : Bay} (h : x.ElectedFrom y) (hs : y.ejectAsked = true) : x = y := by
  obtain h | ⟨-, h, -⟩ := h
  · exact h
  · rw [hs] at h; cases h

theorem Bay.ElectedFrom.rest {x y : Bay} (h : x.ElectedFrom y) : x = { y with state := x.state } := by
  obtain rfl | ⟨-, -, rfl⟩ := h <;> rfl

/-- `t` is `s` but for MRAM and the last-gasp file, the administrative train, what events change, and elections. -/
structure BaysServe (s t : State) : Prop where
  clock : t.clock = s.clock
  parts : t.parts = s.parts
  tiers : t.ledger.tiers = s.ledger.tiers
  train : ∀ k, k ≠ adminTrain → t.train k = s.train k
  held : t.bays.length = s.bays.length
  bay : ∀ b, (t.bay b).ElectedFrom (s.bay b)

theorem BaysServe.refl (s : State) : BaysServe s s := ⟨rfl, rfl, rfl, fun _ _ => rfl, rfl, fun _ => .inl rfl⟩

theorem BaysServe.trans {t u : State} (h : BaysServe s t) (k : BaysServe t u) : BaysServe s u :=
  ⟨k.clock.trans h.clock, k.parts.trans h.parts, k.tiers.trans h.tiers, fun j hj => (k.train j hj).trans (h.train j hj),
    k.held.trans h.held, fun b => (k.bay b).trans (h.bay b)⟩

theorem BaysServe.foldl {α : Type} {f : State → α → State} (hf : ∀ u a, BaysServe u (f u a)) (xs : List α) :
    BaysServe s (xs.foldl f s) :=
  List.foldlRecOn (motive := BaysServe s) _ _ (.refl s) fun _ h a _ => h.trans (hf _ a)

theorem OnlyStaging.baysServe {t : State} (h : OnlyStaging s t) : BaysServe s t := by
  obtain ⟨⟨hrest, -⟩, htiers⟩ := h
  refine ⟨by rw [hrest], by rw [hrest], htiers, fun k _ => ?_, by rw [hrest], fun b => .inl ?_⟩ <;> rw [hrest] <;> rfl

/-- A change of works of the administrative train. -/
theorem State.modTrain_admin_baysServe (g : Train → Train) : BaysServe s (s.modTrain adminTrain g) :=
  ⟨rfl, rfl, rfl, fun k hk => s.train_modTrain_other _ k g hk, rfl, fun _ => .inl rfl⟩

theorem State.finishWork_baysServe (id status : Nat) (detail : List Byte) : BaysServe s (s.finishWork adminTrain id status detail) :=
  s.modTrain_admin_baysServe (·.modWork id (·.finish status detail))

theorem State.failWork_baysServe (id : Nat) (r : Refuse) : BaysServe s (s.failWork adminTrain id r) :=
  s.modTrain_admin_baysServe (·.modWork id (·.finish r.status r.detail))

theorem State.checkFlush_baysServe : BaysServe s s.checkFlush := by
  refine BaysServe.foldl (fun u w => ?_) _
  split
  · exact u.finishWork_baysServe ..
  · split
    · exact .refl u
    · exact u.failWork_baysServe ..

theorem State.failRetire_baysServe (b : Nat) : BaysServe s (s.failRetire b) :=
  (BaysServe.foldl (fun u _ => u.failWork_baysServe ..) _).trans ⟨rfl, rfl, rfl, fun _ _ => rfl, rfl, fun _ => .inl rfl⟩

theorem State.ejected_baysServe (b : Nat) : BaysServe s (s.ejected b) := by
  refine BaysServe.foldl (fun u w => ?_) _
  split
  · exact u.finishWork_baysServe ..
  · exact BaysServe.trans (t := u.fresh.2) ⟨rfl, rfl, rfl, fun _ _ => rfl, rfl, fun _ => .inl rfl⟩ (State.finishWork_baysServe ..)

theorem State.bayEvent_baysServe (b code : Nat) : BaysServe s (s.bayEvent b code) := (s.bayEvent_onlyStaging b code).baysServe

theorem State.bay_modBay_any (i : Nat) (g : Bay → Bay) (b : Nat) :
    (s.modBay i g).bay b = s.bay b ∨ b = i ∧ (s.modBay i g).bay b = g (s.bay b) := by
  by_cases hb : b = i
  · subst hb
    by_cases hl : b < s.bays.length
    · exact .inr ⟨rfl, s.bay_modBay b g hl⟩
    · refine .inl ?_
      rw [State.modBay, State.setBay, List.set_eq_of_length_le (Nat.le_of_not_lt hl)]
  · exact .inl (s.bay_modBay_other i b g hb)

theorem State.elect_baysServe : BaysServe s s.elect := by
  unfold State.elect
  split
  · exact .refl s
  · split
    · next b hb =>
      have hstands := List.find?_some hb
      simp only [Bool.and_eq_true, beq_iff_eq, Bool.not_eq_true'] at hstands
      refine BaysServe.trans (t := s.modBay b fun x => { x with state := .active })
        ⟨rfl, rfl, rfl, fun _ _ => rfl, List.length_set .., fun c => ?_⟩ (State.bayEvent_baysServe ..)
      obtain h | ⟨rfl, h⟩ := s.bay_modBay_any b (fun x => { x with state := .active }) c
      · exact .inl h
      · exact .inr ⟨hstands.1, hstands.2, h⟩
    · exact .refl s

/-! A cartridge fault, and what no fault and no state of a bay changes: its slots. -/

/-- A bay whose cartridge has a fault (R663). -/
def Bay.faulted (code : Nat) (x : Bay) : Bay :=
  { x with state := .faulted, cart := if code = 6 then x.cart else x.cart.map (·.setFault code) }

theorem State.bayFault_baysServe (b code : Nat) : BaysServe (s.modBay b (·.faulted code)) (s.bayFault b code) :=
  (State.bayEvent_baysServe b 10).trans ((State.mediumFault_onlyStaging ..).baysServe.trans
    ((State.failRetire_baysServe b).trans (State.elect_baysServe.trans State.checkFlush_baysServe)))

/-- The slots of a bay: the next one, those torn before it, and the headers on the cartridge. -/
def Bay.slots (x : Bay) : Nat × List Nat × Option (List (Nat × List Byte)) := (x.nextSlot, x.torn, x.cart.map (·.headers))

theorem Bay.slots_faulted (code : Nat) (x : Bay) : (x.faulted code).slots = x.slots := by
  have hfault (c : CartridgePages) : (c.setFault code).headers = c.headers := by
    unfold CartridgePages.setFault
    split <;> rfl
  unfold Bay.faulted Bay.slots
  split
  · rfl
  · simp only [Option.map_map]
    congr 3
    exact funext hfault

/-- Clock, partitions, tiers and the slots of every bay are those of `s`. -/
structure SlotsStay (s t : State) : Prop where
  clock : t.clock = s.clock
  parts : t.parts = s.parts
  tiers : t.ledger.tiers = s.ledger.tiers
  slots : ∀ b, (t.bay b).slots = (s.bay b).slots

theorem SlotsStay.trans {t u : State} (h : SlotsStay s t) (k : SlotsStay t u) : SlotsStay s u :=
  ⟨k.clock.trans h.clock, k.parts.trans h.parts, k.tiers.trans h.tiers, fun b => (k.slots b).trans (h.slots b)⟩

theorem BaysServe.slotsStay {t : State} (h : BaysServe s t) : SlotsStay s t :=
  ⟨h.clock, h.parts, h.tiers, fun b => by rw [(h.bay b).rest]; rfl⟩

theorem State.modBay_slotsStay (i : Nat) {g : Bay → Bay} (hg : ∀ x, (g x).slots = x.slots) : SlotsStay s (s.modBay i g) := by
  refine ⟨rfl, rfl, rfl, fun b => ?_⟩
  obtain h | ⟨-, h⟩ := s.bay_modBay_any i g b
  · rw [h]
  · rw [h, hg]

theorem State.bayFault_slotsStay (b code : Nat) : SlotsStay s (s.bayFault b code) :=
  (s.modBay_slotsStay b (Bay.slots_faulted code)).trans (s.bayFault_baysServe b code).slotsStay

theorem State.noteBayFull_slotsStay (b : Nat) : SlotsStay s (s.noteBayFull b) := by
  unfold State.noteBayFull
  dsimp only
  split
  · exact (s.modBay_slotsStay b (g := fun x => { x with state := .full }) fun _ => rfl).trans
      ((State.bayEvent_baysServe b 4).trans (State.elect_baysServe.trans State.checkFlush_baysServe)).slotsStay
  · exact (BaysServe.refl s).slotsStay

theorem State.wf_bays (h : s.wf = true) : s.bays.length = 2 := by
  simp only [State.wf, Bool.and_eq_true, decide_eq_true_eq] at h
  exact h.1.1.1.1.2

theorem State.state_bayFault {b : Nat} (hb : b < s.bays.length) (code : Nat) : ((s.bayFault b code).bay b).state = .faulted := by
  have hmod := s.bay_modBay b (·.faulted code) hb
  rw [((s.bayFault_baysServe b code).bay b).of_state (by rw [hmod]; exact BayState.noConfusion), hmod]
  rfl

/-! A folio commit to a cartridge (R647, R648, R663). -/

/-- A bay that a folio has filled the next slot of. -/
def Bay.filled (x : Bay) (b : Nat) (f : Folio) : Bay :=
  { x with
    cart := x.cart.map (fun c => { c with
      openSlot := x.nextSlot, writtenMap := 2 ^ 128 - 1
      headers := c.headers ++ [(x.nextSlot, f.header (1 + b) c.id x.nextSlot x.torn)] })
    nextSlot := x.nextSlot + 1, torn := [], tornRun := 0 }

/-- A ledger of which a folio is on a cartridge. -/
def Ledger.onCartridge (l : Ledger) (f : Folio) : Ledger :=
  { l with
    mram := l.mram.filter (·.number != f.number), flash := l.flash.filter (·.number != f.number)
    committed := max l.committed f.lastSeq, anyCommitted := true }

/-- The folio is on the cartridge; what follows of it has not begun. -/
def State.putFolio (s : State) (b : Nat) (f : Folio) : State := (s.setBay b ((s.bay b).filled b f)).modLedger (·.onCartridge f)

theorem State.afterCommit_baysServe : BaysServe s s.tryGap.notePressure.checkFlush :=
  State.tryGap_onlyStaging.baysServe.trans (State.notePressure_onlyStaging.baysServe.trans State.checkFlush_baysServe)

/-- A bay whose cartridge has been retired (R269). -/
def Bay.retired (x : Bay) (time slot : Nat) : Bay :=
  { x with state := .retired, cart := x.cart.map (fun c => { c with life := c.life + 2, retireTime := time, lastSlot := slot }) }

theorem Bay.slots_retired (x : Bay) (time slot : Nat) : (x.retired time slot).slots = x.slots := by
  simp [Bay.slots, Bay.retired, Function.comp_def]

theorem State.freeClosing_baysServe (b : Nat) : BaysServe s (s.freeClosing b) := ⟨rfl, rfl, rfl, fun _ _ => rfl, rfl, fun _ => .inl rfl⟩

/-- The rest of a commit leaves the slots as the folio filled them. -/
theorem State.folioCommitted_slotsStay (b : Nat) (f : Folio) (lifePage : Bool) :
    SlotsStay (s.putFolio b f) (s.folioCommitted b f lifePage) := by
  unfold State.folioCommitted
  extract_lets x slot close u v retired noted answered w
  have hw : SlotsStay v w := by
    dsimp only [w]
    split
    · exact v.bayFault_slotsStay b 1
    · split
      · refine (v.modBay_slotsStay b (g := (·.retired v.clock.time slot)) fun x => x.slots_retired ..).trans
          (BaysServe.slotsStay ((State.bayEvent_baysServe b 11).trans
            (BaysServe.trans (BaysServe.foldl (fun y w => ?_) _) ((State.freeClosing_baysServe b).trans State.elect_baysServe))))
        split
        · exact y.finishWork_baysServe ..
        · exact y.failWork_baysServe ..
      · exact v.noteBayFull_slotsStay b
  exact hw.trans State.afterCommit_baysServe.slotsStay

/-- A closing folio without its life page faults the bay (R646, R663). -/
theorem State.state_folioCommitted_noLifePage {b : Nat} {f : Folio} (hb : b < s.bays.length) (hf : f.bay = some b) :
    ((s.folioCommitted b f false).bay b).state = .faulted := by
  have hheld : b < (s.putFolio b f).bays.length := by
    change b < (s.bays.set b _).length
    rwa [List.length_set]
  have hfault := State.state_bayFault hheld 1
  have heq : s.folioCommitted b f false = ((s.putFolio b f).bayFault b 1).tryGap.notePressure.checkFlush := by
    unfold State.folioCommitted State.putFolio
    dsimp only
    rw [if_pos (by simp [hf])]
    rfl
  rw [heq, (State.afterCommit_baysServe.bay b).of_state (by rw [hfault]; exact BayState.noConfusion), hfault]

/-- A bay whose next slot an attempted commit has torn (R647). -/
def Bay.tornNext (x : Bay) : Bay :=
  { x with
    cart := x.cart.map (fun c => { c with openSlot := x.nextSlot, writtenMap := 2 ^ 128 - 1 })
    torn := x.torn ++ [x.nextSlot], tornRun := x.tornRun + 1, nextSlot := x.nextSlot + 1 }

theorem State.folioTorn_slotsStay (b : Nat) : SlotsStay (s.setBay b (s.bay b).tornNext) (s.folioTorn b) := by
  have hevent := (State.bayEvent_baysServe (s := s.setBay b (s.bay b).tornNext) b 9).slotsStay
  unfold State.folioTorn
  dsimp only
  split
  · exact hevent.trans (State.bayFault_slotsStay b 2)
  · split
    · exact hevent.trans (State.bayFault_slotsStay b 4)
    · exact hevent.trans (State.noteBayFull_slotsStay b)

section
variable {b : Nat} {f : Folio} (hc : s.commits = true) (hf : s.nextFor b = some f)
include hc hf

theorem exec_folioCommitComplete_good : exec (.folioCommitComplete b 0) s = .next (s.folioCommitted b f) := by
  simp [exec, execFolioCommitComplete, hc, hf]

theorem exec_folioCommitComplete_torn : exec (.folioCommitComplete b 1) s = .next (s.folioTorn b) := by
  simp [exec, execFolioCommitComplete, hc, hf]

theorem exec_folioCommitComplete_error {outcome : Nat} (ho : 2 ≤ outcome) : exec (.folioCommitComplete b outcome) s =
    .next (if outcome = 4 ∧ f.bay = some b then s.folioCommitted b f false else s.bayFault b (if outcome = 3 then 3 else 1)) := by
  have h0 : outcome ≠ 0 := by omega
  have h1 : outcome ≠ 1 := by omega
  simp only [exec, execFolioCommitComplete, hf, hc, h0, h1, if_false, Bool.not_true, Bool.false_eq_true]
  split <;> rfl

end

/-- Settles O51: a folio closes by `closeFolio_eq`, moves as `toFlash` and `putFolio` say, and what follows leaves the tiers and the
slots. That outcome 4 faults the bay is the model's choice (assumption 121). -/
theorem foliosMoveThroughTheTiers : Obligations.FoliosMoveThroughTheTiers := by
  refine ⟨fun s hc ho ht hk => ?_, fun s f hc hf => ⟨?_, ?_⟩, fun s b f c hwf hb hc hf hcart => ?_⟩
  · refine ⟨_, s.closingFolio, exec_folioCloseTimeout hc ho ht hk, ?_, rfl, rfl, ?_, rfl, rfl, rfl, ?_⟩
    · rw [State.closeFolio_eq ho]
    · change s.ledger.nextSeq - s.ledger.open_.length + s.ledger.open_.length = _
      omega
    · rw [State.closeFolio_eq ho]
  · have hstay := (State.tryGap_onlyStaging (s := s.modLedger (·.toFlash f))).trans State.notePressure_onlyStaging
    exact ⟨_, exec_holdingFlashCommit hc hf true, congrArg Prod.fst hstay.tiers,
      (s.modLedger_onlyRecords _).trans hstay.toOnlyRecords⟩
  · have hstay := State.mediumFault_onlyStaging (s := s.modLedger (fun l => { l with flashFailed := true })) 2 0x10
    exact ⟨_, exec_holdingFlashCommit hc hf false, congrArg (·.2.1) hstay.tiers, congrArg Prod.fst hstay.tiers,
      (s.modLedger_onlyRecords _).trans hstay.toOnlyRecords⟩
  · have hheld : b < s.bays.length := by rw [State.wf_bays hwf]; exact hb
    refine ⟨?_, ?_, fun outcome ho => ⟨_, exec_folioCommitComplete_error hc hf ho, ?_⟩⟩
    · have hstay := s.folioCommitted_slotsStay b f true
      have hslots : ((s.folioCommitted b f).bay b).slots = ((s.bay b).filled b f).slots := by
        rw [hstay.slots b]
        exact congrArg Bay.slots (s.bay_setBay b _ hheld)
      obtain ⟨hnext, htorn, hheaders⟩ : _ ∧ _ ∧ _ := by simpa only [Bay.slots, Prod.mk.injEq] using hslots
      refine ⟨_, exec_folioCommitComplete_good hc hf, hnext, htorn, ?_, congrArg (·.2.2.1) hstay.tiers, hstay.clock, hstay.parts⟩
      rw [hheaders, Bay.filled, hcart]
      rfl
    · have hstay := s.folioTorn_slotsStay b
      have hslots : ((s.folioTorn b).bay b).slots = (s.bay b).tornNext.slots := by
        rw [hstay.slots b, s.bay_setBay b _ hheld]
      obtain ⟨hnext, htorn, -⟩ : _ ∧ _ ∧ _ := by simpa only [Bay.slots, Prod.mk.injEq] using hslots
      exact ⟨_, exec_folioCommitComplete_torn hc hf, hnext, htorn, hstay.clock, hstay.parts⟩
    · split
      · next hclosing =>
        have hstay := s.folioCommitted_slotsStay b f false
        exact ⟨State.state_folioCommitted_noLifePage hheld hclosing.2, hstay.clock, hstay.parts⟩
      · have hstay := s.bayFault_slotsStay b (if outcome = 3 then 3 else 1)
        exact ⟨State.state_bayFault hheld _, hstay.clock, hstay.parts⟩

/-! Mounting, ejecting and releasing (R637 to R643). -/

theorem OnlyStaging.modBay {t : State} (h : OnlyStaging s t) (b : Nat) (g : Bay → Bay) : OnlyStaging (s.modBay b g) (t.modBay b g) := by
  obtain ⟨⟨hrest, hfn⟩, htiers⟩ := h
  refine ⟨⟨?_, hfn⟩, htiers⟩
  rw [hrest]
  rfl

/-- A bay that holds a cartridge with no slot written, which mounts well. -/
def Bay.mounted (x : Bay) : Bay := { x with state := .standby, nextSlot := 0, torn := [], tornRun := 0 }

/-- The reports of a cartridge that is near its end of life (R663). -/
def State.warnWorn (s : State) (b : Nat) (c : CartridgePages) : State :=
  if decide (1800 ≤ c.insertions) || decide (c.spare < 10) then
    (s.raiseD 0x0706 1 b 0 (leBytes 4 c.insertions ++ [byte c.spare])).bayEvent b 14
  else s

theorem State.warnWorn_onlyStaging (b : Nat) (c : CartridgePages) : OnlyStaging s (s.warnWorn b c) := by
  unfold State.warnWorn
  split
  · exact (s.raiseD_onlyEvents ..).onlyStaging.trans (State.bayEvent_onlyStaging b 14)
  · exact (OnlyEvents.refl s).onlyStaging

theorem State.mountGood_unused {c : CartridgePages} (b : Nat) (h : c.openSlot = 0xFFFFFFFF) :
    s.mountGood b c = ((s.warnWorn b c).modBay b Bay.mounted).bayEvent b 2 := by
  simp only [State.mountGood, if_pos h, List.length_nil, Nat.not_lt_zero, if_false, List.foldl_nil]
  rfl

section
variable {b : Nat} {c : CartridgePages}

theorem State.bind_unbound (h : c.life = 0) :
    s.bind c = { c with life := 1, boundCard := fit 16 Config.serial, bindTime := s.clock.time } := by
  simp [State.bind, h, bit]

theorem State.mountOutcome_bound (hg : c.genuine = true) (hl : c.life = 0) (hi : c.insertions ≤ 2000) (hs : c.spare ≠ 0) :
    s.mountOutcome b c false = (s.modBay b (fun x => { x with cart := some (s.bind c) })).mountGood b (s.bind c) := by
  have hworn : ¬ (2000 < c.insertions ∨ c.spare = 0) := by omega
  simp [State.mountOutcome, hg, hl, s.bind_unbound hl, hworn, bit]

theorem State.mountOutcome_foreign (hg : c.genuine = true) (hl : bit c.life 0 = true) (hc : c.boundCard ≠ fit 16 Config.serial) :
    s.mountOutcome b c false = (s.modBay b (fun x => { x with state := .foreign })).bayEvent b 12 := by
  simp [State.mountOutcome, hg, hl, hc]

theorem State.mountOutcome_notGenuine (hg : c.genuine = false) : s.mountOutcome b c false = s.bayFault b 6 := by
  simp [State.mountOutcome, hg]

end

/-- The bay of a mount that has ended, with nothing decided of its cartridge. -/
def State.beginMount (s : State) (b : Nat) (fast : Bool) : State := s.setBay b { s.bay b with ddr50 := fast, ejectAsked := false }

theorem exec_mountComplete {b : Nat} {c : CartridgePages} (hc : s.commits = true) (hm : (s.bay b).state = .mounting) (hcart : (s.bay b).cart = some c)
    (ha : (s.bay b).ejectAsked = false) (fast : Bool) : exec (.mountComplete b fast false) s =
      .next ((s.beginMount b fast).mountOutcome b c false).elect.checkFlush := by
  simp [exec, execMountComplete, State.beginMount, hc, hm, hcart, ha]

/-- A cartridge that is unbound and unused is bound, and its bay stands by or is elected (R637, R642). -/
theorem State.mount_bound {b : Nat} {c : CartridgePages} (hb : b < s.bays.length) (hg : c.genuine = true) (hl : c.life = 0)
    (hi : c.insertions ≤ 2000) (hs : c.spare ≠ 0) (ho : c.openSlot = 0xFFFFFFFF) :
    let t := (s.mountOutcome b c false).elect.checkFlush
    (t.bay b).ElectedFrom { s.bay b with cart := some (s.bind c) }.mounted ∧ t.clock = s.clock ∧ t.parts = s.parts := by
  have hbound : (s.bind c).openSlot = 0xFFFFFFFF := by rw [s.bind_unbound hl]; exact ho
  have hheld : b < (s.modBay b (fun x => { x with cart := some (s.bind c) })).bays.length := by
    rw [State.modBay, State.setBay, List.length_set]; exact hb
  have hserve : BaysServe ((s.modBay b (fun x => { x with cart := some (s.bind c) })).modBay b Bay.mounted)
      (s.mountOutcome b c false).elect.checkFlush := by
    rw [s.mountOutcome_bound hg hl hi hs, State.mountGood_unused b hbound]
    exact (((State.warnWorn_onlyStaging b _).modBay b _).trans (State.bayEvent_onlyStaging b 2)).baysServe.trans
      (State.elect_baysServe.trans State.checkFlush_baysServe)
  refine ⟨?_, hserve.clock, hserve.parts⟩
  have hbay := hserve.bay b
  rwa [State.bay_modBay _ _ _ hheld, s.bay_modBay _ _ hb] at hbay

theorem State.mount_foreign {b : Nat} {c : CartridgePages} (hb : b < s.bays.length) (hg : c.genuine = true)
    (hl : bit c.life 0 = true) (hc : c.boundCard ≠ fit 16 Config.serial) :
    (s.mountOutcome b c false).elect.checkFlush.bay b = { s.bay b with state := .foreign } := by
  have hmod := s.bay_modBay b (fun x => { x with state := .foreign }) hb
  rw [s.mountOutcome_foreign hg hl hc, ((BaysServe.trans (State.bayEvent_baysServe b 12)
    (State.elect_baysServe.trans State.checkFlush_baysServe)).bay b).of_state (by rw [hmod]; exact BayState.noConfusion), hmod]

theorem State.mount_notGenuine {b : Nat} {c : CartridgePages} (hb : b < s.bays.length) (hg : c.genuine = false) :
    ((s.mountOutcome b c false).elect.checkFlush.bay b).state = .faulted := by
  have hfault := s.state_bayFault hb 6
  rw [s.mountOutcome_notGenuine hg, ((State.elect_baysServe.trans State.checkFlush_baysServe).bay b).of_state
    (by rw [hfault]; exact BayState.noConfusion), hfault]

/-- A bay whose cartridge has been asked for: an active one stands by (R641; assumption 60). -/
def Bay.asked (upTo : Option Nat) (x : Bay) : Bay :=
  { x with state := if x.state = .active then .standby else x.state, ejectAsked := true, ejectUpTo := upTo }

/-- The last folio that a bay is still to take when it is ejected (R641). -/
def Ledger.lastForEject (l : Ledger) : Option Nat :=
  if l.flash = [] then (l.waiting.getLast?).map (·.number) else (l.waiting.head?).map (·.number)

/-- An eject request marks the bay; what follows elects another. -/
theorem State.eject_baysServe {b : Nat} (ha : (s.bay b).ejectAsked = false) (he : (s.bay b).state ≠ .empty)
    (hr : (s.bay b).state ≠ .released) (hm : (s.bay b).state ≠ .mounting) :
    ∃ upTo, BaysServe (s.setBay b ((s.bay b).asked upTo)) (s.eject b) := by
  have hserve {v : State} (hv : OnlyStaging s v) {g : Bay → Bay} {upTo : Option Nat} (hg : g (s.bay b) = (s.bay b).asked upTo) :
      BaysServe (s.setBay b ((s.bay b).asked upTo)) (v.modBay b g) := by
    rw [← hg]
    exact (hv.modBay b g).baysServe
  unfold State.eject
  simp only [ha, Bool.false_eq_true, if_false]
  split
  · exact absurd ‹_› he
  · exact absurd ‹_› hr
  · exact absurd ‹_› hm
  · next hactive =>
    refine ⟨s.closeFolio.ledger.lastForEject, (hserve ((s.closeFolio_onlyStaging ..).trans (State.bayEvent_onlyStaging b 5)) ?_).trans
      (State.elect_baysServe.trans State.checkFlush_baysServe)⟩
    simp only [Bay.asked, hactive, if_true]
    rfl
  · next hactive =>
    refine ⟨none, (hserve (State.bayEvent_onlyStaging b 5) ?_).trans State.checkFlush_baysServe⟩
    simp only [Bay.asked, if_neg hactive]

theorem exec_cardRemoved {b : Nat} {c : CartridgePages} (hc : (s.bay b).cart = some c) :
    ∃ t, exec (.cardRemoved b) s = .next t ∧ BaysServe (s.setBay b {}) t := by
  simp only [exec, execCardRemoved, hc]
  exact ⟨_, rfl, (State.bayEventOf_onlyStaging ..).baysServe.trans ((State.failRetire_baysServe b).trans
    ((BaysServe.foldl (fun u _ => u.failWork_baysServe ..) _).trans (State.elect_baysServe.trans State.checkFlush_baysServe)))⟩

/-- A bay that is released (R641). -/
def Bay.released (x : Bay) (now : Nat) : Bay :=
  { x with state := .released, latchClosed := false, ejectAsked := false, ejectUpTo := none, releasedAt := now }

theorem exec_bayRelease {b : Nat} (hc : s.commits = true) (ha : (s.bay b).ejectAsked = true) (hm : (s.bay b).state ≠ .mounting)
    (hn : s.nextFor b = none) :
    ∃ t, exec (.bayRelease b) s = .next t ∧ BaysServe (s.setBay b ((s.bay b).released s.clock.timebase)) t := by
  refine ⟨_, if_pos (by simp [hc, ha, hm, hn]), ?_⟩
  exact (State.bayEvent_baysServe b 6).trans ((State.ejected_baysServe b).trans State.checkFlush_baysServe)

/-- Settles O52: each row by what it makes of its bay, which only an election may change afterwards. That an active bay stands
by as soon as its button is pressed is assumption 60. -/
theorem baysMountAndRelease : Obligations.BaysMountAndRelease := by
  have held {s : State} {b : Nat} (hwf : s.wf = true) (hb : b < 2) : b < s.bays.length := by rwa [State.wf_bays hwf]
  have begun {s : State} {b : Nat} {fast : Bool} (hwf : s.wf = true) (hb : b < 2) : b < (s.beginMount b fast).bays.length
      ∧ (s.beginMount b fast).bay b = { s.bay b with ddr50 := fast, ejectAsked := false } :=
    ⟨by rw [State.beginMount, State.setBay, List.length_set]; exact held hwf hb, s.bay_setBay b _ (held hwf hb)⟩
  refine ⟨fun s b c hwf hb hg he => ?_, fun s b c fast hwf hb hc hm hcart ha => ⟨fun hgen hl hi hs ho => ?_, fun hgen hl hcard => ?_,
    fun hgen => ?_⟩, fun s b c hwf hb hcart => ?_, fun s b hwf hb hc ha he hr hm => ?_, fun s b hwf hb hc ha hm hn => ?_,
    fun s b c hwf hb hc hr hcart ht => ?_⟩
  · refine ⟨_, if_neg (by simp [he, hg, hb]), ?_⟩
    exact State.bayEvent_onlyRecords _ b 1
  · obtain ⟨hheld, hbegun⟩ := begun (fast := fast) hwf hb
    obtain ⟨hbay, hclock, hparts⟩ := State.mount_bound hheld hgen hl hi hs ho
    rw [hbegun, State.bind_unbound hl] at hbay
    refine ⟨_, exec_mountComplete hc hm hcart ha fast, ?_, ?_, ?_, ?_, hclock, hparts⟩
    · obtain h | ⟨-, -, h⟩ := hbay <;> rw [h]
      · exact .inl rfl
      · exact .inr rfl
    all_goals rw [hbay.rest]; rfl
  · obtain ⟨hheld, hbegun⟩ := begun (fast := fast) hwf hb
    refine ⟨_, exec_mountComplete hc hm hcart ha fast, ?_⟩
    rw [State.mount_foreign hheld hgen hl hcard, hbegun]
    exact ⟨rfl, hcart⟩
  · exact ⟨_, exec_mountComplete hc hm hcart ha fast, State.mount_notGenuine (begun hwf hb).1 hgen⟩
  · obtain ⟨t, ht, hserve⟩ := exec_cardRemoved hcart
    have hempty := s.bay_setBay b {} (held hwf hb)
    refine ⟨t, ht, ?_, hserve.clock, hserve.parts, hserve.train⟩
    rw [(hserve.bay b).of_state (by rw [hempty]; exact BayState.noConfusion), hempty]
  · obtain ⟨upTo, hserve⟩ := s.eject_baysServe ha he hr hm
    have hbay := s.bay_setBay b ((s.bay b).asked upTo) (held hwf hb)
    have hstays : (s.eject b).bay b = (s.bay b).asked upTo := by rw [(hserve.bay b).of_asked (by rw [hbay]; rfl), hbay]
    refine ⟨s.eject b, by simp [exec, execEjectButton, hc], ?_⟩
    rw [hstays]
    exact ⟨rfl, rfl, rfl, hserve.clock, hserve.parts⟩
  · obtain ⟨t, ht, hserve⟩ := exec_bayRelease hc ha hm hn
    have hbay := s.bay_setBay b ((s.bay b).released s.clock.timebase) (held hwf hb)
    have hstays : t.bay b = (s.bay b).released s.clock.timebase := by
      rw [(hserve.bay b).of_state (by rw [hbay]; exact BayState.noConfusion), hbay]
    refine ⟨t, ht, ?_⟩
    rw [hstays]
    exact ⟨rfl, rfl, rfl, rfl, hserve.clock, hserve.parts⟩
  · refine ⟨_, if_pos (by simp [hc, hr, hcart, ht]), ?_⟩
    exact State.bayEvent_onlyRecords _ b 13

end Sys2Proof.Machine
end

section
/-! PROOFS. The key switch and the presence window (R670 to R673), the control registers (R700, R710, R735, R760, R765), the sideband
(R743, R744, R812) and the sensors (R748, R800). -/

namespace Sys2Proof.Machine

variable {s : State}

/-! The presence window. -/

/-- The frame of a change of the presence state that events follow. -/
theorem OnlyEvents.ofPresence {t : State} {g : Presence → Presence} (h : OnlyEvents (s.modPresence g) t) :
    OnlyEvents { s with presence := t.presence } t ∧ t.presence = g s.presence :=
  ⟨(OnlyEvents.withPresence h).2, h.presence⟩

theorem exec_presentHold (hk : s.presence.key = .present) (hl : s.presence.loop = true) (hp : s.powered = true) :
    ∃ t, exec .presentHold s = .next t ∧ OnlyEvents { s with presence := t.presence } t
      ∧ t.presence = { s.presence with window := some (s.clock.timebase + 100000000 * s.presence.length) } :=
  ⟨_, if_pos (by simp [hk, hl, hp]), OnlyEvents.ofPresence (State.raiseD_onlyEvents ..)⟩

/-- Settles O48: a window closes by `closeWindow_onlyEvents`, opens by `exec_presentHold`. -/
theorem keySwitchAndWindow : Obligations.KeySwitchAndWindow := by
  refine ⟨fun s position hp hlt => ?_, fun s hp hk hw => ?_, fun s e hp hw => ⟨fun he => ?_, fun he => ?_⟩⟩
  · by_cases h0 : position = 0
    · subst h0
      refine ⟨_, ?_, OnlyEvents.ofPresence (g := fun p => { p with key := .off, window := none })
        (State.closeWindow_onlyEvents (s.modPresence fun p => { p with key := .off }) 2)⟩
      exact congrArg _ (if_pos ⟨rfl, hp⟩)
    · have hon : (if position = 1 then Key.on else .present) ≠ .off := by split <;> exact Key.noConfusion
      refine ⟨s.modPresence fun p => { p with key := if position = 1 then .on else .present }, ?_, .refl _, ?_⟩
      · simp only [exec, execKeySwitch, h0, if_false, hon, false_and]
      · simp [State.modPresence, h0]
  · by_cases hl : s.presence.loop = true
    · rw [if_pos hl]
      exact exec_presentHold hk hl hp
    · rw [if_neg hl, ← hw]
      exact ⟨s, if_neg (by simp [hl]), .refl s, rfl⟩
  · simp only [exec, execPresenceWindowEnd, hw, Nat.not_le.2 he, false_and, if_false]
  · refine ⟨s.closeWindow 1, ?_, OnlyEvents.ofPresence (s.closeWindow_onlyEvents 1)⟩
    simp only [exec, execPresenceWindowEnd, hw, he, hp, and_self, if_true]

/-- Settles O49: a hold does with a window open what it does without one. -/
theorem presentHoldRestartsTheWindow : Obligations.PresentHoldRestartsTheWindow := by
  intro s e hp hk hl _
  obtain ⟨t, hexec, hevents, hwindow⟩ := exec_presentHold hk hl hp
  exact ⟨t, hexec, hwindow, hevents⟩

/-! PART_PERF_CTRL. -/

theorem State.modPart_modPart {p : Nat} (h : p < s.parts.length) (f g : Part → Part) :
    (s.modPart p f).modPart p g = s.modPart p (fun x => g (f x)) := by
  rw [State.modPart, s.part_modPart p f h]
  simp [State.modPart, State.setPart]

theorem State.modPart_same {p : Nat} (h : p < s.parts.length) : s.modPart p (fun x => x) = s := by
  simp [State.modPart, State.setPart, State.part, List.getD_eq_getElem?_getD, h]

/-- Settles O28: the four values of the two bits. -/
theorem counterSnapshotAndClear : Obligations.CounterSnapshotAndClear := by
  intro s fn p value hwf hp hfn hr hv
  have hheld : p < s.parts.length := by rw [s.wf_parts hwf]; exact hp
  have hwrites : ¬ (16 ≤ p ∨ (fn ≠ 0 ∧ fn ≠ p + 1) ∨ (!s.registersAnswer) = true ∨ 4 ≤ value) := by
    simp only [hr, Bool.not_true, Bool.false_eq_true, false_or]
    omega
  refine (fun h => ⟨congrArg _ h, congrArg _ h⟩ : ∀ h : s.perfCtrl fn p value = _, _) ?_
  rw [State.perfCtrl, if_neg hwrites]
  interval_cases value
  · exact (State.modPart_same hheld).symm
  · rfl
  · rfl
  · exact State.modPart_modPart hheld (fun x => { x with perfShadow := x.perf, cycShadow := x.cycSnap, timebaseShadow := s.clock.timebase })
      (fun x => { x with perf := {} })

/-! The sideband. -/

theorem State.respond_answers (h : s.sidebandAnswers = true) (bs : List Byte) :
    s.respond bs = { s with out := { s.out with sideband := bs } } := if_pos h

theorem State.respond_silent (h : s.sidebandAnswers = false) (bs : List Byte) : s.respond bs = s := by
  simp [State.respond, h]

/-- Settles O57: every message answers by `respond`; the responses' bytes are the model's (assumption 15). -/
theorem sidebandResponses : Obligations.SidebandResponses := by
  refine ⟨fun s h => ?_, fun s n h => ?_⟩
  · have answer {bs cs : List Byte} (hbs : bs = cs) :
        (Host.Outcome.next (s.respond bs) : Host.Outcome State Fault Refusal) = .next { s with out := { s.out with sideband := cs } } := by
      rw [State.respond_answers h, hbs]
    refine ⟨fun eid h0 h255 => ?_, answer rfl, answer rfl, fun m => answer ?_, answer rfl, answer rfl, fun m => answer rfl, answer rfl,
      fun m => answer ?_, answer rfl, fun n => answer rfl, fun n v hv => ?_, fun n hn => ?_, fun n => answer rfl, fun m p c => answer rfl⟩
    · rw [exec, execSetEndpointId, if_neg (by rw [h]; exact Bool.false_ne_true), if_neg (by omega)]
      exact congrArg _ (State.respond_answers (s := s.modBoard fun b => { b with eid := eid }) h _)
    · simp
    · split
      · rfl
      · split <;> rfl
    · simp only [exec, execGetSensorReading, hv, State.respond_answers h, h, Bool.true_and]
      by_cases hn : n = 32 ∨ n = 35
      · obtain rfl | rfl := hn <;> simp [State.modBoard]
      · obtain ⟨h32, h35⟩ := not_or.1 hn
        simp only [beq_iff_eq, h32, h35, or_self, if_false, Bool.or_eq_true, bne_iff_ne.2 h32, bne_iff_ne.2 h35, Bool.and_true]
    · rw [exec, execGetSensorReading, hn]
      exact answer rfl
  · have silent (bs : List Byte) : (Host.Outcome.next (s.respond bs) : Host.Outcome State Fault Refusal) = .next s := by
      rw [State.respond_silent h]
    refine ⟨?_, silent _, silent _, silent _, silent _, silent _, silent _, silent _, silent _, silent _, silent _, ?_, silent _, silent _⟩
    · exact if_pos (by rw [h]; rfl)
    · simp only [exec, execGetSensorReading, h, Bool.false_and, Bool.false_eq_true, if_false, State.respond_silent h]
      split <;> rfl

/-! Sensors. -/

/-- A sensor with a reading: what it warns of next is `armed`. -/
def Sensor.read (x : Sensor) (i : Nat) (value : Int) (armed : Bool) : Sensor :=
  { x with now := value, armed := armed, overTrip := if tripAt i ≤ value then x.overTrip + 1 else 0 }

def State.putSensor (s : State) (i : Nat) (x : Sensor) : State := s.modBoard (fun b => { b with sensors := b.sensors.set i x })

section
variable {i : Nat} {value : Int} {x : Sensor} (hg : s.board.good = true) (hx : s.board.sensors[i]? = some x)
include hg hx

theorem exec_sensorReading_quiet (h : ((x.armed || decide (value ≤ x.warn - 3)) && decide (x.warn ≤ value)) = false) :
    exec (.sensorReading i value) s = .next (s.putSensor i (x.read i value (x.armed || decide (value ≤ x.warn - 3)))) := by
  simp only [exec, execSensorReading, hx, hg, h, Bool.not_true, Bool.false_eq_true, if_false]
  rfl

theorem exec_sensorReading_suppressed (h : ((x.armed || decide (value ≤ x.warn - 3)) && decide (x.warn ≤ value)) = true)
    (ho : s.dev.onceThisSecond.contains (0x0901, i) = true) :
    exec (.sensorReading i value) s = .next (s.putSensor i (x.read i value (x.armed || decide (value ≤ x.warn - 3)))) := by
  simp only [exec, execSensorReading, hx, hg, h, State.once, ho, Bool.not_true, Bool.false_eq_true, if_false, if_true]
  rfl

theorem exec_sensorReading_warns (h : ((x.armed || decide (value ≤ x.warn - 3)) && decide (x.warn ≤ value)) = true)
    (ho : s.dev.onceThisSecond.contains (0x0901, i) = false) :
    exec (.sensorReading i value) s = .next (((s.modDev (fun d => { d with
      onceThisSecond := (0x0901, i) :: d.onceThisSecond })).putSensor i (x.read i value false)).raiseD 0x0901 1 i 0 (leBytes 2 (twos 16 value))) := by
  simp only [exec, execSensorReading, hx, hg, h, State.once, ho, Bool.not_true, Bool.false_eq_true, if_false, if_true]
  rfl

end

/-- Settles O53: a reading has nothing to warn of, is suppressed, or warns; a suppressed warning stays armed (assumption 69). -/
theorem sensorReadings : Obligations.SensorReadings := by
  intro s i value x hg hx
  have reads {u : State} {armed : Bool} (hu : u.board.sensors = s.board.sensors.set i (x.read i value armed))
      (h : armed = ((x.armed || decide (value ≤ x.warn - 3))
        && !(decide (x.warn ≤ value) && !s.dev.onceThisSecond.contains (0x0901, i)))) :
      u.board.sensors = s.board.sensors.set i { x with
        now := value, overTrip := if tripAt i ≤ value then x.overTrip + 1 else 0
        armed := (x.armed || decide (value ≤ x.warn - 3))
          && !(decide (x.warn ≤ value) && !s.dev.onceThisSecond.contains (0x0901, i)) } := by
    rw [hu, h]
    rfl
  by_cases hw : ((x.armed || decide (value ≤ x.warn - 3)) && decide (x.warn ≤ value)) = true
  · obtain ⟨harmed, hwarn⟩ := Bool.and_eq_true_iff.1 hw
    have hat : x.warn ≤ value := of_decide_eq_true hwarn
    by_cases ho : s.dev.onceThisSecond.contains (0x0901, i) = true
    · refine ⟨_, exec_sensorReading_suppressed hg hx hw ho, reads rfl ?_, .refl _, fun hlt => absurd hlt (not_lt.2 hat)⟩
      rw [harmed, hwarn, ho]
      rfl
    · rw [Bool.not_eq_true] at ho
      have hevents := State.raiseD_onlyEvents ((s.modDev (fun d => { d with
        onceThisSecond := (0x0901, i) :: d.onceThisSecond })).putSensor i (x.read i value false)) 0x0901 1 i 0 (leBytes 2 (twos 16 value))
      have hsensors := congrArg Board.sensors (congrArg State.board hevents.rest)
      refine ⟨_, exec_sensorReading_warns hg hx hw ho, reads hsensors ?_, ?_, fun hlt => absurd hlt (not_lt.2 hat)⟩
      · rw [harmed, hwarn, ho]
        rfl
      · rw [hsensors, hevents.dev]
        exact hevents
  · rw [Bool.not_eq_true] at hw
    refine ⟨_, exec_sensorReading_quiet hg hx hw, reads rfl ?_, .refl _, fun _ => ⟨rfl, rfl⟩⟩
    exact (by decide : ∀ a w o : Bool, (a && w) = false → a = (a && !(w && o))) _ _ _ hw

/-! Changes of every train that runs. -/

theorem State.nodup_activeTrains : s.activeTrains.Nodup := by
  refine List.nodup_append.2 ⟨s.nodup_leaders, List.nodup_singleton _, fun k hk j hj => ?_⟩
  have hlt := State.lt_of_mem_leaders hk
  rw [List.mem_singleton.1 hj]
  exact hlt.ne

def State.modActive (s : State) (g : Train → Train) : State := s.activeTrains.foldl (fun u k => u.modTrain k g) s

theorem State.modActive_rest (g : Train → Train) : s.modActive g = { s with trains := (s.modActive g).trains } :=
  (OnlyTrains.foldl s (ks := s.activeTrains) fun u _ hk => u.modTrain_onlyTrains hk g).rest

theorem State.train_modActive (h : s.trains.length = 17) (g : Train → Train) (k : Nat) :
    (s.modActive g).train k = if k ∈ s.activeTrains then g (s.train k) else s.train k :=
  foldl_read (f := fun u k => u.modTrain k g) (read := State.train) (g := fun _ => g) (ok := fun u => u.trains.length = 17)
    s.nodup_activeTrains (fun u p _ hu => (u.length_modTrain p g).trans hu)
    (fun u p hp hu => u.train_modTrain p g (by rw [hu]; exact State.lt_of_mem_activeTrains hp))
    (fun u p q hq => u.train_modTrain_other p q g hq) h k

theorem State.train_modActive_of_mem (h : s.trains.length = 17) (g : Train → Train) {k : Nat} (hk : k ∈ s.activeTrains) :
    (s.modActive g).train k = g (s.train k) := by
  rw [State.train_modActive h, if_pos hk]

/-! CHANTER_RESTART, BAR2_WIN and GO. -/

/-- A train that is to stop for a restart of the Chanter. -/
def Train.stopsForRestart (x : Train) : Train := { x with stopFor := .restart }

theorem State.noteRestart_running {k : Nat} (hk : k ∈ s.activeTrains) (hrun : (s.train k).halt = .none) : s.noteRestart = s := by
  unfold State.noteRestart
  refine if_neg fun ⟨_, _, hall⟩ => ?_
  have hstopped := List.all_eq_true.1 hall k hk
  simp [hrun] at hstopped

/-- With a train that runs, every train is told to stop and nothing more happens yet. -/
theorem State.restartTrains_running (cause : Nat) (hl : s.trains.length = 17) {k : Nat} (hk : k ∈ s.activeTrains)
    (hrun : (s.train k).halt = .none) :
    s.restartTrains cause = (s.modDev (fun d => { d with restartCause := cause })).modActive Train.stopsForRestart := by
  have hmod := (s.modDev (fun d => { d with restartCause := cause })).modActive_rest Train.stopsForRestart
  refine State.noteRestart_running (k := k) ?_ ?_
  · change k ∈ ((s.modDev (fun d => { d with restartCause := cause })).modActive Train.stopsForRestart).activeTrains
    rw [hmod]
    exact hk
  · change (((s.modDev (fun d => { d with restartCause := cause })).modActive Train.stopsForRestart).train k).halt = _
    rw [State.train_modActive (s := s.modDev (fun d => { d with restartCause := cause })) hl]
    split <;> exact hrun

theorem exec_chanterRestart {value : Nat} (hstate : s.dev.state = .ready) (hcause : s.dev.restartCause = 0)
    (hmember : s.consort.member = false) (hv : value = 1 ∨ value = 3) : exec (.chanterRestart 0 value) s =
      .next ((s.modDev (fun d => { d with keepTraining := decide (value = 3) })).restartTrains 1) := by
  obtain rfl | rfl := hv <;>
    simp [exec, execChanterRestart, State.registersAnswer, hstate, hcause, hmember, bit, State.modDev]

theorem bits_window {part page : Nat} (hpart : part < 16) (hpage : page < 196608) :
    bits (part + 65536 * page) 4 12 = 0 ∧ bits (part + 65536 * page) 16 18 * 65536 = 65536 * page
      ∧ (part + 65536 * page) % 16 = part ∧ part + 65536 * page < 2 ^ 34 := by
  unfold bits
  omega

/-- Settles O29: BAR2_WIN by its fields, a restart by `restartTrains_running`, GO by its checks. -/
theorem controlRegisterWrites : Obligations.ControlRegisterWrites := by
  refine ⟨fun s fn blk part page hwf hfn hr hpart hpage => ?_, fun s blk value hblk => ?_,
    fun s value hwf hstate hcause hmember hv ⟨k, hk, hrun⟩ => ?_, fun s image hp hstate hpres h0 h1 hprog => ?_⟩
  · obtain ⟨hreserved, hbase, hlow, hhigh⟩ := bits_window hpart hpage
    have hheld : fn < s.fns.length := by rw [s.wf_fns hwf]; omega
    have hfits : ¬ (bits (part + 65536 * page) 4 12 ≠ 0 ∨ 2 ^ 34 ≤ part + 65536 * page
        ∨ partBytes ≤ bits (part + 65536 * page) 16 18 * 65536 ∨ (!s.registersAnswer) = true) := by
      rw [hreserved, hbase, hr, partBytes]
      simp only [Bool.not_true, Bool.false_eq_true, or_false]
      omega
    have hwrite : exec (.bar2WinWrite fn blk (part + 65536 * page)) s = .next (s.modFn fn fun f => { f with
        windowBase := 65536 * page, windowPart := if fn = 0 then part else f.windowPart }) := by
      refine congrArg Host.Outcome.next ?_
      rw [State.writeWindow, if_neg hfits, hbase, hlow]
      obtain ⟨rfl, rfl⟩ | ⟨rfl, hblk⟩ := hfn
      · rfl
      · rw [if_neg (by omega), if_pos rfl]
        rfl
    refine ⟨_, hwrite, rfl, fun g hg => s.fn_modFn_other fn g _ hg, ?_⟩
    rw [s.fn_modFn fn _ hheld]
  · refine congrArg Host.Outcome.next ?_
    unfold State.writeWindow
    dsimp only
    split
    · rfl
    · rw [if_neg (by omega), if_neg (by omega)]
  · have hl : s.trains.length = 17 := s.wf_trains hwf
    refine ⟨_, exec_chanterRestart hstate hcause hmember hv, ?_⟩
    rw [State.restartTrains_running (s := s.modDev (fun d => { d with keepTraining := decide (value = 3) })) 1 hl hk hrun]
    generalize hu : ((s.modDev (fun d => { d with keepTraining := decide (value = 3) })).modDev (fun d => { d with restartCause := 1 })) = u
    have hrest := u.modActive_rest Train.stopsForRestart
    have htrain : ∀ k, k ∈ s.activeTrains → ((u.modActive Train.stopsForRestart).train k).stopFor = .restart := fun k hk => by
      subst hu
      exact congrArg Train.stopFor (State.train_modActive_of_mem (s := (s.modDev _).modDev _) hl _ hk)
    refine ⟨?_, ?_, fun k hk _ => htrain k hk, ?_⟩
    · rw [hrest, ← hu]; rfl
    · rw [hrest, ← hu]; rfl
    · rw [hrest, ← hu]; rfl
  · simp only [exec, execGo]
    rw [if_neg (by simp [State.registersAnswer, hstate, hp]), hpres]
    rw [if_neg (by decide), if_neg (by simp [hstate, h0, h1, hprog])]
    cases s.imageProblem (fit s.dev.recoveryLen image) s.dev.recoveryLen <;> rfl

end Sys2Proof.Machine
end

