-- ==== Sys2Proof/Proofs/RegisterAccesses.lean ====
section
/-! Register writes in one access and the reads that latch (R738, R748 to R750, R770, R780, R782): one equation per kind
of write, and what a read of BAR0 returns, latches and leaves. -/

namespace Sys2Proof.Machine

variable {s : State}

/-! Writes. -/

/-- The latches that a write at `off` ends (R750, R770). -/
def Function.endLatches (off : Nat) (f : Function) : Function := { f with latch := none, ledgerLatch := f.keepLedger off }

theorem exec_registerWrite_device {fn off size value : Nat} (hsize : size = 4 ∨ size = 8) (hoff : off % size = 0)
    (hans : s.registersAnswer = true) (hblk : blockAt off = none) :
    exec (.registerWrite fn 0 off size value) s = (s.modFn fn (Function.endLatches off)).writeDevice fn off size value := by
  have haligned : ((size == 4 || size == 8) && off % size == 0) = true := by simp [hsize, hoff]
  have hbooted : s.dev.state ≠ .booting := by simpa [State.registersAnswer] using hans
  simp only [exec, execRegisterWrite, haligned, hblk, State.registersAnswer, State.modFn_dev]
  simp [hbooted]
  rfl

theorem exec_registerWrite_block {fn off size value p o : Nat} (hsize : size = 4 ∨ size = 8) (hoff : off % size = 0)
    (hans : s.registersAnswer = true) (hblk : blockAt off = some (p, o)) :
    exec (.registerWrite fn 0 off size value) s = (s.modFn fn (Function.endLatches off)).writeBlock fn p o size value := by
  have haligned : ((size == 4 || size == 8) && off % size == 0) = true := by simp [hsize, hoff]
  have hbooted : s.dev.state ≠ .booting := by simpa [State.registersAnswer] using hans
  simp only [exec, execRegisterWrite, haligned, hblk, State.registersAnswer, State.modFn_dev]
  simp [hbooted]
  rfl

theorem exec_registerWrite_unaligned {fn off size value : Nat} (hbad : (size ≠ 4 ∧ size ≠ 8) ∨ off % size ≠ 0)
    (hblk : blockAt off = none) (hurgent : off / 8 * 8 ≠ 0x2010) (hbulk : off / 8 * 8 ≠ 0x2050) :
    exec (.registerWrite fn 0 off size value) s = .next (s.modFn fn (Function.endLatches off)) := by
  have haligned : ((size == 4 || size == 8) && off % size == 0) = false := by
    obtain ⟨h4, h8⟩ | h := hbad
    · simp [h4, h8]
    · simp [h]
  have hbell : ¬ (off / 4 * 4 = 0x2010 ∨ off / 4 * 4 = 0x2050) := by omega
  simp [exec, execRegisterWrite, haligned, hblk, hbell]
  rfl

theorem blockAt_device {a : Nat} (h : a < 0x01000000) : blockAt a = none := if_neg (by omega)

theorem blockAt_block {p o : Nat} (hp : p < 16) (ho : o < 0x100000) : blockAt (blockBase p + o) = some (p, o) := by
  have hpart : (blockBase p + o - 0x01000000) / 0x100000 = p := by unfold blockBase; omega
  have hoff : (blockBase p + o - 0x01000000) % 0x100000 = o := by unfold blockBase; omega
  unfold blockAt
  rw [hpart, hoff, if_pos (by unfold blockBase; omega)]

/-- THERM_WARN_s holds a value of 16 bits in two's complement. -/
def thermValue (value : Nat) : Int := if value < 32768 then (value : Int) else (value : Int) - 65536

theorem State.writeThermWarn_inRange (i : Nat) {value : Nat} (h : value ≤ 125 ∨ 65496 ≤ value ∧ value < 65536) :
    s.writeThermWarn i value =
      { s with board := { s.board with sensors := s.board.sensors.modify i (fun x => { x with warn := thermValue value }) } } := by
  unfold State.writeThermWarn
  exact if_neg (by split <;> omega)

theorem State.writeReplyBase_aligned {f value : Nat} (hbase : value % 4096 = 0) (hoff : (s.fn f).reply.enable = false) :
    s.writeReplyBase f value = s.modFn f (fun x => { x with reply := { x.reply with base := value } }) := if_neg (by simp [hbase, hoff])

/-- Settles O31: an aligned write reaches its register behind `Function.endLatches`, any other stops there. -/
theorem plainRegisterWrites : Obligations.PlainRegisterWrites := by
  refine ⟨fun s i value hwf hans hi hsensors hvalue => ?_, fun s p value hwf hans hp hbase hoff => ?_,
    fun s fn off size value _ hbad hblk hurgent hbulk => exec_registerWrite_unaligned hbad hblk hurgent hbulk⟩
  · have hheld : 0 < s.fns.length := by rw [s.wf_fns hwf]; decide
    have hkeep : Function.endLatches (0x280 + 8 * i) (s.fn 0) = { s.fn 0 with latch := none, ledgerLatch := none } :=
      congrArg (fun l => { s.fn 0 with latch := none, ledgerLatch := l }) (if_neg (by omega))
    have hreg : exec (.registerWrite 0 0 (0x280 + 8 * i) 4 value) s =
        .next ((s.modFn 0 (Function.endLatches (0x280 + 8 * i))).writeThermWarn i value) := by
      rw [exec_registerWrite_device (.inl rfl) (by omega) hans (blockAt_device (by omega)), State.writeDevice, if_neg (by decide),
        if_neg (by omega), if_pos (by omega)]
      congr 2
      omega
    rw [State.writeThermWarn_inRange i hvalue] at hreg
    exact ⟨_, hreg, rfl, (s.fn_modFn 0 _ hheld).trans hkeep, fun g hg => s.fn_modFn_other 0 g _ hg, rfl⟩
  · have hheld : p + 1 < s.fns.length := by rw [s.wf_fns hwf]; omega
    have hfn := s.fn_modFn (p + 1) (Function.endLatches (blockBase p + 0x280)) hheld
    have hkeep : (s.fn (p + 1)).keepLedger (blockBase p + 0x280) = none := if_neg (by unfold blockBase; omega)
    have howner : blockOwner (p + 1) p = some (p + 1) := by
      unfold blockOwner
      rw [if_neg (by omega), if_pos (.inr rfl)]
    rw [exec_registerWrite_block (.inr rfl) (by unfold blockBase; omega) hans (blockAt_block hp (by decide)), State.writeBlock,
      if_pos (by decide), State.writeRings, howner]
    refine congrArg Host.Outcome.next ?_
    rw [State.writeReplyBase_aligned (by exact hbase) (by rw [hfn]; exact hoff), s.modFn_modFn hheld]
    refine State.modFn_congr ?_
    simp only [Function.endLatches, hkeep, merge64, if_true]

end Sys2Proof.Machine
end

