-- ==== Sys2Proof/Proofs/LatchingReads.lean ====
section
/-! Reads of BAR0 that latch (R738, R750, R770) and the read that clears LAST_VIOLATION (R782). -/

namespace Sys2Proof.Machine

variable {s : State}

theorem leBytes_eq_map (k n : Nat) : leBytes k n = (List.range k).map (fun i => byte (n / 2 ^ (8 * i))) := by
  induction k generalizing n with
  | zero => rfl
  | succ k ih =>
    rw [leBytes, ih, List.range_succ_eq_map]
    simp only [List.map_cons, List.map_map, Nat.mul_zero, pow_zero, Nat.div_one]
    congr 1
    refine List.map_congr_left fun i _ => ?_
    have hpow : 2 ^ (8 * (i + 1)) = 256 * 2 ^ (8 * i) := by rw [Nat.mul_succ, Nat.pow_add, Nat.mul_comm]
    rw [Function.comp_apply, hpow, Nat.div_div_eq_div_mul]

/-- Eight bytes from an aligned address are the register's word. -/
theorem State.bar0Bytes_word (fn : Nat) {a : Nat} (ha : a % 8 = 0) :
    s.bar0Bytes fn a 8 = leBytes 8 (s.bar0Word fn ((s.fn fn).ledgerLatch.getD s.ledgerNow) a) := by
  rw [leBytes_eq_map]
  refine List.map_congr_left fun i hi => ?_
  have hlt : i < 8 := List.mem_range.1 hi
  have hword : (a + i) / 8 * 8 = a := by omega
  have hbyte : (a + i) % 8 = i := by omega
  rw [hword, hbyte]

/-! A read that no latch answers, in its two steps. -/

/-- The ledger latch that a read at `a` sets or ends (R770). -/
def State.ledgerRead (s : State) (fn a : Nat) : State :=
  s.modFn fn (fun f => { f with ledgerLatch := if fn = 0 ∧ a = 0x400108 then some s.ledgerNow else f.keepLedger a })

/-- The read latch that a read of `k` bytes at `a` sets or ends (R738, R750). -/
def State.latchRead (s : State) (fn a k : Nat) : State := s.modFn fn (fun f => { f with latch := s.latchAfter fn a k })

/-- LAST_VIOLATION cleared by its read (R782). -/
def State.violationRead (s : State) (f : Nat) : State := s.modFn f (fun x => { x with lastViolation := 0 })

/-- The completion of a read. -/
def State.completed (s : State) (bs : List Byte) : State := { s with out := { s.out with read := bs, poisoned := false } }

theorem State.readBar0_fresh {fn a k : Nat} (hgood : goodRead a k = true) (hlatch : (s.fn fn).latch = none)
    (hviolation : violationAt fn a = none) :
    s.readBar0 fn a k = ((s.ledgerRead fn a).latchRead fn a k).completed ((s.ledgerRead fn a).bar0Bytes fn a k) := by
  simp only [State.readBar0, hgood, hlatch, hviolation]
  rfl

theorem State.readBar0_violation {fn a k g : Nat} (hgood : goodRead a k = true) (hlatch : (s.fn fn).latch = none)
    (hviolation : violationAt fn a = some g) :
    s.readBar0 fn a k = (((s.ledgerRead fn a).latchRead fn a k).violationRead g).completed
      ((s.ledgerRead fn a).bar0Bytes fn a k) := by
  simp only [State.readBar0, hgood, hlatch, hviolation]
  rfl

theorem State.readBar0_latched {fn a : Nat} {bs : List Byte} (ha : a % 4 = 0) (hbs : bs.length = 4)
    (hlatch : (s.fn fn).latch = some { next := a, bytes := bs }) :
    s.readBar0 fn a 4 = (s.modFn fn (fun f => { f with latch := none, ledgerLatch := f.keepLedger a })).completed bs := by
  have hgood : goodRead a 4 = true := by simp [goodRead, ha]
  have hrest : bs.drop 4 = [] := List.drop_eq_nil_of_le hbs.le
  have htake : bs.take 4 = bs := List.take_of_length_le hbs.le
  simp only [State.readBar0, hgood, hlatch]
  simp [hbs, hrest, htake]
  rfl

/-! Which words a read finds: latches and completions do not enter into them. -/

/-- `t` is `s` but for latches and the completion of a read. -/
structure OnlyLatches (s t : State) : Prop where
  rest : t = { s with fns := t.fns, out := t.out }
  fn : ∀ g, t.fn g = { s.fn g with latch := (t.fn g).latch, ledgerLatch := (t.fn g).ledgerLatch }

theorem OnlyLatches.trans {t u : State} (h : OnlyLatches s t) (k : OnlyLatches t u) : OnlyLatches s u :=
  ⟨by rw [k.rest, h.rest], fun g => by rw [k.fn g, h.fn g]⟩

theorem State.modFn_onlyLatches (fn : Nat) {g : Function → Function}
    (hg : ∀ f, g f = { f with latch := (g f).latch, ledgerLatch := (g f).ledgerLatch }) : OnlyLatches s (s.modFn fn g) := by
  refine ⟨rfl, fun f => ?_⟩
  obtain h | h := s.fn_modFn_any fn g f
  · rw [h]
  · rw [h]
    exact hg _

theorem State.ledgerRead_onlyLatches (fn a : Nat) : OnlyLatches s (s.ledgerRead fn a) := s.modFn_onlyLatches fn fun _ => rfl
theorem State.latchRead_onlyLatches (fn a k : Nat) : OnlyLatches s (s.latchRead fn a k) := s.modFn_onlyLatches fn fun _ => rfl

@[simp] theorem State.length_ledgerRead (fn a : Nat) : (s.ledgerRead fn a).fns.length = s.fns.length := List.length_set
@[simp] theorem State.length_latchRead (fn a k : Nat) : (s.latchRead fn a k).fns.length = s.fns.length := List.length_set


theorem State.fn_latchRead {fn a : Nat} (h : fn < s.fns.length) (k : Nat) :
    (s.latchRead fn a k).fn fn = { s.fn fn with latch := s.latchAfter fn a k } := s.fn_modFn fn _ h

theorem State.fn_ledgerRead_other {fn g : Nat} (h : g ≠ fn) (a : Nat) : (s.ledgerRead fn a).fn g = s.fn g :=
  s.fn_modFn_other fn g _ h
theorem State.fn_latchRead_other {fn g : Nat} (h : g ≠ fn) (a k : Nat) : (s.latchRead fn a k).fn g = s.fn g :=
  s.fn_modFn_other fn g _ h


theorem OnlyLatches.fn_violationRead {t : State} (h : OnlyLatches s t) (f g : Nat) :
    (t.violationRead f).fn g = { s.fn g with
      latch := ((t.violationRead f).fn g).latch, ledgerLatch := ((t.violationRead f).fn g).ledgerLatch
      lastViolation := ((t.violationRead f).fn g).lastViolation } := by
  obtain hg | hg := t.fn_modFn_any f (fun x => { x with lastViolation := 0 }) g
  · rw [State.violationRead, hg, h.fn g]
  · rw [State.violationRead, hg, h.fn g]

theorem OnlyLatches.deviceWord {t : State} (h : OnlyLatches s t) (o : Nat) : t.deviceWord o = s.deviceWord o := by
  have hring : (t.fn 0).ringWord = (s.fn 0).ringWord := by rw [h.fn 0]; rfl
  have hevents : (t.fn 0).events = (s.fn 0).events := by rw [h.fn 0]
  have hwindow : (t.fn 0).window = (s.fn 0).window := by rw [h.fn 0]; rfl
  unfold State.deviceWord
  rw [hring, hevents, hwindow, h.rest]
  rfl

theorem OnlyLatches.partWord {t : State} (h : OnlyLatches s t) (p o : Nat) : t.partWord p o = s.partWord p o := by
  have hring : (t.fn (p + 1)).ringWord = (s.fn (p + 1)).ringWord := by rw [h.fn (p + 1)]; rfl
  have hevents : (t.fn (p + 1)).events = (s.fn (p + 1)).events := by rw [h.fn (p + 1)]
  have hwindow : (t.fn (p + 1)).window = (s.fn (p + 1)).window := by rw [h.fn (p + 1)]; rfl
  unfold State.partWord
  dsimp only
  rw [hring, hevents, hwindow, h.rest]
  rfl

theorem OnlyLatches.bar0Word {t : State} (h : OnlyLatches s t) (fn : Nat) (l : LedgerLatch) (a : Nat) :
    t.bar0Word fn l a = s.bar0Word fn l a := by
  have hans : t.registersAnswer = s.registersAnswer := by rw [h.rest]; rfl
  have hledger : t.ledgerWord l (a - 0x400000) = s.ledgerWord l (a - 0x400000) := by rw [h.rest]; rfl
  unfold State.bar0Word
  rw [hans, hledger, h.deviceWord]
  simp only [h.partWord]

/-- What is latched for the rest of the ledger's registers is all that the bytes of BAR0 see of a function's latches. -/
theorem OnlyLatches.bar0Bytes {t : State} (h : OnlyLatches s t) {fn : Nat} (hlatch : (t.fn fn).ledgerLatch = (s.fn fn).ledgerLatch)
    (a k : Nat) : t.bar0Bytes fn a k = s.bar0Bytes fn a k := by
  have hnow : t.ledgerNow = s.ledgerNow := by rw [h.rest]; rfl
  unfold State.bar0Bytes
  simp only [hlatch, hnow, h.bar0Word]

/-! LAST_VIOLATION (R782). -/

theorem State.bar0Word_lastViolation {fn blk f : Nat} (hans : s.registersAnswer = true) (howner : blockOwner fn blk = some f)
    (hf : f < 17) (l : LedgerLatch) : s.bar0Word fn l (violationAddress blk) = (s.fn f).lastViolation := by
  unfold blockOwner at howner
  unfold State.bar0Word violationAddress
  rw [hans]
  split at howner
  next hblk =>
    obtain ⟨rfl, rfl⟩ : fn = 0 ∧ 0 = f := by simpa [Option.ite_none_right_eq_some] using howner
    subst hblk
    rfl
  next hblk =>
    obtain ⟨hfn, rfl⟩ : (fn = 0 ∨ blk + 1 = fn) ∧ blk + 1 = f := by simpa [Option.ite_none_right_eq_some] using howner
    rw [if_neg hblk, blockAt_block (by omega) (by decide)]
    change (if fn = 0 ∨ fn = blk + 1 then s.partWord blk 0x2B0 else 0) = _
    exact if_pos (by omega)

theorem violationAddress_aligned (blk : Nat) : violationAddress blk % 8 = 0 := by
  unfold violationAddress blockBase
  split <;> omega

theorem violationAt_violationAddress {fn blk f : Nat} (howner : blockOwner fn blk = some f) (hf : f < 17) :
    violationAt fn (violationAddress blk) = some f := by
  unfold blockOwner at howner
  unfold violationAt violationAddress
  split at howner
  next hblk =>
    obtain ⟨rfl, rfl⟩ : fn = 0 ∧ 0 = f := by simpa [Option.ite_none_right_eq_some] using howner
    subst hblk
    rfl
  next hblk =>
    obtain ⟨hfn, rfl⟩ : (fn = 0 ∨ blk + 1 = fn) ∧ blk + 1 = f := by simpa [Option.ite_none_right_eq_some] using howner
    rw [if_neg hblk, if_neg (by unfold blockBase; omega), blockAt_block (by omega) (by decide)]
    exact if_pos ⟨rfl, by omega⟩

theorem goodRead_word {a : Nat} (ha : a % 8 = 0) : goodRead a 8 = true := by simp [goodRead, ha]

theorem State.bar0Word_ledgerNext (hans : s.registersAnswer = true) (l : LedgerLatch) :
    s.bar0Word 0 l 0x400108 = s.ledger.nextSeq := by
  unfold State.bar0Word
  rw [hans]
  rfl

/-- Settles O30: each read is `readBar0_fresh`, `readBar0_violation` or `readBar0_latched`; which words hold a register of more
than 32 bits is `halvesLatch` (assumption 95). -/
theorem latchingReads : Obligations.LatchingReads := by
  have hheld (s : State) (hwf : s.wf = true) : 0 < s.fns.length := by rw [s.wf_fns hwf]; decide
  refine ⟨fun s fn blk f hwf howner hf hfn hans hlatch _ => ?_, fun s hwf hans hlatch => ?_,
    fun s off k w hwf hans hlatch hkw hk hwidth hoff hhalves hviolation hnext => ?_, fun s fn off bs hwf hfn hoff hbs hlatch => ?_⟩
  · have haddr := violationAddress_aligned blk
    have hread := State.readBar0_violation (goodRead_word haddr) hlatch (violationAt_violationAddress howner hf)
    have honly := (s.ledgerRead_onlyLatches fn (violationAddress blk)).trans (State.latchRead_onlyLatches fn (violationAddress blk) 8)
    refine ⟨_, congrArg Host.Outcome.next hread, rfl, ?_, ?_, fun g => ?_⟩
    · rw [State.bar0Bytes_word fn haddr, State.bar0Word_lastViolation (by exact hans) howner hf,
        (s.ledgerRead_onlyLatches fn (violationAddress blk)).fn f]
      rfl
    · have hheld : f < ((s.ledgerRead fn (violationAddress blk)).latchRead fn (violationAddress blk) 8).fns.length := by
        rw [State.length_latchRead, State.length_ledgerRead, s.wf_fns hwf]
        exact hf
      exact congrArg Function.lastViolation (State.fn_modFn _ f (fun x => { x with lastViolation := 0 }) hheld)
    · exact honly.fn_violationRead f g
  · have hread := State.readBar0_fresh (k := 8) (goodRead_word (by decide)) hlatch (show violationAt 0 0x400108 = none from rfl)
    refine ⟨_, congrArg Host.Outcome.next hread, ?_, ?_, rfl, fun g hg => ?_⟩
    · refine (State.bar0Bytes_word 0 (by decide)).trans (congrArg (leBytes 8) ?_)
      exact State.bar0Word_ledgerNext (s := s.ledgerRead 0 0x400108) hans _
    · exact (congrArg Function.ledgerLatch (State.fn_latchRead (by rw [State.length_ledgerRead]; exact hheld s hwf) 8)).trans
        (congrArg Function.ledgerLatch (s.fn_modFn 0 _ (hheld s hwf)))
    · exact (State.fn_latchRead_other hg _ 8).trans (State.fn_ledgerRead_other hg _)
  · have hgood : goodRead off k = true := by obtain rfl | rfl := hk <;> simp [goodRead] <;> omega
    have hread := State.readBar0_fresh hgood hlatch hviolation
    have hlen : 0 < (s.ledgerRead 0 off).fns.length := by rw [State.length_ledgerRead]; exact hheld s hwf
    have hfn := State.fn_latchRead (a := off) hlen k
    have hledger : (((s.ledgerRead 0 off).latchRead 0 off k).fn 0).ledgerLatch = ((s.ledgerRead 0 off).fn 0).ledgerLatch := by rw [hfn]
    have hbytes := (State.latchRead_onlyLatches 0 off k).bar0Bytes hledger
    refine ⟨_, congrArg Host.Outcome.next hread, ?_, (hbytes off k).symm, rfl⟩
    refine (congrArg Function.latch hfn).trans ?_
    change State.latchAfter _ 0 off k = _
    rw [State.latchAfter, hwidth, if_pos ⟨hkw, Decidable.not_or_of_imp hhalves⟩, ← hbytes]
    rfl
  · have hheld : fn < s.fns.length := by rw [s.wf_fns hwf]; exact hfn
    refine ⟨_, congrArg Host.Outcome.next (State.readBar0_latched hoff hbs hlatch), rfl, ?_, rfl⟩
    exact congrArg Function.latch (s.fn_modFn fn (fun f => { f with latch := none, ledgerLatch := f.keepLedger off }) hheld)

end Sys2Proof.Machine
end

