-- ==== Sys2Proof/Proofs/EventTimers.lean ====
section
/-! Vectors, moderation, the second and the end of a slew (R725, R732, R77): what sending leaves, and the one function that
each step of the end of a second touches. -/

namespace Sys2Proof.Machine

variable {s : State} {fn : Nat}

theorem State.length_modFn (i : Nat) (g : Function → Function) : (s.modFn i g).fns.length = s.fns.length := List.length_set

/-! Messages sent (R732). -/

@[simp] theorem EventQueue.spaced_spaced (q : EventQueue) (now : Nat) : (q.spaced now).spaced now = q.spaced now := rfl

theorem State.signal_sent {v : Nat} (hfunction : (s.fn fn).functionMask = false) (hvector : v ∉ (s.fn fn).masked) :
    s.signal fn v = { s with out := { s.out with messages := (fn, v) :: s.out.messages } } := if_neg (by simp [hfunction, hvector])

/-- The function whose event vector is among those sent begins a moderation interval. -/
def Function.sentBy (now : Nat) (vs : List Nat) (f : Function) : Function :=
  { f with events := if 1 ∈ vs then f.events.spaced now else f.events }

/-- The messages of the vectors `vs` sent one after another. -/
def State.sentFrom (s : State) (fn : Nat) (vs : List Nat) : State :=
  { s.modFn fn (Function.sentBy s.clock.timebase vs) with
    out := { s.out with messages := (vs.map (fun v => (fn, v))).reverse ++ s.out.messages } }

theorem State.fn_sentFrom (hfn : fn < s.fns.length) (vs : List Nat) :
    (s.sentFrom fn vs).fn fn = (s.fn fn).sentBy s.clock.timebase vs := s.fn_modFn fn _ hfn

theorem State.fn_sentFrom_other {g : Nat} (h : g ≠ fn) (vs : List Nat) : (s.sentFrom fn vs).fn g = s.fn g :=
  s.fn_modFn_other fn g _ h

theorem Function.sentBy_cons (now v : Nat) (vs : List Nat) (f : Function) :
    (f.sentBy now [v]).sentBy now vs = f.sentBy now (v :: vs) := by
  by_cases hv : 1 = v <;> by_cases hvs : 1 ∈ vs <;> simp [Function.sentBy, hv, hvs]

theorem State.sentFrom_cons (hfn : fn < s.fns.length) (v : Nat) (vs : List Nat) :
    (s.sentFrom fn [v]).sentFrom fn vs = s.sentFrom fn (v :: vs) := by
  have hfns : (s.sentFrom fn [v]).fns.set fn (((s.sentFrom fn [v]).fn fn).sentBy s.clock.timebase vs)
      = s.fns.set fn ((s.fn fn).sentBy s.clock.timebase (v :: vs)) := by
    rw [State.fn_sentFrom hfn, Function.sentBy_cons]
    exact List.set_set ..
  have hmessages : (vs.map (fun v => (fn, v))).reverse ++ ((fn, v) :: s.out.messages)
      = ((v :: vs).map (fun v => (fn, v))).reverse ++ s.out.messages := by simp
  change ({ s with
    fns := (s.sentFrom fn [v]).fns.set fn (((s.sentFrom fn [v]).fn fn).sentBy s.clock.timebase vs)
    out := { s.out with messages := (vs.map (fun v => (fn, v))).reverse ++ ((fn, v) :: s.out.messages) } } : State) = _
  rw [hfns, hmessages]
  rfl

theorem State.sendPending_sent {v : Nat} (hfn : fn < s.fns.length) (hfunction : (s.fn fn).functionMask = false)
    (hvector : v ∉ (s.fn fn).masked) : s.sendPending fn v = s.sentFrom fn [v] := by
  unfold State.sendPending
  split
  next h =>
    subst h
    rw [State.signal_sent]
    · rfl
    · rw [s.fn_modFn fn _ hfn]; exact hfunction
    · rw [s.fn_modFn fn _ hfn]; exact hvector
  next h =>
    have hsame : s.modFn fn (Function.sentBy s.clock.timebase [v]) = s := by
      have hf : (s.fn fn).sentBy s.clock.timebase [v] = s.fn fn := by simp [Function.sentBy, Ne.symm h]
      rw [State.modFn, hf, s.setFn_fn]
    rw [State.signal_sent hfunction hvector, State.sentFrom, hsame]
    rfl

theorem State.foldl_sendPending {vs : List Nat} (hfn : fn < s.fns.length) (hfunction : (s.fn fn).functionMask = false)
    (hvectors : ∀ v ∈ vs, v ∉ (s.fn fn).masked) : vs.foldl (fun s v => s.sendPending fn v) s = s.sentFrom fn vs := by
  induction vs generalizing s with
  | nil =>
    have hsame : s.modFn fn (Function.sentBy s.clock.timebase []) = s := by
      have hf : (s.fn fn).sentBy s.clock.timebase [] = s.fn fn := by simp [Function.sentBy]
      rw [State.modFn, hf, s.setFn_fn]
    rw [State.sentFrom, hsame]
    rfl
  | cons v vs ih =>
    have hf := State.fn_sentFrom hfn [v]
    rw [List.foldl_cons, State.sendPending_sent hfn hfunction (hvectors v List.mem_cons_self), ih ?_ ?_ ?_, State.sentFrom_cons hfn]
    · exact (State.length_modFn fn _).symm ▸ hfn
    · rw [hf]; exact hfunction
    · rw [hf]; exact fun w hw => hvectors w (List.mem_cons_of_mem v hw)

/-! What a step on one function's event queue leaves alone. -/

theorem State.signal_fn_other {g : Nat} (h : g ≠ fn) (v : Nat) : (s.signal fn v).fn g = s.fn g := by
  unfold State.signal
  dsimp only
  split
  · exact s.fn_setFn_other fn g _ h
  · rfl

theorem State.signalEvents_fn_other {g : Nat} (h : g ≠ fn) : (s.signalEvents fn).fn g = s.fn g := by
  unfold State.signalEvents
  dsimp only
  split
  · split
    · exact s.fn_modFn_other fn g _ h
    · exact (State.signal_fn_other h 1).trans (s.fn_modFn_other fn g _ h)
  · exact (State.signal_fn_other h 1).trans (s.fn_modFn_other fn g _ h)

theorem State.announce_fn_other {g : Nat} (h : g ≠ fn) (tail : Nat) : (s.announce fn tail).fn g = s.fn g := by
  unfold State.announce
  split
  · rfl
  · exact State.signalEvents_fn_other h

theorem State.writeEvent_fn_other {g : Nat} (h : g ≠ fn) (seq : Nat) (e : Event) : (s.writeEvent fn seq e).fn g = s.fn g := by
  unfold State.writeEvent
  extract_lets q t u v
  have hv : v.fn g = s.fn g := u.fn_modFn_other fn g _ h
  split
  next hcritical =>
    have hdevice : fn = 0 := of_decide_eq_true (Bool.and_elim_left hcritical)
    exact (State.signal_fn_other (hdevice ▸ h) 2).trans hv
  next => exact hv

theorem State.flushLost_fn_other {g : Nat} (h : g ≠ fn) : (s.flushLost fn).fn g = s.fn g := by
  unfold State.flushLost
  dsimp only
  split
  · exact (State.writeEvent_fn_other h _ _).trans (s.fn_modFn_other fn g _ h)
  · rfl

/-! Rate counts and drop counts: messages and written records leave them, EVENTS_LOST clears the drop counts. -/

/-- The counts behind the limit of a second and behind EVENTS_LOST. -/
def EventQueue.counts (q : EventQueue) : List (Nat × Nat) × Nat × Nat := (q.rate, q.lostFull, q.lostRate)

theorem State.modFn_counts (i : Nat) (k : Function → Function) (g : Nat) (hk : ∀ f, (k f).events.counts = f.events.counts) :
    ((s.modFn i k).fn g).events.counts = (s.fn g).events.counts := by
  obtain h | h := s.fn_modFn_any i k g
  · rw [h]
  · rw [h, hk]

theorem State.signal_counts (v g : Nat) : ((s.signal fn v).fn g).events.counts = (s.fn g).events.counts := by
  unfold State.signal
  dsimp only
  split
  · exact s.modFn_counts fn (fun f => { f with
      pendingBits := if f.pendingBits.contains v then f.pendingBits else v :: f.pendingBits }) g fun _ => rfl
  · rfl

theorem State.signalEvents_counts (g : Nat) : ((s.signalEvents fn).fn g).events.counts = (s.fn g).events.counts := by
  have hspaced (f : Function) : (if f.functionMask || f.masked.contains 1 then { f.events with moderated := none }
      else f.events.spaced s.clock.timebase).counts = f.events.counts := by split <;> rfl
  unfold State.signalEvents
  dsimp only
  split
  · split
    · exact s.modFn_counts fn _ g fun _ => rfl
    · exact (State.signal_counts 1 g).trans (s.modFn_counts fn _ g hspaced)
  · exact (State.signal_counts 1 g).trans (s.modFn_counts fn _ g hspaced)

theorem State.announce_counts (tail g : Nat) : ((s.announce fn tail).fn g).events.counts = (s.fn g).events.counts := by
  unfold State.announce
  split
  · rfl
  · exact State.signalEvents_counts g

theorem State.writeEvent_counts (seq : Nat) (e : Event) (g : Nat) :
    ((s.writeEvent fn seq e).fn g).events.counts = (s.fn g).events.counts := by
  unfold State.writeEvent
  extract_lets q t u v
  have hv : (v.fn g).events.counts = (s.fn g).events.counts := u.modFn_counts fn _ g fun _ => rfl
  split
  · exact (State.signal_counts 2 g).trans hv
  · exact hv

/-- EVENTS_LOST is written where drops are counted and an entry is free, and clears their counts (R722). -/
theorem State.flushLost_counts (hfn : fn < s.fns.length) : ((s.flushLost fn).fn fn).events.counts =
    if (s.fn fn).events.enable = true ∧ (s.fn fn).events.full = false then ((s.fn fn).events.rate, 0, 0)
    else (s.fn fn).events.counts := by
  unfold State.flushLost
  dsimp only
  split
  next h =>
    simp only [Bool.and_eq_true, Bool.not_eq_true'] at h
    rw [if_pos h.1, State.writeEvent_counts, s.fn_modFn fn _ hfn]
    rfl
  next h =>
    split
    next hfree =>
      have hnone : (s.fn fn).events.lostFull = 0 ∧ (s.fn fn).events.lostRate = 0 := by simpa [hfree] using h
      rw [EventQueue.counts, hnone.1, hnone.2]
    next => rfl

/-! The end of a second, function by function (R722, R725). -/

/-- A fold of steps that each change the part of their own number alone: what a step does to its part holds behind the fold. -/
theorem foldl_relates {α : Type} {f : State → Nat → State} {read : State → Nat → α} {R : α → α → Prop} {ok : State → Prop}
    {xs : List Nat} (hn : xs.Nodup) (hok : ∀ u p, ok u → ok (f u p)) (hself : ∀ u, ∀ p ∈ xs, ok u → R (read u p) (read (f u p) p))
    (hother : ∀ u p q, q ≠ p → read (f u p) q = read u q) {s : State} (h : ok s) {q : Nat} (hq : q ∈ xs) :
    R (read s q) (read (xs.foldl f s) q) := by
  have hkeeps (ys : List Nat) (u : State) (hy : q ∉ ys) : read (ys.foldl f u) q = read u q := by
    induction ys generalizing u with
    | nil => rfl
    | cons p ys ih =>
      rw [List.foldl_cons, ih _ fun hmem => hy (List.mem_cons_of_mem p hmem), hother u p q fun heq => hy (heq ▸ List.mem_cons_self)]
  induction xs generalizing s with
  | nil => exact absurd hq List.not_mem_nil
  | cons p xs ih =>
    obtain ⟨hp, hn⟩ := List.nodup_cons.1 hn
    rw [List.foldl_cons]
    obtain rfl | hq := List.mem_cons.1 hq
    · rw [hkeeps xs _ hp]
      exact hself s q List.mem_cons_self h
    · rw [← hother s p q fun heq => hp (heq ▸ hq)]
      exact ih hn (fun u x hx => hself u x (List.mem_cons_of_mem p hx)) (hok s p h) hq

/-- Once a second begins anew for what happens at most once a second (R725). -/
def State.newSecond (s : State) : State := { s with dev := { s.dev with onceThisSecond := [] } }

/-- What the end of a second does with the queue of function `f`. -/
def State.secondEnds (s : State) (f : Nat) : State :=
  ((s.modFn f (fun x => { x with events := { x.events with rate := [] } })).flushLost f).announce f (s.fn f).events.tail

theorem State.secondEnds_onlyEvents (f : Nat) : OnlyEvents s (s.secondEnds f) :=
  ((s.modFn_onlyEvents f _ fun _ => rfl).trans (State.flushLost_onlyEvents _ f)).trans (State.announce_onlyEvents _ f _)

theorem State.secondEnds_fn_other {g : Nat} (h : g ≠ fn) : (s.secondEnds fn).fn g = s.fn g :=
  (State.announce_fn_other h _).trans ((State.flushLost_fn_other h).trans (s.fn_modFn_other fn g _ h))

/-- The counts of a function's queue behind the end of a second. -/
structure Function.SecondEnded (x y : Function) : Prop where
  rate : y.events.rate = []
  losses : x.events.enable = true → x.events.full = false → y.events.lostFull = 0 ∧ y.events.lostRate = 0

theorem State.secondEnds_self (hfn : fn < s.fns.length) : (s.fn fn).SecondEnded ((s.secondEnds fn).fn fn) := by
  have hheld : fn < (s.modFn fn (fun x => { x with events := { x.events with rate := [] } })).fns.length := by
    rw [State.length_modFn]
    exact hfn
  have hcounts : ((s.secondEnds fn).fn fn).events.counts =
      if (s.fn fn).events.enable = true ∧ (s.fn fn).events.full = false then ([], 0, 0)
      else ([], (s.fn fn).events.lostFull, (s.fn fn).events.lostRate) := by
    rw [State.secondEnds, State.announce_counts, State.flushLost_counts hheld, s.fn_modFn fn _ hfn]
    rfl
  have hrate := congrArg Prod.fst hcounts
  have hlost := congrArg Prod.snd hcounts
  refine ⟨?_, fun henable hfull => ?_⟩
  · split at hrate <;> exact hrate
  · rw [if_pos ⟨henable, hfull⟩] at hlost
    exact ⟨congrArg Prod.fst hlost, congrArg Prod.snd hlost⟩

theorem State.foldl_secondEnds_onlyEvents (xs : List Nat) : OnlyEvents s (xs.foldl State.secondEnds s) := by
  induction xs generalizing s with
  | nil => exact .refl s
  | cons f xs ih => exact (s.secondEnds_onlyEvents f).trans ih

theorem State.secondEnds_wf (f : Nat) (h : s.wf = true) : (s.secondEnds f).wf = true :=
  State.announce_kept (K := .sound) _ _ (State.flushLost_kept _ (s.modFn_kept_rfl f _ h fun _ => ⟨rfl, rfl, rfl⟩))

theorem State.foldl_secondEnds_fn (hwf : s.wf = true) {f : Nat} (hf : f < 17) :
    (s.fn f).SecondEnded (((List.range 17).foldl State.secondEnds s).fn f) := by
  refine foldl_relates (f := State.secondEnds) (read := State.fn) (R := Function.SecondEnded) (ok := fun u => u.wf = true)
    List.nodup_range (fun u p hu => u.secondEnds_wf p hu) (fun u p hp hu => State.secondEnds_self ?_)
    (fun u p q hq => State.secondEnds_fn_other hq) hwf (List.mem_range.2 hf)
  rw [u.wf_fns hu]
  exact List.mem_range.1 hp

theorem State.raiseWrap_none {c : Nat} (h : (s.counters c).wrapped = 0) : s.raiseWrap c = s := if_pos h

theorem State.foldl_raiseWrap_none (xs : List Nat) (h : ∀ c ∈ xs, (s.counters c).wrapped = 0) :
    xs.foldl (fun s c => s.raiseWrap c) s = s := by
  induction xs with
  | nil => rfl
  | cons c xs ih =>
    rw [List.foldl_cons, State.raiseWrap_none (h c List.mem_cons_self)]
    exact ih fun d hd => h d (List.mem_cons_of_mem c hd)

theorem exec_eventSecondEnd (hgood : s.board.good = true) (hsecond : s.clock.timebase % 100000000 = 0)
    (hwrapped : ∀ c, c < 256 → (s.counters c).wrapped = 0) : exec .eventSecondEnd s =
      .next ((List.range 17).foldl State.secondEnds s.newSecond) := by
  have honly := State.foldl_secondEnds_onlyEvents (s := s.newSecond) (List.range 17)
  refine (if_neg (by simp [hgood, hsecond])).trans (congrArg Host.Outcome.next (State.foldl_raiseWrap_none _ fun c hc => ?_))
  have hcounters : ((List.range 17).foldl State.secondEnds s.newSecond).counters c
      = s.counters c := by rw [honly.rest]; rfl
  exact (congrArg CoreCounters.wrapped hcounters).trans (hwrapped c (List.mem_range.1 hc))

/-! Moderation (R732). -/

theorem State.signalEvents_sent (hfn : fn < s.fns.length) (hfree : (s.fn fn).events.moderated = none)
    (hfunction : (s.fn fn).functionMask = false) (hvector : 1 ∉ (s.fn fn).masked) : s.signalEvents fn = s.sentFrom fn [1] := by
  have hmod : s.modFn fn (fun f => { f with events :=
      if f.functionMask || f.masked.contains 1 then { f.events with moderated := none } else f.events.spaced s.clock.timebase })
      = s.modFn fn (Function.sentBy s.clock.timebase [1]) :=
    State.modFn_congr (by simp [Function.sentBy, hfunction, hvector])
  have hf := s.fn_modFn fn (Function.sentBy s.clock.timebase [1]) hfn
  unfold State.signalEvents
  dsimp only
  rw [hfree, hmod]
  exact State.signal_sent (by rw [hf]; exact hfunction) (by rw [hf]; exact hvector)

/-- A queue at the end of its moderation interval. -/
def Function.rested (f : Function) : Function := { f with events := { f.events with moderated := none, owed := false } }

theorem exec_msixModerationExpiry {e : Nat} (he : (s.fn fn).events.moderated = some e) (hend : e ≤ s.clock.timebase) :
    exec (.msixModerationExpiry fn) s = .next (if (s.fn fn).events.owed = true then (s.modFn fn Function.rested).signalEvents fn
      else s.modFn fn Function.rested) := by
  simp only [exec, execMsixModerationExpiry, he, if_neg (Nat.not_lt.2 hend)]
  rfl

/-! Masks cleared (R732). -/

/-- A vector unmasked whose message was pending. -/
def Function.release (v : Nat) (f : Function) : Function :=
  { f with masked := f.masked.filter (· != v), pendingBits := f.pendingBits.filter (· != v) }

/-- The function mask cleared, with the messages of masked vectors left pending. -/
def Function.open_ (f : Function) : Function :=
  { f with functionMask := false, pendingBits := f.pendingBits.filter (fun v => f.masked.contains v) }

/-- The vectors whose messages leave with the function mask. -/
def Function.waiting (f : Function) : List Nat := f.pendingBits.filter (fun v => !f.masked.contains v)

theorem State.unmask_pending {v : Nat} (hfn : fn < s.fns.length) (hpending : v ∈ (s.fn fn).pendingBits)
    (hfunction : (s.fn fn).functionMask = false) : s.unmask fn v = (s.modFn fn (Function.release v)).sentFrom fn [v] := by
  have hf := s.fn_modFn fn (Function.release v) hfn
  have hlen : fn < (s.modFn fn (Function.release v)).fns.length := by rw [State.length_modFn]; exact hfn
  have hmods : (s.modFn fn (fun f => { f with masked := f.masked.filter (· != v) })).modFn fn
      (fun f => { f with pendingBits := f.pendingBits.filter (· != v) }) = s.modFn fn (Function.release v) := s.modFn_modFn hfn _ _
  have hsent : (s.modFn fn (Function.release v)).sendPending fn v = (s.modFn fn (Function.release v)).sentFrom fn [v] :=
    State.sendPending_sent hlen (by rw [hf]; exact hfunction) (by rw [hf]; simp [Function.release])
  rw [← hsent, ← hmods]
  exact if_pos (by simp [hpending, hfunction])

theorem State.unmask_idle {v : Nat} (h : ¬ (v ∈ (s.fn fn).pendingBits ∧ (s.fn fn).functionMask = false)) :
    s.unmask fn v = s.modFn fn (fun f => { f with masked := f.masked.filter (· != v) }) := if_neg (by simpa using h)

theorem State.unmaskFunction_eq (hfn : fn < s.fns.length) :
    s.unmaskFunction fn = (s.modFn fn Function.open_).sentFrom fn (s.fn fn).waiting := by
  have hf := s.fn_modFn fn Function.open_ hfn
  refine State.foldl_sendPending (s := s.modFn fn Function.open_) ?_ ?_ fun v hv => ?_
  · rw [State.length_modFn]; exact hfn
  · rw [hf]; rfl
  · rw [hf]
    have hunmasked : v ∉ (s.fn fn).masked := by simpa using (List.mem_filter.1 hv).2
    exact hunmasked

/-- Settles O58: `sentFrom` is what an unmasked vector or function sends, and a message of the event vector so sent begins a
moderation interval (assumption 19); the second ends queue by queue. -/
theorem eventTimers : Obligations.EventTimers := by
  have hheld (s : State) (fn : Nat) (hwf : s.wf = true) (hfn : fn < 17) : fn < s.fns.length := by rw [s.wf_fns hwf]; exact hfn
  refine ⟨fun s fn v hwf hfn => ?_, fun s fn hwf hfn => ?_, fun s fn e hwf hfn he => ⟨fun h => ?_, fun h ho => ?_, fun h ho hm hf => ?_⟩,
    fun s hwf hgood hsecond hwrapped => ?_,
    fun s h => congrArg Host.Outcome.next (if_pos h)⟩
  · have hlen := hheld s fn hwf hfn
    by_cases hpending : v ∈ (s.fn fn).pendingBits ∧ (s.fn fn).functionMask = false
    · refine ⟨_, congrArg Host.Outcome.next (State.unmask_pending hlen hpending.1 hpending.2), rfl, fun g hg => ?_, ?_⟩
      · exact (State.fn_sentFrom_other hg _).trans (s.fn_modFn_other fn g _ hg)
      · rw [if_pos hpending]
        refine ⟨rfl, (State.fn_sentFrom ?_ [v]).trans ?_⟩
        · rw [State.length_modFn]; exact hlen
        · rw [s.fn_modFn fn _ hlen]
          simp [Function.sentBy, Function.release, eq_comm]
    · refine ⟨_, congrArg Host.Outcome.next (State.unmask_idle hpending), rfl, fun g hg => s.fn_modFn_other fn g _ hg, ?_⟩
      rw [if_neg hpending]
      exact ⟨rfl, s.fn_modFn fn _ hlen⟩
  · have hlen := hheld s fn hwf hfn
    refine ⟨_, congrArg Host.Outcome.next (State.unmaskFunction_eq hlen), rfl, fun g hg => ?_, rfl, (State.fn_sentFrom ?_ _).trans ?_⟩
    · exact (State.fn_sentFrom_other hg _).trans (s.fn_modFn_other fn g _ hg)
    · rw [State.length_modFn]; exact hlen
    · rw [s.fn_modFn fn _ hlen]
      rfl
  · simp only [exec, execMsixModerationExpiry, he, h, if_true]
  · rw [exec_msixModerationExpiry he h, if_neg (by simp [ho])]
    rfl
  · have hlen := hheld s fn hwf hfn
    have hrested := s.fn_modFn fn Function.rested hlen
    have hlen' : fn < (s.modFn fn Function.rested).fns.length := by rw [State.length_modFn]; exact hlen
    have hsent := State.signalEvents_sent hlen' (by rw [hrested]; rfl) (by rw [hrested]; exact hf) (by rw [hrested]; exact hm)
    rw [exec_msixModerationExpiry he h, if_pos ho]
    refine ⟨_, rfl, ?_, ?_, (s.modFn_onlyEvents fn _ fun _ => rfl).trans (State.signalEvents_onlyEvents _ fn)⟩
    · rw [hsent]
      rfl
    · rw [hsent, State.fn_sentFrom hlen', hrested]
      rfl
  · have hended (f : Nat) (hf : f < 17) := State.foldl_secondEnds_fn (s := s.newSecond) hwf hf
    refine ⟨_, exec_eventSecondEnd hgood hsecond hwrapped, State.foldl_secondEnds_onlyEvents _, ?_, ?_⟩
    · exact fun f hf => (hended f hf).rate
    · exact fun f hf => (hended f hf).losses

end Sys2Proof.Machine
end

