-- ==== Sys2Proof/Proofs/DeviceReset.lean ====
section
/-! What a device reset, power-good and the end of PERST# leave (R697, R706 to R708, Table 21.5). -/

namespace Sys2Proof.Machine

variable {s : State}

/-- Partition `p` behind a reset: HBM contents stay where its training is kept, retired pages stay unmarked. -/
def State.resetPart (s : State) (cold : Bool) (p : Nat) : Part :=
  { leader := p
    hbm := if s.keepsTraining cold then (s.part p).hbm else {}
    unmarked := (s.dev.retired.filter (·.1 == p)).map (·.2) }

theorem State.part_bootReset (cold linkDown : Bool) {p : Nat} (hp : p < 16) :
    (s.bootReset cold linkDown).part p = s.resetPart cold p := by
  have hparts : (s.bootReset cold linkDown).parts = (List.range 16).map (s.resetPart cold) := rfl
  rw [State.part, hparts, List.getD_eq_getElem?_getD, List.getElem?_map, List.getElem?_range hp]
  rfl

/-- Settles O33: both resets are `bootReset`, whose fields are those of Table 21.5. The masks and pending bits that
`State.reset` gives are assumption 11, its ordering enables assumption 110; the link's generation and width at the end of PERST#
are assumption 14. -/
theorem deviceResetState : Obligations.DeviceResetState := by
  unfold Obligations.DeviceResetState
  intro after
  have hafter (s : State) (cold linkDown : Bool) : after s (s.bootReset cold linkDown) := by
    refine ⟨rfl, rfl, rfl, rfl, rfl, fun p hp => ?_, rfl, rfl, rfl, rfl, rfl, rfl, rfl, rfl, rfl, rfl, rfl, rfl, rfl, rfl, rfl, rfl,
      rfl, rfl⟩
    rw [State.part_bootReset cold linkDown hp]
    exact ⟨rfl, rfl, rfl, rfl, rfl, rfl, rfl⟩
  refine ⟨fun s linkDown hp => ⟨_, congrArg Host.Outcome.next (if_pos hp), hafter s false linkDown, fun hkeep htrained p hp16 => ?_⟩,
    fun s haux hgood => ⟨_, congrArg Host.Outcome.next (if_pos (by simp [haux, hgood])), hafter s true true, rfl⟩,
    fun s gen width hp hperst => congrArg Host.Outcome.next (if_pos (by simp [hp, hperst]))⟩
  rw [State.part_bootReset false linkDown hp16, State.resetPart, State.keepsTraining, hkeep, htrained]
  rfl

end Sys2Proof.Machine
end

