-- ==== Sys2Proof/Proofs/RestartCompletions.lean ====
section
/-! How restarts of the Chanter and partition resets end (R709 to R711). -/

namespace Sys2Proof.Machine

variable {s : State}

/-! The causes latched in a Breath, behind trains that stop for a restart (R711). -/

/-- Every train of `t` is in the Breath it was in, with the causes latched there, and the restart in progress is the same. -/
structure KeepsCauses (s t : State) : Prop where
  cause : t.dev.restartCause = s.dev.restartCause
  train : ∀ k, (t.train k).causes = (s.train k).causes ∧ (t.train k).breath = (s.train k).breath

theorem KeepsCauses.refl (s : State) : KeepsCauses s s := ⟨rfl, fun _ => ⟨rfl, rfl⟩⟩

theorem KeepsCauses.trans {t u : State} (h : KeepsCauses s t) (k : KeepsCauses t u) : KeepsCauses s u :=
  ⟨k.cause.trans h.cause, fun i => ⟨(k.train i).1.trans (h.train i).1, (k.train i).2.trans (h.train i).2⟩⟩

theorem KeepsCauses.foldl {f : State → Nat → State} (hf : ∀ u k, KeepsCauses u (f u k)) (xs : List Nat) : KeepsCauses s (xs.foldl f s) := by
  induction xs generalizing s with
  | nil => exact .refl s
  | cons k xs ih => exact (hf s k).trans ih

theorem State.modTrain_keepsCauses (s : State) (i : Nat) (g : Train → Train)
    (hg : ∀ x, (g x).causes = x.causes ∧ (g x).breath = x.breath) : KeepsCauses s (s.modTrain i g) := by
  refine ⟨rfl, fun k => ?_⟩
  obtain h | ⟨-, h⟩ := s.train_modTrain_any i g k
  · rw [h]
    exact ⟨rfl, rfl⟩
  · rw [h]
    exact hg _

theorem OnlyEvents.keepsCauses {t : State} (h : OnlyEvents s t) : KeepsCauses s t :=
  ⟨by rw [h.dev], fun k => by rw [h.rest]; exact ⟨rfl, rfl⟩⟩

theorem State.noteRestart_keepsCauses (s : State) : KeepsCauses s s.noteRestart := by
  unfold State.noteRestart
  split
  · exact KeepsCauses.trans (t := s.modDev _) ⟨rfl, fun _ => ⟨rfl, rfl⟩⟩ (State.raiseD_onlyEvents ..).keepsCauses
  · exact .refl s

theorem State.settle_keepsCauses (s : State) (t : Nat) : KeepsCauses s (s.settle t) := by
  unfold State.settle
  extract_lets x stop
  have hstop (h : Halt) : KeepsCauses s (stop h) := by
    refine .trans (s.modTrain_keepsCauses t _ ?_) (State.noteRestart_keepsCauses _)
    exact fun _ => ⟨rfl, rfl⟩
  (repeat' split) <;> simp only [hstop, KeepsCauses.refl, State.noteRestart_keepsCauses]

theorem State.restartTrains_keepsCauses (s : State) (cause : Nat) :
    KeepsCauses (s.modDev (fun d => { d with restartCause := cause })) (s.restartTrains cause) := by
  refine .trans (.foldl (fun u k => u.modTrain_keepsCauses k _ ?_) _) (State.noteRestart_keepsCauses _)
  exact fun _ => ⟨rfl, rfl⟩

/-- A train whose Breath is in progress when the watchdog elapses fails its seal with cause 15. -/
def Train.watchdogFails (x : Train) : Train :=
  if x.phase = .working ∨ x.phase = .sealing then { x with causes := Nat.lor x.causes 0x8000, core := 0xFFFF, unit := 0xFF } else x

/-- The state once the watchdog has stopped every train. -/
def State.watchdogStops (s : State) : State := (s.modActive Train.watchdogFails).restartTrains 2

theorem exec_chanterWatchdog (hp : s.powered = true) (hstate : s.dev.state = .ready) (hmember : s.consort.member = false) :
    exec .chanterWatchdog s = .next (s.watchdogStops.activeTrains.foldl (fun s t => s.settle t) s.watchdogStops) := by
  refine (if_neg (by simp [hp, hstate])).trans ?_
  simp only [hmember, Bool.false_eq_true, if_false]
  rfl

/-! The end of a reload (R710). -/

/-- A train that stopped for a restart runs again. -/
def Train.resumes (x : Train) : Train :=
  { x with halt := if x.halt = .restart then .none else x.halt, stopFor := if x.stopFor = .restart then .none else x.stopFor }

/-- The device is READY again, with no restart in progress. -/
def State.reloaded (s : State) : State := s.modDev (fun d => { d with state := .ready, restartCause := 0, kept := none })

theorem State.ringsEmpty_modActive (g : Train → Train) : (s.modActive g).ringsEmpty = s.ringsEmpty := by
  rw [s.modActive_rest g]
  rfl

theorem exec_chanterReloadComplete (hp : s.powered = true) (hstate : s.dev.state = .restarting) (hwork : s.dev.shutdownWork = none)
    (hempty : s.ringsEmpty = true) : exec .chanterReloadComplete s = .next (s.reloaded.modActive Train.resumes) := by
  have hreloaded : s.modDev (fun d => { d with
      state := if d.shutdownWork.isSome then .shuttingDown else .ready, restartCause := 0, kept := none }) = s.reloaded := by
    simp [State.reloaded, State.modDev, hwork]
  have hrings : (s.reloaded.modActive Train.resumes).ringsEmpty = true := (State.ringsEmpty_modActive _).trans hempty
  refine (if_neg (by simp [hp, hstate])).trans ?_
  rw [hreloaded]
  exact congrArg Host.Outcome.next (State.checkRings_empty _ hrings)

/-! The self-test of a partition reset (R709). -/

theorem State.selfTestFail_onlyEvents (row unit part : Nat) : OnlyEvents s (s.selfTestFail row unit part) := by
  unfold State.selfTestFail
  split
  · exact s.raiseO_onlyEvents ..
  · exact s.raiseD_onlyEvents ..

/-- A member whose core or fabric test failed, or that holds a failed channel. -/
def State.memberBad (s : State) (failing p : Nat) : Bool := bit failing p || (s.part p).channels.any (·.failed)

/-- A partition behind the self-test of its reset. -/
def Part.selfTested (bad : Bool) (x : Part) : Part :=
  if bad then { x with fault := if x.fault = 0 then 1 else x.fault, selfTestFailed := true }
  else { x with fault := if x.fault = 3 then 3 else 0, selfTestFailed := false }

theorem Part.selfTested_faulted (x : Part) : (x.selfTested true).fault ≠ 0 := by
  by_cases h : x.fault = 0 <;> simp [Part.selfTested, h]

/-- The self-test of member `p` ends; `s` is the state in which the test ended. -/
def State.memberTested (s : State) (failing : Nat) (u : State) (p : Nat) : State :=
  if s.memberBad failing p then
    (u.faultSelfTest p).selfTestFail (if bit failing p then 0 else 1)
      (if bit failing p then 0xFF else (u.part p).channels.findIdx (·.failed)) p
  else
    (u.modPart p (Part.selfTested false)).modDev (fun d => { d with
      selfTestPart := d.selfTestPart - (if bit d.selfTestPart p then 2 ^ p else 0) })

/-- The state once the self-test of the group of `p` has ended for each member. -/
def State.groupTested (s : State) (p failing : Nat) : State := (s.members p).foldl (s.memberTested failing) s

theorem exec_partitionSelfTestComplete {p : Nat} (failing : Nat) (hp : s.powered = true) (hstate : s.dev.state = .ready)
    (hhalt : (s.train p).halt = .reset) : exec (.partitionSelfTestComplete p failing) s =
      .next (((s.groupTested p failing).modTrain p (fun x => { x with halt := .none })).noteRestart.checkRings) := by
  refine (if_neg (by simp [hp, hstate, hhalt, State.beforeReady])).trans ?_
  rfl

/-- What the self-test of a member leaves beside its partition. -/
structure OnlyTested (s t : State) : Prop where
  parts : t.parts.length = s.parts.length
  trains : t.trains = s.trains
  cause : t.dev.restartCause = s.dev.restartCause
  rings : t.ringsEmpty = s.ringsEmpty

theorem OnlyTested.refl (s : State) : OnlyTested s s := ⟨rfl, rfl, rfl, rfl⟩

theorem OnlyTested.trans {t u : State} (h : OnlyTested s t) (k : OnlyTested t u) : OnlyTested s u :=
  ⟨k.parts.trans h.parts, k.trains.trans h.trains, k.cause.trans h.cause, k.rings.trans h.rings⟩

theorem OnlyEvents.onlyTested {t : State} (h : OnlyEvents s t) : OnlyTested s t :=
  ⟨congrArg List.length h.parts, h.trains, by rw [h.dev], State.ringsEmpty_of_onlyEvents h⟩

theorem State.memberTested_onlyTested (failing : Nat) (u : State) (p : Nat) : OnlyTested u (s.memberTested failing u p) := by
  unfold State.memberTested
  split
  · refine .trans (t := u.faultSelfTest p) ⟨List.length_set, rfl, rfl, rfl⟩ (State.selfTestFail_onlyEvents ..).onlyTested
  · exact ⟨List.length_set, rfl, rfl, rfl⟩

theorem State.part_memberTested {u : State} {p : Nat} (failing : Nat) (hp : p < u.parts.length) :
    (s.memberTested failing u p).part p = (u.part p).selfTested (s.memberBad failing p) := by
  unfold State.memberTested
  split
  next hbad =>
    rw [State.part, (State.selfTestFail_onlyEvents ..).parts, hbad]
    exact u.part_modPart p (Part.selfTested true) hp
  next hgood =>
    rw [Bool.eq_false_of_not_eq_true hgood]
    exact u.part_modPart p _ hp

theorem State.part_memberTested_other {u : State} {p q : Nat} (failing : Nat) (hq : q ≠ p) :
    (s.memberTested failing u p).part q = u.part q := by
  unfold State.memberTested
  split
  · rw [State.part, (State.selfTestFail_onlyEvents ..).parts]
    exact u.part_modPart_other p q (Part.selfTested true) hq
  · exact u.part_modPart_other p q _ hq

theorem State.noteRestart_idle (h : s.dev.restartCause = 0) : s.noteRestart = s := if_neg fun hrestart => hrestart.1 h

theorem State.groupTested_onlyTested (p failing : Nat) : OnlyTested s (s.groupTested p failing) := by
  have hfold (xs : List Nat) (u : State) : OnlyTested u (xs.foldl (s.memberTested failing) u) := by
    induction xs generalizing u with
    | nil => exact .refl u
    | cons q xs ih => exact (State.memberTested_onlyTested failing u q).trans (ih _)
  exact hfold _ s

theorem State.part_groupTested {p q : Nat} (failing : Nat) (hwf : s.wf = true) (hp : p < 16) (hsize : p + (s.part p).size ≤ 16)
    (hle : p ≤ q) (hlt : q < p + (s.part p).size) : (s.groupTested p failing).part q = (s.part q).selfTested (s.memberBad failing q) := by
  have hread := foldl_read (f := s.memberTested failing) (read := State.part) (g := fun q => Part.selfTested (s.memberBad failing q))
    (ok := fun u => u.parts.length = 16) (xs := s.members p) (s.nodup_members p)
    (fun u r _ hu => (State.memberTested_onlyTested failing u r).parts.trans hu)
    (fun u r hr hu => State.part_memberTested failing (by rw [hu]; have := (s.mem_members hp).1 hr; omega))
    (fun u r q hq => State.part_memberTested_other failing hq) (s.wf_parts hwf) q
  exact hread.trans (if_pos ((s.mem_members hp).2 ⟨hle, hlt⟩))

/-- Settles O36: the watchdog's cause stays behind the stops (`KeepsCauses`), the reload resumes train by train, and the
self-test ends member by member (`part_groupTested`). -/
theorem restartCompletions : Obligations.RestartCompletions := by
  refine ⟨fun s hwf hp hstate hmember => ?_, fun s hwf hp hstate hwork hempty => ?_,
    fun s p failing hwf hp hstate hcause hp16 hhalt hsize hempty => ?_⟩
  · have hl : s.trains.length = 17 := s.wf_trains hwf
    have hrestart := (s.modActive Train.watchdogFails).restartTrains_keepsCauses 2
    have hkeeps : KeepsCauses _ (s.watchdogStops.activeTrains.foldl (fun s t => s.settle t) s.watchdogStops) :=
      hrestart.trans (.foldl (fun u k => u.settle_keepsCauses k) _)
    refine ⟨_, exec_chanterWatchdog hp hstate hmember, hkeeps.cause, fun k hk hphase => ?_⟩
    have htrain : (s.modActive Train.watchdogFails).train k = (s.train k).watchdogFails := State.train_modActive_of_mem hl _ hk
    obtain ⟨hcauses, hbreath⟩ := hkeeps.train k
    rw [hcauses, hbreath]
    change ((s.modActive Train.watchdogFails).train k).causes = _ ∧ ((s.modActive Train.watchdogFails).train k).breath = _
    rw [htrain, Train.watchdogFails, if_pos hphase]
    exact ⟨rfl, rfl⟩
  · have hl : s.trains.length = 17 := s.wf_trains hwf
    have hrest := s.reloaded.modActive_rest Train.resumes
    refine ⟨_, exec_chanterReloadComplete hp hstate hwork hempty, ?_, fun k hk hhalt => ?_, ?_⟩
    · rw [hrest]
      rfl
    · have htrain : (s.reloaded.modActive Train.resumes).train k = (s.train k).resumes :=
        State.train_modActive_of_mem (s := s.reloaded) hl _ hk
      rw [htrain]
      exact ⟨if_pos hhalt, rfl⟩
    · rw [hrest]
      rfl
  · have htested := s.groupTested_onlyTested p failing
    have hheld : p < (s.groupTested p failing).trains.length := by rw [htested.trains, s.wf_trains hwf]; omega
    have hexec : exec (.partitionSelfTestComplete p failing) s =
        .next ((s.groupTested p failing).modTrain p (fun x => { x with halt := .none })) := by
      have hnone : ((s.groupTested p failing).modTrain p (fun x => { x with halt := .none })).dev.restartCause = 0 :=
        htested.cause.trans hcause
      have hrings : ((s.groupTested p failing).modTrain p (fun x => { x with halt := .none })).ringsEmpty = true :=
        (State.ringsEmpty_of_fns rfl).trans (htested.rings.trans hempty)
      rw [exec_partitionSelfTestComplete failing hp hstate hhalt]
      refine congrArg Host.Outcome.next ?_
      rw [State.noteRestart_idle hnone, State.checkRings_empty _ hrings]
    have htrain := (s.groupTested p failing).train_modTrain p (fun x => { x with halt := .none }) hheld
    refine ⟨_, hexec, ?_, fun q hle hlt hfail => ?_, fun q hle hlt hpass hchannels => ?_, ?_⟩
    · rw [htrain]
    · rw [State.modTrain_part_at, State.part_groupTested failing hwf hp16 hsize hle hlt,
        State.memberBad, hfail, Bool.true_or]
      exact Part.selfTested_faulted _
    · rw [State.modTrain_part_at, State.part_groupTested failing hwf hp16 hsize hle hlt]
      simp [State.memberBad, hpass, hchannels, Part.selfTested]
    · rw [htrain, State.train, htested.trains]
      rfl

end Sys2Proof.Machine
end

