-- ==== Sys2Proof/Proofs/StartUpPhases.lean ====
section
/-! The phases of a start-up (R694 to R705, Tables 21.1 to 21.3): boot attempts, self-test, the mount, and recovery. -/

namespace Sys2Proof.Machine

variable {s : State}

/-! Boot attempts and banks (R698, R699). -/

theorem State.bank_modBank {i : Nat} (h : i < s.dev.banks.length) (g : Bank → Bank) : (s.modBank i g).bank i = g (s.bank i) :=
  getD_modAt h g {}

theorem State.bank_modBank_other {i j : Nat} (h : j ≠ i) (g : Bank → Bank) : (s.modBank i g).bank j = s.bank j := by
  change (s.dev.banks.modify i g).getD j {} = s.dev.banks.getD j {}
  simp [List.getD_eq_getElem?_getD, h.symm]

/-- A failed attempt leads to another one or to FAILED. -/
theorem State.attemptFailed_state (s : State) (skipped : Bool) :
    (s.attemptFailed skipped).dev.state = .booting ∨ (s.attemptFailed skipped).dev.state = .failed := by
  obtain h | h | h := s.attemptFailed_cases skipped <;> rw [h]
  · exact .inr rfl
  · exact .inl rfl
  · exact .inl rfl

/-- A failed attempt is counted on the bank that was selected. -/
theorem State.attemptFailed_attempts (skipped : Bool) (hbanks : s.dev.banks.length = 2) (hselector : s.dev.selector < 2) :
    ((s.attemptFailed skipped).bank s.dev.selector).attempts = (s.bank s.dev.selector).attempts + 1 := by
  have hcounted : ((s.countAttempt skipped).bank s.dev.selector).attempts = (s.bank s.dev.selector).attempts + 1 :=
    congrArg Bank.attempts (State.bank_modBank (by omega) _)
  have hother : s.dev.selector ≠ 1 - s.dev.selector := by omega
  obtain h | h | h := s.attemptFailed_cases skipped <;> rw [h, ← hcounted]
  · rfl
  · rfl
  · exact congrArg Bank.attempts (State.bank_modBank_other (s := s.countAttempt skipped) hother _)

/-- The bank is selected and phase 2 begins (R695). -/
def State.bankChosen (s : State) : State :=
  (s.modDev (fun d => { d with phase1 := false, attemptStart := s.clock.timebase })).modBank s.dev.selector
    (fun k => { k with skipped := false })

theorem exec_powerAndRomComplete (hp : s.powered = true) (hstate : s.dev.state = .booting) (hphase : s.dev.phase1 = true)
    (hperst : s.board.perst = false) : exec .powerAndRomComplete s = .next (if s.bankSkipped s.dev.selector = true then
      (s.modDev (fun d => { d with phase1 := false, attemptStart := s.clock.timebase })).attemptFailed true else s.bankChosen) := by
  refine (if_neg (by simp [hp, hstate, hphase, hperst])).trans ?_
  exact (apply_ite Host.Outcome.next ..).symm

/-- The image is loaded and phase 3 begins (R689). -/
def State.imageLoaded (s : State) : State :=
  s.modDev (fun d => { d with state := .recovering, activeBank := d.selector, fallback := false })

theorem exec_imageCheckComplete (hp : s.powered = true) (hstate : s.dev.state = .booting) (hphase : s.dev.phase1 = false) :
    exec .imageCheckComplete s = .next (if s.bankSkipped s.dev.selector = true then s.attemptFailed true
      else if s.dev.fallback then s.imageLoaded.raiseD 0x0804 2 0xFF 0 [byte s.dev.selector] else s.imageLoaded) := by
  refine (if_neg (by simp [hp, hstate, hphase])).trans ?_
  exact (apply_ite Host.Outcome.next ..).symm

theorem State.imageLoaded_reported (b : Bool) : OnlyEvents s.imageLoaded
    (if b then s.imageLoaded.raiseD 0x0804 2 0xFF 0 [byte s.dev.selector] else s.imageLoaded) := by
  split
  · exact State.raiseD_onlyEvents ..
  · exact .refl _

/-- Bank `b` holds the recovery image (R700). -/
def State.recovered (s : State) (b : Nat) : State := s.modBank b (fun _ => { image := s.dev.recoveryImage })

theorem State.length_recovered (b : Nat) : (s.recovered b).dev.banks.length = s.dev.banks.length := length_modAt ..

/-! The clauses of the row, phase by phase. -/

/-- Phase 1 ends with a bank chosen, or as a failed attempt (R695, R698). -/
theorem powerAndRomComplete_spec (hp : s.powered = true) (hstate : s.dev.state = .booting) (hphase : s.dev.phase1 = true)
    (hperst : s.board.perst = false) : ∃ t, exec .powerAndRomComplete s = .next t
      ∧ (s.bankSkipped s.dev.selector = false → t.dev.phase1 = false ∧ t.dev.attemptStart = s.clock.timebase
          ∧ t.dev.state = .booting ∧ t = { s with dev := t.dev })
      ∧ (s.bankSkipped s.dev.selector = true → t.dev.state = .booting ∨ t.dev.state = .failed) := by
  refine ⟨_, exec_powerAndRomComplete hp hstate hphase hperst, fun h => ?_, fun h => ?_⟩
  · simp only [h, Bool.false_eq_true, if_false]
    exact ⟨rfl, rfl, hstate, rfl⟩
  · rw [if_pos h]
    exact State.attemptFailed_state _ true

/-- Phase 2 ends with the image loaded, or as a failed attempt (R689, R698). -/
theorem imageCheckComplete_spec (hp : s.powered = true) (hstate : s.dev.state = .booting) (hphase : s.dev.phase1 = false) :
    ∃ t, exec .imageCheckComplete s = .next t
      ∧ (s.bankSkipped s.dev.selector = false → t.dev.state = .recovering ∧ t.dev.activeBank = s.dev.selector
          ∧ t.parts = s.parts ∧ t.trains = s.trains ∧ t.ledger = s.ledger ∧ t.presence = s.presence)
      ∧ (s.bankSkipped s.dev.selector = true → t.dev.state = .booting ∨ t.dev.state = .failed) := by
  refine ⟨_, exec_imageCheckComplete hp hstate hphase, fun h => ?_, fun h => ?_⟩
  · simp only [h, Bool.false_eq_true, if_false]
    have hevents := s.imageLoaded_reported s.dev.fallback
    rw [hevents.rest]
    exact ⟨rfl, rfl, rfl, rfl, rfl, rfl⟩
  · rw [if_pos h]
    exact State.attemptFailed_state _ true

/-- Phase 3 ends with the open folio closed (R664, R703). -/
theorem stagingRecoveryComplete_spec (good : Bool) (hp : s.powered = true) (hstate : s.dev.state = .recovering) :
    ∃ t, exec (.stagingRecoveryComplete good) s = .next t
      ∧ t.dev = { s.dev with state := if s.dev.trained then .testing else .training } ∧ t.ledger.open_ = []
      ∧ t.ledger.nextSeq = s.ledger.nextSeq ∧ t.ledger.flashFailed = !good ∧ t = { s with dev := t.dev, ledger := t.ledger }
      ∧ (s.ledger.open_ ≠ [] → t.ledger.mram.length = s.ledger.mram.length + 1) := by
  refine ⟨_, if_neg (by simp [hp, hstate]), ?_⟩
  dsimp only
  by_cases hopen : s.ledger.open_ = []
  · rw [State.closeWith, if_pos hopen]
    exact ⟨rfl, hopen, rfl, rfl, rfl, fun h => absurd hopen h⟩
  · rw [State.closeWith, if_neg hopen]
    exact ⟨rfl, rfl, rfl, rfl, rfl, fun _ => List.length_append⟩

/-- A boot attempt times out and is counted (R699). -/
theorem bootAttemptTimeout_spec (hp : s.powered = true) (hready : s.beforeReady = true) (hfailed : s.dev.state ≠ .failed)
    (hphase : s.dev.phase1 = false) (hlate : s.dev.attemptStart + 500000000 ≤ s.clock.timebase) (hbanks : s.dev.banks.length = 2)
    (hselector : s.dev.selector < 2) : ∃ t, exec .bootAttemptTimeout s = .next t
      ∧ ((t.bank s.dev.selector).attempts = (s.bank s.dev.selector).attempts + 1)
      ∧ (t.dev.state = .booting ∨ t.dev.state = .failed) :=
  ⟨_, if_pos (by simp [hp, hready, hfailed, hphase, hlate]), State.attemptFailed_attempts false hbanks hselector,
    State.attemptFailed_state s false⟩

/-- Both banks hold the recovery image, and the device resets (R700). -/
theorem recoveryComplete_spec (hp : s.powered = true) (hstate : s.dev.state = .failed) (hprogress : s.dev.recoveryProgress = 2)
    (hbanks : s.dev.banks.length = 2) : ∃ t, exec (.recoveryComplete true true) s = .next t ∧ t.dev.state = .booting
      ∧ t.dev.selector = 0 ∧ (t.bank 0).image = s.dev.recoveryImage ∧ (t.bank 1).image = s.dev.recoveryImage := by
  refine ⟨_, (if_neg (by simp [hp, hstate, hprogress])).trans (if_pos rfl), rfl, rfl, ?_, ?_⟩
  · have hother := (s.recovered 0).bank_modBank_other (i := 1) (j := 0) (by decide) (fun _ => { image := s.dev.recoveryImage })
    have hfirst := State.bank_modBank (s := s) (i := 0) (by omega) (fun _ => { image := s.dev.recoveryImage })
    exact congrArg Bank.image (hother.trans hfirst)
  · exact congrArg Bank.image (State.bank_modBank (s := s.recovered 0) (i := 1) (by rw [State.length_recovered, hbanks]; decide) _)

/-! Self-test (R701, R702). -/

/-- `t` is `s` behind the report of failed units: the partitions of `bad` are faulted, no other changes its state, and clock
and SELFTEST_DEV stay. -/
structure FaultsOnly (bad : Nat → Prop) (s t : State) : Prop where
  parts : t.parts.length = s.parts.length
  clock : t.clock = s.clock
  units : t.dev.selfTestDev = s.dev.selfTestDev
  faulted : ∀ p, p < s.parts.length → bad p ∨ (s.part p).fault ≠ 0 → (t.part p).fault ≠ 0
  others : ∀ p, ¬ bad p → (t.part p).fault = (s.part p).fault

theorem FaultsOnly.trans {b c : Nat → Prop} {t u : State} (h : FaultsOnly b s t) (k : FaultsOnly c t u) :
    FaultsOnly (fun p => b p ∨ c p) s u where
  parts := k.parts.trans h.parts
  clock := k.clock.trans h.clock
  units := k.units.trans h.units
  faulted p hp hbad := by
    refine k.faulted p (h.parts ▸ hp) ?_
    obtain (hb | hc) | hf := hbad
    · exact .inr (h.faulted p hp (.inl hb))
    · exact .inl hc
    · exact .inr (h.faulted p hp (.inr hf))
  others p hp := (k.others p fun hc => hp (.inr hc)).trans (h.others p fun hb => hp (.inl hb))

theorem FaultsOnly.congr {b c : Nat → Prop} {t : State} (h : FaultsOnly b s t) (hbad : ∀ p, b p ↔ c p) : FaultsOnly c s t :=
  (funext fun p => propext (hbad p) : b = c) ▸ h

/-- Nothing that keeps partitions, clock and SELFTEST_DEV faults a partition. -/
theorem FaultsOnly.none {t : State} (parts : t.parts = s.parts) (clock : t.clock = s.clock)
    (units : t.dev.selfTestDev = s.dev.selfTestDev) : FaultsOnly (fun _ => False) s t where
  parts := by rw [parts]
  clock := clock
  units := units
  faulted p _ hbad := by
    obtain hb | hf := hbad
    · exact hb.elim
    · rw [State.part, parts]
      exact hf
  others p _ := by rw [State.part, parts, State.part]

theorem OnlyRecords.faultsNone {t : State} (h : OnlyRecords s t) : FaultsOnly (fun _ => False) s t :=
  .none h.parts h.clock (by rw [h.dev])

theorem FaultsOnly.foldl {α : Type} {f : State → α → State} {bad : α → Nat → Prop} (xs : List α)
    (hf : ∀ u, ∀ a ∈ xs, FaultsOnly (bad a) u (f u a)) : FaultsOnly (fun p => ∃ a ∈ xs, bad a p) s (xs.foldl f s) := by
  induction xs generalizing s with
  | nil => exact (FaultsOnly.none rfl rfl rfl).congr (by simp)
  | cons a xs ih =>
    have hfirst := hf s a List.mem_cons_self
    have hrest := ih (s := f s a) fun u b hb => hf u b (List.mem_cons_of_mem a hb)
    exact (hfirst.trans hrest).congr (by simp)

theorem State.modPart_faultsOnly (p : Nat) {g : Part → Part} (hg : ∀ x, (g x).fault ≠ 0) : FaultsOnly (· = p) s (s.modPart p g) where
  parts := List.length_set
  clock := rfl
  units := rfl
  faulted q hq hbad := by
    by_cases h : q = p
    · subst h
      rw [s.part_modPart q g hq]
      exact hg _
    · rw [s.part_modPart_other p q g h]
      exact hbad.resolve_left h
  others q hq := by rw [s.part_modPart_other p q g hq]

theorem State.modChannel_faultsNone (p c : Nat) (g : Channel → Channel) : FaultsOnly (fun _ => False) s (s.modChannel p c g) := by
  have hfault (q : Nat) : ((s.modChannel p c g).part q).fault = (s.part q).fault := by
    obtain h | ⟨-, h⟩ := s.part_modPart_any p (fun x => { x with channels := modAt x.channels c g }) q
    · exact congrArg Part.fault h
    · exact (congrArg Part.fault h :)
  refine ⟨List.length_set, rfl, rfl, fun q _ hbad => ?_, fun q _ => hfault q⟩
  rw [hfault q]
  exact hbad.resolve_left id

/-- A partition that carries a fault, its own or this one. -/
theorem fault_orElse_ne {n : Nat} (x : Part) (hn : n ≠ 0) : (if x.fault = 0 then n else x.fault) ≠ 0 := by
  split
  · exact hn
  · assumption

theorem State.faultSelfTest_faultsOnly (p : Nat) : FaultsOnly (· = p) s (s.faultSelfTest p) :=
  ((s.modPart_faultsOnly p fun x => fault_orElse_ne x Nat.one_ne_zero).trans
    (FaultsOnly.none (t := s.faultSelfTest p) rfl rfl rfl)).congr (by simp)

theorem State.failChannel_faultsOnly (p c : Nat) : FaultsOnly (· = p) s (s.failChannel p c) := by
  have hmarked : FaultsOnly (fun _ => False) s (s.channelMarked p c) :=
    ((s.modChannel_faultsNone p c _).trans (FaultsOnly.none (t := s.channelMarked p c) rfl rfl rfl)).congr (by simp)
  have hfailed : FaultsOnly (· = p) s (s.channelFailed p c) :=
    (hmarked.trans (State.modPart_faultsOnly p fun x => fault_orElse_ne x (n := 4) (by decide))).congr (by simp)
  exact (hfailed.trans (s.failChannel_onlyEvents p c).records.faultsNone).congr (by simp)

theorem State.selfTestFail_faultsNone (row unit part : Nat) : FaultsOnly (fun _ => False) s (s.selfTestFail row unit part) :=
  (s.selfTestFail_onlyEvents row unit part).records.faultsNone

/-- The state once every failed unit is reported, SELFTEST_PART and SELFTEST_DEV written (R702). -/
def State.unitsReported (s : State) (parts units : Nat) (channels : List (Nat × Nat)) : State :=
  let s := s.modDev (fun d => { d with selfTestPart := 0, selfTestDev := units })
  let s := ((List.range 16).filter (bit parts)).foldl (fun s p => (s.faultSelfTest p).selfTestFail 0 0xFF p) s
  let s := channels.foldl (fun s (p, c) => ((s.failChannel p c).faultSelfTest p).selfTestFail 1 c p) s
  (deviceRows.filter (fun x => bit units x.1)).foldl (fun s x => s.selfTestFail x.2.1 x.2.2 0xFF) s

/-- A partition that self-test faults: its own tests failed, or one of its pseudo-channels. -/
def selfTestFaults (parts : Nat) (channels : List (Nat × Nat)) (p : Nat) : Prop :=
  (∃ q ∈ (List.range 16).filter (bit parts), p = q) ∨ ∃ x ∈ channels, p = x.1

theorem State.unitsReported_faultsOnly (parts units : Nat) (channels : List (Nat × Nat)) : FaultsOnly (selfTestFaults parts channels)
    (s.modDev (fun d => { d with selfTestPart := 0, selfTestDev := units })) (s.unitsReported parts units channels) := by
  have hpart (u : State) (p : Nat) : FaultsOnly (fun q => q = p) u ((u.faultSelfTest p).selfTestFail 0 0xFF p) :=
    ((u.faultSelfTest_faultsOnly p).trans (State.selfTestFail_faultsNone ..)).congr (by simp)
  have hchannel (u : State) (x : Nat × Nat) :
      FaultsOnly (fun q => q = x.1) u (((u.failChannel x.1 x.2).faultSelfTest x.1).selfTestFail 1 x.2 x.1) :=
    (((u.failChannel_faultsOnly x.1 x.2).trans (State.faultSelfTest_faultsOnly x.1)).trans (State.selfTestFail_faultsNone ..)).congr
      (by simp)
  have hall := ((FaultsOnly.foldl ((List.range 16).filter (bit parts)) fun u p _ => hpart u p).trans
    (FaultsOnly.foldl channels fun u x _ => hchannel u x)).trans
    (FaultsOnly.foldl (deviceRows.filter (fun x => bit units x.1)) fun u x _ => u.selfTestFail_faultsNone x.2.1 x.2.2 0xFF)
      (s := s.modDev (fun d => { d with selfTestPart := 0, selfTestDev := units }))
  exact hall.congr (by simp [selfTestFaults])

/-- The units out of use noted in the state and the ledger, audit hold not yet reconsidered (R702, R703). -/
def State.unitsNoted (s : State) (units : Nat) : State :=
  let s := { s with enginesOffline := (List.range 4).filter (fun e => bit units (3 + e)) }
  s.modLedger (fun l => { l with
    mramFailed := bit units 0, flashFailed := l.flashFailed || bit units 1, gaspFailed := bit units 2
    faultsOwed := l.faultsOwed ++ (if bit units 0 then [(1, 0x20)] else []) ++ (if bit units 1 then [(2, 0x10)] else []) })

/-- The state that the self-test ends in, its failed units reported. -/
def State.selfTestEnds (s : State) (units : Nat) : State :=
  (if bit units 0 then (s.unitsNoted units).setHold 0x1302 else (s.unitsNoted units).lightAlarm).modDev (fun d => { d with
    state := if bit units 13 || bit units 14 || bit units 15 then .failed else .initialising })

theorem exec_selfTestComplete {parts units : Nat} {channels : List (Nat × Nat)} (hp : s.powered = true)
    (hstate : s.dev.state = .testing) (hunits : units < 65536) :
    exec (.selfTestComplete parts units channels) s = .next ((s.unitsReported parts units channels).selfTestEnds units) := by
  refine (if_neg (by simp [hp, hstate])).trans ?_
  rw [Nat.mod_eq_of_lt hunits]
  rfl

theorem State.holdNoted_onlyRecords (units : Nat) : OnlyRecords (s.unitsNoted units)
    (if bit units 0 then (s.unitsNoted units).setHold 0x1302 else (s.unitsNoted units).lightAlarm) := by
  split
  · exact State.setHold_onlyRecords ..
  · exact ⟨rfl, fun _ => rfl⟩

/-- Phase 5 ends: what failed is faulted, and only the units of Table 21.3 that say so lead to FAILED (R701, R702). -/
theorem selfTestComplete_spec {parts units : Nat} {channels : List (Nat × Nat)} (hwf : s.wf = true) (hp : s.powered = true)
    (hstate : s.dev.state = .testing) (hunits : units < 65536) :
    ∃ t, exec (.selfTestComplete parts units channels) s = .next t
      ∧ t.dev.state = (if bit units 13 || bit units 14 || bit units 15 then .failed else .initialising)
      ∧ t.dev.selfTestDev = units
      ∧ (∀ p, p < 16 → (bit parts p = true ∨ ∃ c, (p, c) ∈ channels) → (t.part p).fault ≠ 0)
      ∧ (∀ p, p < 16 → bit parts p = false → (∀ c, (p, c) ∉ channels) → (t.part p).fault = (s.part p).fault)
      ∧ t.enginesOffline = (List.range 4).filter (fun e => bit units (3 + e)) ∧ t.clock = s.clock := by
  have hreported := s.unitsReported_faultsOnly parts units channels
  have hnoted := (s.unitsReported parts units channels).holdNoted_onlyRecords units
  have hends : FaultsOnly (fun _ => False) (s.unitsReported parts units channels)
      ((s.unitsReported parts units channels).selfTestEnds units) :=
    .none hnoted.parts hnoted.clock (congrArg Device.selfTestDev hnoted.dev :)
  have hall : FaultsOnly (selfTestFaults parts channels) (s.modDev (fun d => { d with selfTestPart := 0, selfTestDev := units }))
      ((s.unitsReported parts units channels).selfTestEnds units) := (hreported.trans hends).congr (by simp)
  refine ⟨_, exec_selfTestComplete hp hstate hunits, rfl, hall.units, fun p hp16 hbad => ?_, fun p hp16 hpart hchannel => ?_,
    hnoted.enginesOffline, hall.clock⟩
  · refine hall.faulted p (by change p < s.parts.length; rw [s.wf_parts hwf]; exact hp16) (.inl ?_)
    obtain hb | ⟨c, hc⟩ := hbad
    · exact .inl ⟨p, List.mem_filter.2 ⟨List.mem_range.2 hp16, hb⟩, rfl⟩
    · exact .inr ⟨(p, c), hc, rfl⟩
  · refine hall.others p ?_
    rintro (⟨q, hq, rfl⟩ | ⟨⟨q, c⟩, hx, rfl⟩)
    · exact absurd (List.mem_filter.1 hq).2 (by simp [hpart])
    · exact hchannel c hx

/-! The mount (R704, R705). -/

/-- `t` is `s` but for the ledger and what events change; the ledger has its first record where it had it before. -/
structure KeepsGenesis (s t : State) : Prop extends OnlyRecords s t where
  genesis : t.ledger.genesis = s.ledger.genesis

theorem KeepsGenesis.refl (s : State) : KeepsGenesis s s := ⟨.refl s, rfl⟩

theorem KeepsGenesis.trans {t u : State} (h : KeepsGenesis s t) (k : KeepsGenesis t u) : KeepsGenesis s u :=
  ⟨h.toOnlyRecords.trans k.toOnlyRecords, k.genesis.trans h.genesis⟩

theorem KeepsGenesis.foldl {α : Type} {f : State → α → State} (hf : ∀ u a, KeepsGenesis u (f u a)) (xs : List α) :
    KeepsGenesis s (xs.foldl f s) :=
  List.foldlRecOn (motive := KeepsGenesis s) _ _ (.refl s) fun _ h a _ => h.trans (hf _ a)

theorem OnlyStaging.keepsGenesis {t : State} (h : OnlyStaging s t) : KeepsGenesis s t := ⟨h.toOnlyRecords, congrArg (·.2.2.2) h.tiers⟩

theorem OnlyEvents.keepsGenesis {t : State} (h : OnlyEvents s t) : KeepsGenesis s t := h.onlyStaging.keepsGenesis

theorem State.modLedger_keepsGenesis (g : Ledger → Ledger) (hg : ∀ l, (g l).genesis = l.genesis) : KeepsGenesis s (s.modLedger g) :=
  ⟨s.modLedger_onlyRecords g, hg _⟩

theorem State.stage_keepsGenesis (o : Bool) (n : Nat) (rs : List (List Byte)) (p b : Nat) : KeepsGenesis s (s.stage o n rs p b).2 :=
  OnlyStaging.keepsGenesis ⟨s.stage_onlyRecords .., s.stage_tiers ..⟩

theorem State.setHold_keepsGenesis (reason : Nat) : KeepsGenesis s (s.setHold reason) := by
  refine ⟨s.setHold_onlyRecords reason, ?_⟩
  unfold State.setHold
  dsimp only
  (repeat' split)
  · rw [(State.raiseD_onlyEvents ..).ledger]; rfl
  · rw [(State.raiseD_onlyEvents ..).ledger]; rfl
  · rfl

theorem State.stageGasp_keepsGenesis : KeepsGenesis s s.stageGasp := by
  unfold State.stageGasp
  dsimp only
  (repeat' split) <;> exact ⟨⟨rfl, fun _ => rfl⟩, rfl⟩

theorem State.stageOwed_keepsGenesis : KeepsGenesis s s.stageOwed := by
  refine (s.modLedger_keepsGenesis (fun l => { l with owed := [] }) fun _ => rfl).trans (.foldl (fun u x => ?_) s.ledger.owed)
  exact u.stage_keepsGenesis ..

/-- The start-up records are staged behind the ledger's first record, which is written where there was none. -/
theorem State.stageStartup_onlyRecords : OnlyRecords s s.stageStartup ∧ s.stageStartup.ledger.genesis = true := by
  unfold State.stageStartup
  extract_lets put top gasped first gapped faulted settled
  have hput (u : State) (type : Nat) (body : List Byte) : KeepsGenesis u (put u type body) := u.stage_keepsGenesis ..
  have hfirst : OnlyRecords s first ∧ first.ledger.genesis = true := by
    by_cases h : gasped.ledger.genesis = true
    · simp only [first, if_pos h]
      exact ⟨s.stageGasp_keepsGenesis.toOnlyRecords, h⟩
    · simp only [first, if_neg h]
      exact ⟨s.stageGasp_keepsGenesis.toOnlyRecords.trans ((hput ..).toOnlyRecords.trans (State.modLedger_onlyRecords ..)), rfl⟩
  have hgapped : KeepsGenesis first gapped := State.tryGap_onlyStaging.keepsGenesis
  have hfaulted : KeepsGenesis gapped faulted := .foldl (fun u x => (hput u ..).trans (State.raiseD_onlyEvents ..).keepsGenesis) _
  have hsettled : KeepsGenesis faulted settled := faulted.modLedger_keepsGenesis _ fun _ => rfl
  have hrest (body : List Byte) := ((hgapped.trans hfaulted).trans hsettled).trans (hput settled 0x02 body)
  exact ⟨hfirst.1.trans (hrest _).toOnlyRecords, (hrest _).genesis.trans hfirst.2⟩

/-- The device READY, its fuses raised as the image says, and the attempts of its bank cleared (R691, R699, R705). -/
def State.madeReady (s : State) (b : Nat) (img : List Byte) : State :=
  (s.modDev (fun d => { d with
    state := .ready, minSvn := max d.minSvn (imageFloor img), revoked := Nat.lor d.revoked (imageRevokes img) })).modBank b
      (fun k => { k with attempts := 0 })

/-- Audit hold ends where staging works again (R661). -/
def State.holdEnds (s : State) : State := if s.ledger.hold = 0x1302 ∧ !s.ledger.mramFailed then s.setHold 0 else s

/-- A break of the loop without power is reported (R676). -/
def State.breakTold (s : State) : State :=
  if s.presence.breakOwed then (s.modPresence (fun p => { p with breakOwed := false })).loopBreak else s

/-- The state that the mount ends in, rings not yet checked. -/
def State.mounted (s : State) : State :=
  ((((s.modDev (fun d => { d with bootCount := d.bootCount + 1 })).stageStartup.madeReady s.dev.activeBank
    (s.bank s.dev.activeBank).image).stageOwed).holdEnds).breakTold

theorem State.holdEnds_keepsGenesis : KeepsGenesis s s.holdEnds := by
  unfold State.holdEnds
  split
  · exact s.setHold_keepsGenesis 0
  · exact .refl s

/-- What reporting a break of the loop leaves alone. -/
structure OnlyTold (s t : State) : Prop where
  dev : t.dev = s.dev
  clock : t.clock = s.clock
  trains : t.trains = s.trains
  ledger : t.ledger = s.ledger
  rings : t.ringsEmpty = s.ringsEmpty

theorem State.breakTold_onlyTold : OnlyTold s s.breakTold := by
  unfold State.breakTold
  split
  · have h := State.loopBreak_onlyEvents (s := s.modPresence (fun p => { p with breakOwed := false }))
    exact ⟨h.dev, h.clock, h.trains, h.ledger, (State.ringsEmpty_of_onlyEvents h).trans (State.ringsEmpty_of_fns rfl)⟩
  · exact ⟨rfl, rfl, rfl, rfl, rfl⟩

theorem OnlyRecords.ringsEmpty_eq {t : State} (h : OnlyRecords s t) : t.ringsEmpty = s.ringsEmpty := State.ringsEmpty_of_ground h.ground

theorem exec_ledgerMountComplete (hp : s.powered = true) (hstate : s.dev.state = .mounting)
    (hbays : s.bays.any (fun b => b.state == .mounting) = false) : exec .ledgerMountComplete s = .next s.mounted.checkRings :=
  if_neg (by simp [hp, hstate, hbays])

/-- Phase 7 ends: the device is READY, its ledger begun, its fuses raised as the image says (R704, R705). -/
theorem ledgerMountComplete_spec (hp : s.powered = true) (hstate : s.dev.state = .mounting)
    (hbays : s.bays.any (fun b => b.state == .mounting) = false) (hempty : s.ringsEmpty = true) :
    ∃ t, exec .ledgerMountComplete s = .next t ∧ t.dev.state = .ready ∧ t.dev.bootCount = s.dev.bootCount + 1
      ∧ t.dev.minSvn = max s.dev.minSvn (imageFloor (s.bank s.dev.activeBank).image)
      ∧ t.ledger.genesis = true ∧ t.clock = s.clock ∧ t.trains = s.trains := by
  obtain ⟨hstartup, hgenesis⟩ := (s.modDev (fun d => { d with bootCount := d.bootCount + 1 })).stageStartup_onlyRecords
  generalize hstaged : (s.modDev (fun d => { d with bootCount := d.bootCount + 1 })).stageStartup = staged at hstartup hgenesis
  generalize hready : staged.madeReady s.dev.activeBank (s.bank s.dev.activeBank).image = ready
  have howed := ready.stageOwed_keepsGenesis.trans State.holdEnds_keepsGenesis
  have htold := ready.stageOwed.holdEnds.breakTold_onlyTold
  have hmounted : s.mounted = ready.stageOwed.holdEnds.breakTold := by rw [State.mounted, hstaged, hready]
  have hrings : ready.stageOwed.holdEnds.breakTold.ringsEmpty = true := by
    rw [htold.rings, howed.ringsEmpty_eq, ← hready]
    exact (State.ringsEmpty_of_fns rfl).trans (hstartup.ringsEmpty_eq.trans hempty)
  have hdev : ready.stageOwed.holdEnds.breakTold.dev = ready.dev := htold.dev.trans howed.dev
  have hexec := exec_ledgerMountComplete hp hstate hbays
  rw [hmounted, State.checkRings_empty _ hrings] at hexec
  refine ⟨_, hexec, ?_, ?_, ?_, ?_, ?_, ?_⟩
  · rw [hdev, ← hready]; rfl
  · rw [hdev, ← hready]; exact congrArg Device.bootCount hstartup.dev
  · rw [hdev, ← hready]; exact congrArg (fun d => max d.minSvn _) hstartup.dev
  · rw [htold.ledger, howed.genesis, ← hready]; exact hgenesis
  · rw [htold.clock, howed.clock, ← hready]; exact hstartup.clock
  · rw [htold.trains, howed.trains, ← hready]; exact hstartup.trains

/-- Settles O35, phase by phase: the lemmas above, and the two phases that write no more than the state or the cores. -/
theorem startUpPhases : Obligations.StartUpPhases :=
  ⟨fun _ hp hstate hphase hperst => powerAndRomComplete_spec hp hstate hphase hperst,
    fun _ hp hstate hphase => imageCheckComplete_spec hp hstate hphase,
    fun _ good hp hstate => stagingRecoveryComplete_spec good hp hstate,
    fun _ hp hstate => congrArg Host.Outcome.next (if_pos (by simp [hp, hstate])),
    fun _ _ _ _ hwf hp hstate hunits _ => selfTestComplete_spec hwf hp hstate hunits,
    fun _ hp hstate => ⟨_, if_pos (by simp [hp, hstate]), rfl, rfl, rfl⟩,
    fun _ hp hstate hbays hempty => ledgerMountComplete_spec hp hstate hbays hempty,
    fun _ hp hready hfailed hphase hlate hbanks hselector => bootAttemptTimeout_spec hp hready hfailed hphase hlate hbanks hselector,
    fun _ hp hstate hprogress hbanks => recoveryComplete_spec hp hstate hprogress hbanks⟩

end Sys2Proof.Machine
end
